-- ==== Sys2Proof/Word.lean ====
section
/-!
DEFINITION. The word types of the Lalum LX9 and the finite tables its state is written with.
-/

namespace Sys2Proof

/-- A 32-bit instruction word, or one element of a vector register. -/
abbrev Word := BitVec 32

/-- A byte of memory. -/
abbrev Byte := BitVec 8

/-- A uniform (k) register. -/
abbrev DWord := BitVec 64

/-- A finite table: entries in strictly rising key order, one entry a key. -/
abbrev Tbl (α : Type) := List (Nat × α)

end Sys2Proof
end

