-- ==== Sys2Proof/Config.lean ====
section
/-!
DEFINITION. The values the specification leaves open: constants with no body, so that nothing can evaluate them and no
proof can rest on what they are. Each is named in the assumption log.
-/

namespace Sys2Proof.Config

/-- The n-th fresh word where the specification says that a value is undefined (R63, R207, R212). -/
opaque freeWord : Nat → Word

/-- Which of several equally good candidates the device takes where the specification does not say, by a key that
names the place; it is reduced modulo the number of candidates. -/
opaque pick : Nat → Nat

/-- The number by which sr.trapinfo names an operand position in a format trap (R62, R391), from the instruction word
and the field. -/
opaque operandPos : Word → Nat → BitVec 3

/-- Which of the values within its error bound a special function gives (R228), from the function number and the input
bits. -/
opaque special : Nat → Word → Nat

/-- The t, u and v bits of a triangle hit, from the triangle's nine coordinates, the ray's eight words and the component
0, 1 or 2 (R324 fixes what they approximate); component 3 is where a first-hit ray in the triangle's plane meets it. -/
opaque rayHit : List Word → List Word → Nat → Word

/-- Whether a ray enters a box that it does not meet (R326 leaves this to the engine). -/
opaque boxVisit : List Word → List Word → Bool

/-- A count that depends on timing, read by PERF and CLOCK (R408): item and read number. -/
opaque timing : Nat → Nat → DWord

/-- What a byte of a version backing area reads as while the device owns the area (R128), from its location and the moment. -/
opaque areaByte : Nat → Nat → Byte

/-- The installed GDDR 7 of a peer, in bytes (R246, R440), by peer index: how far the peer's decoder 0 window reaches. -/
opaque peerCapacity : Nat → Nat

/-- The bytes of an area of a save block whose inner layout the specification does not give (R404): area, unit and byte. -/
opaque saveByte : Nat → Nat → Nat → Byte

/-- The digest of SRAMCFG, KVCFG and PARTCFG that the firmware extends M3 with (R443), one byte a number: the specification
does not say how the three registers are laid out for it. -/
opaque configDigest : Nat → Nat → Nat → Nat → Byte

/-- The hash of the public key that the part's fuses name (R442). -/
opaque keyHash : Nat

/-- The minimum security version that the part's fuses name (R442). -/
opaque minVersion : Nat

/-- The security version of a firmware image (R442). -/
opaque imageVersion : List Byte → Nat

/-- Whether the SLH-DSA-SHA2-128s signature that a firmware image carries verifies against the public key of a hash (R442). -/
opaque signatureOk : List Byte → Nat → Bool

/-- The device's identity public key (R444): one byte a number. -/
opaque identityKey : Nat → Byte

/-- The signature that the identity key makes over a message (R444): one byte a number. -/
opaque signature : List Byte → Nat → Byte

end Sys2Proof.Config
end

