-- ==== Sys2Proof/Machine/Tables.lean ====
section
/-!
DEFINITION. Operations on finite tables, on bits and on little-endian bytes, used by every part of the machine.
-/

namespace Sys2Proof.Machine

/-- The entry of a key. -/
def tget {α : Type} : Tbl α → Nat → Option α
  | [], _ => none
  | (j, v) :: t, k => if j = k then some v else tget t k

/-- The entry of a key, or a default. -/
def tgetD {α : Type} (t : Tbl α) (k : Nat) (d : α) : α := (tget t k).getD d

/-- Sets a key's entry, keeping the keys in rising order. -/
def tset {α : Type} : Tbl α → Nat → α → Tbl α
  | [], k, v => [(k, v)]
  | (j, w) :: t, k, v =>
    if k < j then (k, v) :: (j, w) :: t else if k = j then (k, v) :: t else (j, w) :: tset t k v

/-- Removes a key. -/
def tdel {α : Type} (t : Tbl α) (k : Nat) : Tbl α := t.filter (fun e => e.1 != k)

/-- Changes a key's entry where there is one. -/
def tmod {α : Type} (t : Tbl α) (k : Nat) (f : α → α) : Tbl α :=
  match tget t k with
  | some v => tset t k (f v)
  | none => t

/-- The values of a table, in key order. -/
def tvals {α : Type} (t : Tbl α) : List α := t.map (·.2)

/-- The keys of a table. -/
def tkeys {α : Type} (t : Tbl α) : List Nat := t.map (·.1)

/-- Replaces or erases the element at an index of a list. -/
def lset {α : Type} : List α → Nat → α → List α
  | [], _, _ => []
  | _ :: t, 0, v => v :: t
  | h :: t, n + 1, v => h :: lset t n v

/-- Bits hi to lo of a number. -/
def bits (n hi lo : Nat) : Nat := n / 2 ^ lo % 2 ^ (hi - lo + 1)

/-- Bit i of a number. -/
def bit (n i : Nat) : Bool := n / 2 ^ i % 2 == 1

/-- The signed value of the low w bits of a number. -/
def sext (n w : Nat) : Int :=
  let m := n % 2 ^ w
  if m ≥ 2 ^ (w - 1) then (m : Int) - (2 ^ w : Nat) else m

/-- The low w bits of an integer's two's complement. -/
def wrap (i : Int) (w : Nat) : Nat := (i % ((2 ^ w : Nat) : Int)).toNat

/-- The number that bytes spell, first byte least significant (R3). -/
def ofBytes : List Byte → Nat
  | [] => 0
  | b :: t => b.toNat + 256 * ofBytes t

/-- The first n bytes of a number, least significant first (R3). -/
def toBytes : Nat → Nat → List Byte
  | 0, _ => []
  | n + 1, v => BitVec.ofNat 8 v :: toBytes n (v / 256)

/-- The number of bits needed to write a number: 0 for 0. -/
def bitLen (n : Nat) : Nat := if n = 0 then 0 else Nat.log2 n + 1

/-- The lanes that a 64-bit mask names, in ascending order. -/
def lanesOf (m : BitVec 64) : List Nat := (List.range 64).filter (fun i => m.getLsbD i)

/-- The mask that names some lanes. -/
def maskOf : List Nat → BitVec 64
  | [] => 0
  | l :: t => (1#64 <<< l) ||| maskOf t

/-- A list without repeats, keeping the first of each. -/
def dedup {α : Type} [DecidableEq α] : List α → List α
  | [] => []
  | x :: t => x :: (dedup t).filter (fun y => y ≠ x)

/-- One of a list of candidates, chosen by the open constant `pick` at a key; the default where there is none. -/
def choose {α : Type} (key : Nat) (d : α) : List α → α
  | [] => d
  | [x] => x
  | xs => (xs[Config.pick key % xs.length]?).getD d

/-- The smallest of a list of numbers, or a default. -/
def minOf (d : Nat) : List Nat → Nat
  | [] => d
  | x :: t => t.foldl Nat.min x

/-- The largest of a list of numbers, 0 for none. -/
def maxOf (l : List Nat) : Nat := l.foldl Nat.max 0

/-- A list split into groups of n (n > 0); the fuel is the list's length. -/
def chunksAux {α : Type} (n : Nat) : Nat → List α → List (List α)
  | 0, _ => []
  | _ + 1, [] => []
  | f + 1, xs => xs.take n :: chunksAux n f (xs.drop n)

/-- A list split into groups of n. -/
def chunks {α : Type} (n : Nat) (xs : List α) : List (List α) := chunksAux n xs.length xs

/-- Puts an element before the first one it must not follow. -/
def insertBy {α : Type} (before : α → α → Bool) (x : α) : List α → List α
  | [] => [x]
  | y :: t => if before x y then x :: y :: t else y :: insertBy before x t

/-- A list sorted by insertion; equal elements keep their order. -/
def sortBy {α : Type} (before : α → α → Bool) : List α → List α
  | [] => []
  | x :: t => insertBy before x (sortBy before t)

end Sys2Proof.Machine
end

