-- ==== Sys2Proof/Machine/Formats.lean ====
section
/-!
DEFINITION. The number formats (R58 to R80): what a field of bits stands for, exactly, and the rounding of an exact
value into a format. Magnitudes are dyadic: a natural number times a power of two.
-/

namespace Sys2Proof.Machine

/-- What a format's bits stand for. A finite value is (−1)^neg × mant × 2^exp; zero has mant 0 and keeps its sign. -/
inductive FVal where
  | nan (signalling : Bool)
  | inf (neg : Bool)
  | fin (neg : Bool) (mant : Nat) (exp : Int)
  deriving DecidableEq, Repr

/-- Exception flags, laid out as sr.fpflags (R69): nv, dz, of, uf, nx from bit 0. -/
abbrev FFlags := BitVec 5

/-- Invalid. -/
def nv : FFlags := 1
/-- Division by zero. -/
def dz : FFlags := 2
/-- Overflow. -/
def of_ : FFlags := 4
/-- Underflow. -/
def uf : FFlags := 8
/-- Inexact. -/
def nx : FFlags := 16

/-- A binary floating layout (R66, R70, R75): width, fraction width, bias, largest finite encoding, canonical NaN, and
whether the format has infinities. -/
structure FFmt where
  width : Nat
  frac : Nat
  bias : Nat
  maxFin : Nat
  canon : Nat
  hasInf : Bool
  deriving DecidableEq, Repr

/-- F32 (R66). -/
def f32 : FFmt := { width := 32, frac := 23, bias := 127, maxFin := 0x7F7FFFFF, canon := 0x7FC00000, hasInf := true }
/-- F16 (R66). -/
def f16 : FFmt := { width := 16, frac := 10, bias := 15, maxFin := 0x7BFF, canon := 0x7E00, hasInf := true }
/-- BF16 (R66). -/
def bf16 : FFmt := { width := 16, frac := 7, bias := 127, maxFin := 0x7F7F, canon := 0x7FC0, hasInf := true }
/-- E4M3 (R70). -/
def e4m3 : FFmt := { width := 8, frac := 3, bias := 7, maxFin := 0x7E, canon := 0x7F, hasInf := false }
/-- E5M2 (R70). -/
def e5m2 : FFmt := { width := 8, frac := 2, bias := 15, maxFin := 0x7B, canon := 0x7E, hasInf := true }
/-- A36 (R75). -/
def a36 : FFmt :=
  { width := 36, frac := 26, bias := 255, maxFin := 0x7FBFFFFFF, canon := 0x7FE000000, hasInf := true }

/-- What a floating encoding stands for. -/
def FFmt.decode (F : FFmt) (b : Nat) : FVal :=
  let neg := bit b (F.width - 1)
  let m := b % 2 ^ (F.width - 1)
  let e := m / 2 ^ F.frac
  let f := m % 2 ^ F.frac
  if m > F.maxFin then
    if F.hasInf && f == 0 then .inf neg else .nan (F.hasInf && !bit f (F.frac - 1))
  else if e = 0 then .fin neg f (1 - (F.bias : Int) - F.frac)
  else .fin neg (2 ^ F.frac + f) ((e : Int) - F.bias - F.frac)

/-- A rounding mode (R67). -/
inductive RMode where
  | rne | rtz | rup | rdn
  deriving DecidableEq, Repr

/-- The rounding mode of a two-bit field. -/
def RMode.of (n : Nat) : RMode :=
  match n % 4 with
  | 0 => .rne
  | 1 => .rtz
  | 2 => .rup
  | _ => .rdn

/-- Whether the mode rounds away from zero, from the sign, whether the truncated magnitude is odd, and the discarded part
as a fraction rem ÷ den of one unit. -/
def RMode.up (r : RMode) (neg odd : Bool) (rem den : Nat) : Bool :=
  if rem = 0 then false
  else match r with
    | .rne => decide (2 * rem > den) || (decide (2 * rem = den) && odd)
    | .rtz => false
    | .rup => !neg
    | .rdn => neg

/-- mant × 2^exp rounded to a multiple of 2^q: the multiple and whether it is inexact. -/
def roundAt (r : RMode) (neg : Bool) (mant : Nat) (exp q : Int) : Nat × Bool :=
  if exp ≥ q then (mant * 2 ^ (exp - q).toNat, false)
  else
    let d := 2 ^ (q - exp).toNat
    let t := mant / d
    let rem := mant % d
    (if r.up neg (t % 2 == 1) rem d then t + 1 else t, rem != 0)

/-- A sign bit placed at the top of a format. -/
def FFmt.signed (F : FFmt) (neg : Bool) (m : Nat) : Nat := if neg then 2 ^ (F.width - 1) + m else m

/-- What stands for an infinity: E4M3 has none and writes its NaN (R70, R77). -/
def FFmt.infinity (F : FFmt) (neg : Bool) : Nat := if F.hasInf then F.signed neg (F.maxFin / 2 ^ F.frac * 2 ^ F.frac +
  2 ^ F.frac) else F.canon

/-- Rounds a finite magnitude into a format by IEEE 754, underflow detected after rounding (R69, R75, R77). With `sat` an
overflow gives the largest finite magnitude. -/
def FFmt.round (F : FFmt) (r : RMode) (sat : Bool) (neg : Bool) (mant : Nat) (exp : Int) : Nat × FFlags :=
  if mant = 0 then (F.signed neg 0, 0)
  else
    let top : Int := (Nat.log2 mant : Int) + exp
    let emin : Int := 1 - (F.bias : Int)
    let q : Int := max top emin - F.frac
    let (m, inex) := roundAt r neg mant exp q
    let b := (q - (emin - F.frac)).toNat * 2 ^ F.frac + m
    if b > F.maxFin then
      let toInf := match r with
        | .rne => true
        | .rtz => false
        | .rup => !neg
        | .rdn => neg
      (if sat || !toInf then F.signed neg F.maxFin else F.infinity neg, of_ ||| nx)
    else
      let (mu, _) := roundAt r neg mant exp (top - F.frac)
      let tiny := decide (top < emin) && !(decide (top = emin - 1) && mu == 2 ^ (F.frac + 1))
      (F.signed neg b, (if inex then nx else 0) ||| (if inex && tiny then uf else 0))

/-- Encodes an exact value: NaN becomes the canonical NaN (R68), an infinity stays one. -/
def FFmt.encode (F : FFmt) (r : RMode) (v : FVal) : Nat × FFlags :=
  match v with
  | .nan sig => (F.canon, if sig then nv else 0)
  | .inf neg => (F.infinity neg, 0)
  | .fin neg m e => F.round r false neg m e

/-- A value times 2^k. -/
def FVal.scale (v : FVal) (k : Int) : FVal :=
  match v with
  | .fin n m e => .fin n m (e + k)
  | v => v

/-- A finite value as a signed mantissa. -/
def signedMant (neg : Bool) (m : Nat) : Int := if neg then -(m : Int) else m

/-- The exact sum of two finite values as a signed mantissa and an exponent. -/
def addExact (m1 : Int) (e1 : Int) (m2 : Int) (e2 : Int) : Int × Int :=
  let e := min e1 e2
  (m1 * (2 ^ (e1 - e).toNat : Nat) + m2 * (2 ^ (e2 - e).toNat : Nat), e)

/-- −1, 0 or 1 as m1 × 2^e1 is below, equal to or above m2 × 2^e2. -/
def cmpExact (m1 : Int) (e1 : Int) (m2 : Int) (e2 : Int) : Int :=
  let d := (addExact m1 e1 (-m2) e2).1
  if d < 0 then -1 else if d = 0 then 0 else 1

/-- An exact integer as a value. -/
def FVal.ofInt (i : Int) : FVal := .fin (decide (i < 0)) i.natAbs 0

/-- Element widths by format id (R59). -/
def elemBits (fmt : Nat) : Nat :=
  if fmt ≤ 3 then 32 else if fmt ≤ 7 then 16 else if fmt ≤ 12 then 8 else if fmt = 13 then 6
  else if fmt ≤ 16 then 4 else if fmt ≤ 18 then 2 else if fmt = 19 then 64 else 36

/-- Elements per register by format id (R59), with I64 counted as 1 (R231). -/
def elemCount (fmt : Nat) : Nat :=
  if fmt ≤ 3 then 1 else if fmt ≤ 7 then 2 else if fmt ≤ 12 then 4 else if fmt = 13 then 5
  else if fmt ≤ 16 then 8 else if fmt ≤ 18 then 16 else 1

/-- Whether the scale of the tag applies to the format (R59): 8 to 18. -/
def isNarrow (fmt : Nat) : Bool := decide (8 ≤ fmt) && decide (fmt ≤ 18)

/-- The table T8 of R73. -/
def t8 : List Nat := [67108864, 73182735, 79806339, 87029429, 94906266, 103496017, 112863206, 123078199]

/-- The linear magnitude of a log magnitude of E eighths (R73). -/
def linOf (E : Int) : Nat × Int := ((t8[(E % 8).toNat]?).getD 0, E / 8 - 26)

/-- Eighths per code step of a logarithmic format, and its middle code (R72). -/
def lnsStep (fmt : Nat) : Nat × Nat := if fmt = 12 then (1, 64) else if fmt = 13 then (2, 16) else (4, 4)

/-- The log magnitude, in eighths, of a code (R72). -/
def lnsE (fmt c : Nat) : Int := ((lnsStep fmt).1 : Int) * ((c : Int) - ((lnsStep fmt).2 : Int))

/-- The sign and the code of a logarithmic element (R72). -/
def lnsParts (fmt b : Nat) : Bool × Nat := (bit b (elemBits fmt - 1), b % 2 ^ (elemBits fmt - 1))

/-- Whether an integer format is signed (R71). -/
def isSignedFmt (fmt : Nat) : Bool := fmt == 2 || fmt == 6 || fmt == 10 || fmt == 15 || fmt == 17 || fmt == 19

/-- The exact value of an element before its scale (R66 to R75; RAW reads as F32 where CVT reads it, R231). -/
def valueOf (fmt b : Nat) : FVal :=
  if fmt ≤ 1 then f32.decode b
  else if fmt = 4 then f16.decode b
  else if fmt = 5 then bf16.decode b
  else if fmt = 8 then e4m3.decode b
  else if fmt = 9 then e5m2.decode b
  else if fmt = 20 then a36.decode b
  else if fmt = 12 ∨ fmt = 13 ∨ fmt = 14 then
    let (s, c) := lnsParts fmt b
    if c = 0 then .fin false 0 0 else let (m, e) := linOf (lnsE fmt c); .fin s m e
  else if fmt = 18 then (match b % 4 with
    | 1 => .fin false 1 0
    | 3 => .fin true 1 0
    | _ => .fin false 0 0)
  else if isSignedFmt fmt || fmt == 21 then FVal.ofInt (sext b (elemBits fmt))
  else FVal.ofInt b

/-- The smallest non-zero magnitude of a format of 8 bits or less, before scale (R79). -/
def smallest (fmt : Nat) : Nat × Int :=
  if fmt = 8 then (1, -9) else if fmt = 9 then (1, -16)
  else if fmt = 12 ∨ fmt = 13 ∨ fmt = 14 then linOf (lnsE fmt 1) else (1, 0)

/-- The threshold floor(|y| ÷ m × 2^32) of R79. -/
def drawThreshold (fmt : Nat) (m : Nat) (e : Int) : Nat :=
  let (sm, se) := smallest fmt
  let k := e - se + 32
  if k ≥ 0 then m * 2 ^ k.toNat / sm else m / (sm * 2 ^ (-k).toNat)

/-- Whether a conversion of the value takes a draw (R79, R80): a format of 8 bits or less, 0 < |y| < m, and no negative y
into an unsigned format. -/
def takesDraw (fmt : Nat) (v : FVal) : Bool :=
  match v with
  | .fin neg m e =>
    isNarrow fmt && m != 0 && decide (cmpExact m e (smallest fmt).1 (smallest fmt).2 < 0)
      && !(neg && (fmt == 11 || fmt == 16))
  | _ => false

/-- The smallest and largest integers of an integer format (R71, R77). -/
def intRange (fmt : Nat) : Int × Int :=
  if fmt = 18 then (-1, 1)
  else if isSignedFmt fmt then (-((2 ^ (elemBits fmt - 1) : Nat) : Int), ((2 ^ (elemBits fmt - 1) : Nat) : Int) - 1)
  else (0, ((2 ^ elemBits fmt : Nat) : Int) - 1)

/-- The largest code, unbounded above, whose linear value does not exceed m × 2^e (R78); m > 0. -/
def lnsFloor (fmt m : Nat) (e : Int) : Nat :=
  let q : Int := (Nat.log2 m : Int) + e
  let step := (lnsStep fmt).1
  let js := (List.range 8).filter (fun j => j % step == 0 &&
    decide (cmpExact (linOf (8 * q + j)).1 (linOf (8 * q + j)).2 m e ≤ 0))
  ((8 * q + (maxOf js : Int)) / (step : Int) + ((lnsStep fmt).2 : Int)).toNat

/-- Conversion of a finite non-zero magnitude at or above m into a logarithmic format (R78). -/
def toLns (fmt : Nat) (r : RMode) (neg : Bool) (m : Nat) (e : Int) : Nat × FFlags :=
  let lo := lnsFloor fmt m e
  let (lm, le) := linOf (lnsE fmt lo)
  let (hm, he) := linOf (lnsE fmt (lo + 1))
  let exact := cmpExact m e lm le == 0
  let (sm, se) := addExact lm le hm he
  let c := if exact then lo else match r with
    | .rtz => lo
    | .rup => if neg then lo else lo + 1
    | .rdn => if neg then lo + 1 else lo
    | .rne => match cmpExact (2 * m) e sm se with
      | -1 => lo
      | 0 => if lo % 2 = 0 then lo else lo + 1
      | _ => lo + 1
  let top := 2 ^ (elemBits fmt - 1) - 1
  let sgn := if neg then 2 ^ (elemBits fmt - 1) else 0
  if c > top then (sgn + top, of_ ||| nx) else (sgn + c, if exact then 0 else nx)

/-- Conversion of an exact value, the destination scale already divided out, into one element of a format, with the draw
taken where `takesDraw` says so (R77 to R79). A negative value above −1 gives 0 with uf and nx in UI8 and UI4 whatever the
rounding mode, even where it rounds to −1: R77 leaves values below m to R79 (DEDUCED; log entry 67). The saturate bit does
nothing for an F32 destination, of which R77's table has no column: by R78 infinities stay and the mode alone rounds (DEDUCED;
log entry 86). -/
def convertElem (fmt : Nat) (r : RMode) (satBit : Bool) (draw : Word) (v : FVal) : Nat × FFlags :=
  let sat := satBit && fmt != 1
  let isLns := fmt == 12 || fmt == 13 || fmt == 14
  let fl : Option FFmt :=
    if fmt = 1 then some f32 else if fmt = 4 then some f16 else if fmt = 5 then some bf16
    else if fmt = 8 then some e4m3 else if fmt = 9 then some e5m2 else none
  if takesDraw fmt v then
    match v with
    | .fin neg m e =>
      let hit := decide (draw.toNat < drawThreshold fmt m e)
      let mag := if hit then 1 else 0
      match fl with
      | some F => (F.signed neg mag, uf ||| nx)
      | none =>
        if isLns then (if hit then (if neg then 2 ^ (elemBits fmt - 1) + 1 else 1) else 0, uf ||| nx)
        else (wrap (signedMant neg mag) (elemBits fmt), uf ||| nx)
    | _ => (0, 0)
  else
    match fl with
    | some F =>
      match v with
      | .nan sig => (F.canon, if sig then nv else 0)
      | .inf neg =>
        if sat then (F.signed neg F.maxFin, 0)
        else if F.hasInf then (F.infinity neg, 0) else (F.canon, nv)
      | .fin neg m e => F.round r sat neg m e
    | none =>
      if isLns then
        match v with
        | .nan _ => (0, nv)
        | .inf neg => ((if neg then 2 ^ (elemBits fmt - 1) else 0) + 2 ^ (elemBits fmt - 1) - 1, of_)
        | .fin neg m e => if m = 0 then (0, 0) else toLns fmt r neg m e
      else
        let (lo, hi) := intRange fmt
        match v with
        | .nan _ => (0, nv)
        | .inf neg => (wrap (if neg then lo else hi) (elemBits fmt), nv)
        | .fin neg m e =>
          let (t, inex) := roundAt r neg m e 0
          let i := signedMant neg t
          if neg && lo == 0 && m != 0 then
            (0, if isNarrow fmt && decide (cmpExact m e 1 0 < 0) then uf ||| nx else if i ≤ -1 then nv else nx)
          else if i < lo then (wrap lo (elemBits fmt), nv)
          else if i > hi then (wrap hi (elemBits fmt), nv)
          else (wrap i (elemBits fmt), if inex then nx else 0)

/-- The bits of element i of a register of a format (R59). -/
def elemAt (fmt : Nat) (w : Word) (i : Nat) : Nat :=
  let n := elemBits fmt
  w.toNat / 2 ^ (n * i) % 2 ^ n

/-- The elements of a register, element 0 first. -/
def elemsOf (fmt : Nat) (w : Word) : List Nat := (List.range (elemCount fmt)).map (elemAt fmt w)

/-- Packs elements into a register, element 0 least significant. -/
def packElems (n : Nat) : List Nat → Nat
  | [] => 0
  | e :: t => e % 2 ^ n + 2 ^ n * packElems n t

/-- The fmt field of a tag (R58). -/
def tagFmt (t : BitVec 16) : Nat := t.toNat / 2048

/-- The scale field of a tag, signed (R58). -/
def tagScale (t : BitVec 16) : Int := sext t.toNat 8

/-- A tag (R58). -/
def mkTag (fmt : Nat) (scale : Int) : BitVec 16 := BitVec.ofNat 16 (fmt * 2048 + wrap scale 8)

/-- An A36 value rounded by RNE from an exact sum (R75, R85). -/
def roundA36 (neg : Bool) (m : Nat) (e : Int) : BitVec 36 := BitVec.ofNat 36 (a36.round .rne false neg m e).1

end Sys2Proof.Machine
end

