-- ==== Sys2Proof/Machine/Arith.lean ====
section
/-!
DEFINITION. Floating-point arithmetic in F32, F16 and BF16 (R66 to R69, R225 to R230) and the special functions (R228,
R229).
-/

namespace Sys2Proof.Machine

/-- The part of sr.fpctl that arithmetic uses (R67). -/
structure FpCtl where
  rm : RMode
  ftz : Bool
  deriving DecidableEq, Repr

/-- The fields of sr.fpctl (R67). -/
def FpCtl.of (w : BitVec 32) : FpCtl := { rm := RMode.of w.toNat, ftz := w.getLsbD 2 }

/-- Whether an encoding is a subnormal. -/
def FFmt.isSub (F : FFmt) (b : Nat) : Bool :=
  let m := b % 2 ^ (F.width - 1)
  decide (0 < m) && decide (m < 2 ^ F.frac)

/-- The sign bit of an encoding. -/
def FFmt.neg (F : FFmt) (b : Nat) : Bool := bit b (F.width - 1)

/-- An input as ftz leaves it (R67). -/
def FpCtl.input (c : FpCtl) (F : FFmt) (b : Nat) : Nat := if c.ftz && F.isSub b then F.signed (F.neg b) 0 else b

/-- A rounded result as ftz leaves it (R67, R69). -/
def FpCtl.output (c : FpCtl) (F : FFmt) (r : Nat × FFlags) : Nat × FFlags :=
  if c.ftz && F.isSub r.1 then (F.signed (F.neg r.1) 0, r.2 ||| uf ||| nx) else r

/-- The value of an input. -/
def FpCtl.val (c : FpCtl) (F : FFmt) (b : Nat) : FVal := F.decode (c.input F b)

/-- Whether a value is a NaN. -/
def FVal.isNan (v : FVal) : Bool := match v with | .nan _ => true | _ => false

/-- Whether a value is a signalling NaN. -/
def FVal.isSnan (v : FVal) : Bool := match v with | .nan true => true | _ => false

/-- A value with its sign reversed. -/
def FVal.negate (v : FVal) : FVal :=
  match v with
  | .nan s => .nan s
  | .inf n => .inf (!n)
  | .fin n m e => .fin (!n) m e

/-- The exact product, with the invalid flag of 0 × ∞ (R226). -/
def mulVal (x y : FVal) : FVal × FFlags :=
  let sig : FFlags := if x.isSnan || y.isSnan then nv else 0
  match x, y with
  | .nan _, _ => (.nan false, sig)
  | _, .nan _ => (.nan false, sig)
  | .inf a, .inf b => (.inf (a != b), 0)
  | .inf a, .fin b m _ => if m = 0 then (.nan false, nv) else (.inf (a != b), 0)
  | .fin a m _, .inf b => if m = 0 then (.nan false, nv) else (.inf (a != b), 0)
  | .fin a m e, .fin b n f => (.fin (a != b) (m * n) (e + f), 0)

/-- The exact sum, with the invalid flag of ∞ − ∞; the sign of a zero sum follows the rounding mode (IEEE 754). -/
def addVal (r : RMode) (x y : FVal) : FVal × FFlags :=
  let sig : FFlags := if x.isSnan || y.isSnan then nv else 0
  match x, y with
  | .nan _, _ => (.nan false, sig)
  | _, .nan _ => (.nan false, sig)
  | .inf a, .inf b => if a == b then (.inf a, 0) else (.nan false, nv)
  | .inf a, .fin _ _ _ => (.inf a, 0)
  | .fin _ _ _, .inf b => (.inf b, 0)
  | .fin a m e, .fin b n f =>
    let (s, g) := addExact (signedMant a m) e (signedMant b n) f
    if s = 0 then (.fin (if m = 0 ∧ n = 0 ∧ a = b then a else r == .rdn) 0 0, 0)
    else (.fin (decide (s < 0)) s.natAbs g, 0)

/-- Rounds a value and applies ftz to the result. -/
def FpCtl.finish (c : FpCtl) (F : FFmt) (v : FVal × FFlags) : Nat × FFlags :=
  let r := c.output F (F.encode c.rm v.1)
  (r.1, r.2 ||| v.2)

/-- x + y (R226). -/
def fAdd (c : FpCtl) (F : FFmt) (x y : Nat) : Nat × FFlags := c.finish F (addVal c.rm (c.val F x) (c.val F y))

/-- x − y (R226). -/
def fSub (c : FpCtl) (F : FFmt) (x y : Nat) : Nat × FFlags :=
  c.finish F (addVal c.rm (c.val F x) (c.val F y).negate)

/-- x × y (R226). -/
def fMul (c : FpCtl) (F : FFmt) (x y : Nat) : Nat × FFlags := c.finish F (mulVal (c.val F x) (c.val F y))

/-- x × y + z with one rounding; `sub` takes z away instead (R226). -/
def fFma (c : FpCtl) (F : FFmt) (sub : Bool) (x y z : Nat) : Nat × FFlags :=
  let p := mulVal (c.val F x) (c.val F y)
  let zv := c.val F z
  let s := addVal c.rm p.1 (if sub then zv.negate else zv)
  c.finish F (s.1, s.2 ||| p.2)

/-- A36 bits rounded from an exact value (R75). -/
def toA36 (v : FVal) : Nat := (a36.encode .rne v).1

/-- Whether x < y as numbers with −0 below +0 (R68). -/
def ltSigned (x y : FVal) : Bool :=
  match x, y with
  | .inf a, .inf b => a && !b
  | .inf a, .fin _ _ _ => a
  | .fin _ _ _, .inf b => !b
  | .fin a m e, .fin b n f =>
    let c := cmpExact (signedMant a m) e (signedMant b n) f
    decide (c < 0) || (decide (c = 0) && a && !b)
  | _, _ => false

/-- FMIN, FMAX and, with `num`, FMINNUM and FMAXNUM (R68). -/
def fMinMax (c : FpCtl) (F : FFmt) (isMax num : Bool) (x y : Nat) : Nat × FFlags :=
  let xb := c.input F x
  let yb := c.input F y
  let xv := F.decode xb
  let yv := F.decode yb
  let sig : FFlags := if xv.isSnan || yv.isSnan then nv else 0
  if xv.isNan && yv.isNan then (F.canon, sig)
  else if xv.isNan then (if num then yb else F.canon, sig)
  else if yv.isNan then (if num then xb else F.canon, sig)
  else if ltSigned xv yv then (if isMax then yb else xb, 0) else (if isMax then xb else yb, 0)

/-- The conditions of FCMP (R227). -/
inductive FCond where
  | eq | ne | lt | le | unord | ord
  deriving DecidableEq, Repr

/-- −1, 0 or 1 as x is below, equal to or above y, zeros equal; neither is a NaN. -/
def cmpVal (x y : FVal) : Int :=
  match x, y with
  | .inf a, .inf b => if a == b then 0 else if a then -1 else 1
  | .inf a, _ => if a then -1 else 1
  | _, .inf b => if b then 1 else -1
  | .fin a m e, .fin b n f => cmpExact (signedMant a m) e (signedMant b n) f
  | _, _ => 0

/-- FCMP's result and flags (R227). -/
def fCompare (c : FpCtl) (k : FCond) (x y : Nat) : Bool × FFlags :=
  let xv := c.val f32 x
  let yv := c.val f32 y
  let un := xv.isNan || yv.isNan
  let sig : FFlags := if xv.isSnan || yv.isSnan then nv else 0
  let quiet : FFlags := if un then nv else 0
  match k with
  | .eq => (!un && cmpVal xv yv == 0, sig)
  | .ne => (un || cmpVal xv yv != 0, sig)
  | .lt => (!un && decide (cmpVal xv yv < 0), quiet)
  | .le => (!un && decide (cmpVal xv yv ≤ 0), quiet)
  | .unord => (un, sig)
  | .ord => (!un, sig)

/-- The one-hot class word of FCLASS (R226). -/
def fClass (b : Nat) : Nat :=
  let neg := f32.neg b
  match f32.decode b with
  | .nan true => 256
  | .nan false => 512
  | .inf n => if n then 1 else 128
  | .fin _ m _ =>
    if m = 0 then (if neg then 8 else 16)
    else if f32.isSub b then (if neg then 4 else 32) else (if neg then 2 else 64)

/-- The integer square root, found bit by bit from bit n − 1 down. -/
def isqrtAux (v : Nat) : Nat → Nat → Nat
  | 0, r => r
  | n + 1, r => if (r + 2 ^ n) * (r + 2 ^ n) ≤ v then isqrtAux v n (r + 2 ^ n) else isqrtAux v n r

/-- The integer square root. -/
def isqrt (v : Nat) : Nat := isqrtAux v (bitLen v / 2 + 1) 0

/-- 2π × 2^300, rounded down. -/
def twoPi300 : Nat := 12799074516701066808997804592552191239937198809484765912489140366271425664275751838873863962

/-- ln 2 × 2^96, rounded down. -/
def ln2_96 : Nat := 54916777467707473351141471128

/-- The series Σ t^k ÷ k! with its terms' signs given, in fixed point of 96 fraction bits: `term` is the k-th. -/
def expSeries (t : Int) : Nat → Nat → Int → Int → Int
  | 0, _, _, sum => sum
  | n + 1, k, term, sum => expSeries t n (k + 1) (term * t / ((2 ^ 96 * (k + 1) : Nat) : Int)) (sum + term)

/-- e^t for |t| ≤ 8, in fixed point of 96 fraction bits. -/
def expFix (t : Int) : Int := expSeries t 60 0 ((2 ^ 96 : Nat) : Int) 0

/-- The series of sin or cos in fixed point of 96 fraction bits. -/
def trigSeries (t : Int) : Nat → Nat → Int → Int → Int
  | 0, _, _, sum => sum
  | n + 1, k, term, sum =>
    trigSeries t n (k + 2)
      (-(term * t / ((2 ^ 96 : Nat) : Int) * t / ((2 ^ 96 * ((k + 1) * (k + 2)) : Nat) : Int))) (sum + term)

/-- A value in fixed point of n fraction bits, rounded down. -/
def toFix (n : Nat) (m : Int) (e : Int) : Int :=
  if e + n ≥ 0 then m * ((2 ^ (e + n).toNat : Nat) : Int) else m / ((2 ^ (-(e + n)).toNat : Nat) : Int)

/-- Binary digits of the logarithm of x in [1, 2), x in fixed point of 128 fraction bits (the digit-by-digit method). -/
def log2Digits : Nat → Nat → Nat → Nat
  | 0, _, acc => acc
  | n + 1, x, acc =>
    let sq := x * x / 2 ^ 128
    if sq ≥ 2 ^ 129 then log2Digits n (sq / 2) (2 * acc + 1) else log2Digits n sq (2 * acc)

/-- What a special function approximates, within 2^−60 relative or absolute, as mantissa and exponent; the input is finite,
non-zero and normal (R228). -/
def specialExact (fn : Nat) (neg : Bool) (m : Nat) (e : Int) : Int × Int :=
  let sm := signedMant neg m
  match fn with
  | 0 => (signedMant neg (2 ^ 120 / m), -120 - e)
  | 1 =>
    let h : Int := e / 2
    let mm := if e % 2 = 0 then m else 2 * m
    ((isqrt (2 ^ 200 / mm) : Int), -100 - h)
  | 3 =>
    let fx := toFix 96 sm e
    let n := fx / ((2 ^ 96 : Nat) : Int)
    let f := fx - n * ((2 ^ 96 : Nat) : Int)
    (expFix (f * (ln2_96 : Int) / ((2 ^ 96 : Nat) : Int)), n - 96)
  | 4 =>
    let k := bitLen m - 1
    let x := m * 2 ^ 128 / 2 ^ k
    (((k : Int) + e) * ((2 ^ 60 : Nat) : Int) + (log2Digits 60 x 0 : Int), -60)
  | 5 =>
    let r := toFix 300 sm e % (twoPi300 : Int)
    (trigSeries (r / ((2 ^ 204 : Nat) : Int)) 40 1 (r / ((2 ^ 204 : Nat) : Int)) 0, -96)
  | 6 =>
    let r := toFix 300 sm e % (twoPi300 : Int)
    (trigSeries (r / ((2 ^ 204 : Nat) : Int)) 40 0 ((2 ^ 96 : Nat) : Int) 0, -96)
  | _ =>
    let t := toFix 96 m e
    if t > ((32 * 2 ^ 96 : Nat) : Int) then (if neg then -1 else 1, 0)
    else
      let h := expFix (-(t / 16))
      let p2 := h * h / ((2 ^ 96 : Nat) : Int)
      let p4 := p2 * p2 / ((2 ^ 96 : Nat) : Int)
      let p8 := p4 * p4 / ((2 ^ 96 : Nat) : Int)
      let p16 := p8 * p8 / ((2 ^ 96 : Nat) : Int)
      let p32 := p16 * p16 / ((2 ^ 96 : Nat) : Int)
      let q := (((2 ^ 96 : Nat) : Int) - p32) * ((2 ^ 96 : Nat) : Int) / (((2 ^ 96 : Nat) : Int) + p32)
      (if neg then -q else q, -96)

/-- The exponent of the bound on the error of a special function (R228): the error is at most 2^that. -/
def specialBound (fn : Nat) (v : Int × Int) : Int :=
  let ulp : Int := (Nat.log2 v.1.natAbs : Int) + v.2 - 23
  match fn with
  | 0 => ulp
  | 1 => ulp
  | 3 => ulp + 1
  | 4 => if cmpExact v.1.natAbs v.2 1 0 > 0 then ulp + 1 else -22
  | 5 => -21
  | 6 => -21
  | _ => max (ulp + 1) (-22)

/-- Whether the result is exact (R228): RCP of a power of two, RSQ of an even power, EXP2 of an integer, LOG2 of a power
of two. -/
def specialIsExact (fn : Nat) (m : Nat) (e : Int) : Bool :=
  let pow := m == 2 ^ (bitLen m - 1)
  let top : Int := ((bitLen m - 1 : Nat) : Int) + e
  match fn with
  | 0 => pow
  | 1 => pow && top % 2 == 0
  | 3 => decide (e ≥ 0) || m % 2 ^ (-e).toNat == 0
  | 4 => pow
  | _ => false

/-- A special function of a finite non-zero input. Where R228 leaves a choice within its bound, the open constant
`Config.special` makes it; a value outside the bound is replaced by the nearest one. -/
def specialFinite (fn : Nat) (x : Word) (neg : Bool) (m : Nat) (e : Int) : Nat × FFlags :=
  let big := decide (cmpExact m e 256 0 ≥ 0)
  if fn == 3 && big then (if neg then (0, uf ||| nx) else (f32.infinity false, of_ ||| nx))
  else
    let v := specialExact fn neg m e
    let near := f32.round .rne false (decide (v.1 < 0)) v.1.natAbs v.2
    let exact := specialIsExact fn m e
    let out := if exact then near.1 else
      let w := (BitVec.ofNat 32 (Config.special fn x)).toNat
      match f32.decode w with
      | .fin wn wm we =>
        let d := addExact (signedMant wn wm) we (-v.1) v.2
        if cmpExact d.1.natAbs d.2 1 (specialBound fn v) ≤ 0 then w else near.1
      | .inf _ => if fn == 3 && cmpExact v.1 v.2 0xFFFFFF 104 > 0 then f32.infinity false else near.1
      | .nan _ => near.1
    if f32.isSub out || (fn == 3 && out == 0) then (f32.signed (f32.neg out) 0, uf ||| nx)
    else if exact && near.2 == 0 then (out, 0)
    else (out, nx ||| (if (f32.decode out == .inf false) then of_ else 0))

/-- The special functions of major 0x12, by function number (R228, R229). -/
def specialFn (fn : Nat) (x : Word) : Nat × FFlags :=
  let b := x.toNat
  match f32.decode b with
  | .nan sig => (f32.canon, if sig then nv else 0)
  | .inf neg =>
    match fn with
    | 0 => (f32.signed neg 0, 0)
    | 3 => (if neg then 0 else f32.infinity false, 0)
    | 5 => (f32.canon, nv)
    | 6 => (f32.canon, nv)
    | 7 => (f32.signed neg 0x3F800000, 0)
    | _ => if neg then (f32.canon, nv) else (if fn = 1 then 0 else f32.infinity false, 0)
  | .fin neg m e =>
    if m = 0 ∨ (fn ≠ 2 ∧ f32.isSub b = true) then
      match fn with
      | 0 => (f32.infinity neg, dz)
      | 1 => (f32.infinity neg, dz)
      | 2 => (f32.signed neg 0, 0)
      | 3 => (0x3F800000, 0)
      | 4 => (f32.infinity true, dz)
      | 6 => (0x3F800000, 0)
      | _ => (f32.signed neg 0, 0)
    else if neg && (fn == 1 || fn == 2 || fn == 4) then (f32.canon, nv)
    else if fn = 2 then
      let mm := if e % 2 = 0 then m * 2 ^ 80 else 2 * m * 2 ^ 80
      let r := isqrt mm
      f32.round .rne false false (2 * r + (if r * r = mm then 0 else 1)) (e / 2 - 41)
    else specialFinite fn x neg m e

end Sys2Proof.Machine
end

