-- ==== Sys2Proof/Syntax.lean ====
section
/-!
DEFINITION. The one instruction type: a constructor for every row of spec/opcode_table.json. The 236 forms of R48 carry
their encoding's fields at the widths of R36; the 114 steps of the device that have no encoding carry the numbers that
say which queue, wave, launch or unit takes the step, and the values that come from outside the device.
-/

namespace Sys2Proof

/-- The rows of the opcode table. -/
inductive Instr where
  /-- ADD (R217). -/
  | add (d : BitVec 7) (a : BitVec 7) (b : BitVec 7) (kb : BitVec 1)
  /-- SUB (R217). -/
  | sub (d : BitVec 7) (a : BitVec 7) (b : BitVec 7) (kb : BitVec 1)
  /-- MUL (R217). -/
  | mul (d : BitVec 7) (a : BitVec 7) (b : BitVec 7) (kb : BitVec 1)
  /-- MULH (R217). -/
  | mulh (d : BitVec 7) (a : BitVec 7) (b : BitVec 7) (kb : BitVec 1)
  /-- MULHU (R217). -/
  | mulhu (d : BitVec 7) (a : BitVec 7) (b : BitVec 7) (kb : BitVec 1)
  /-- MAD (R217). -/
  | mad (d : BitVec 7) (a : BitVec 7) (b : BitVec 7) (kb : BitVec 1)
  /-- MIN (R217). -/
  | min (d : BitVec 7) (a : BitVec 7) (b : BitVec 7) (kb : BitVec 1)
  /-- MAX (R217). -/
  | max (d : BitVec 7) (a : BitVec 7) (b : BitVec 7) (kb : BitVec 1)
  /-- MINU (R217). -/
  | minu (d : BitVec 7) (a : BitVec 7) (b : BitVec 7) (kb : BitVec 1)
  /-- MAXU (R217). -/
  | maxu (d : BitVec 7) (a : BitVec 7) (b : BitVec 7) (kb : BitVec 1)
  /-- ABSD (R217). -/
  | absd (d : BitVec 7) (a : BitVec 7) (b : BitVec 7) (kb : BitVec 1)
  /-- ADDS (R217). -/
  | adds (d : BitVec 7) (a : BitVec 7) (b : BitVec 7) (kb : BitVec 1)
  /-- SUBS (R217). -/
  | subs (d : BitVec 7) (a : BitVec 7) (b : BitVec 7) (kb : BitVec 1)
  /-- AVG (R217). -/
  | avg (d : BitVec 7) (a : BitVec 7) (b : BitVec 7) (kb : BitVec 1)
  /-- AND (R218). -/
  | and (d : BitVec 7) (a : BitVec 7) (b : BitVec 7) (kb : BitVec 1)
  /-- OR (R218). -/
  | or (d : BitVec 7) (a : BitVec 7) (b : BitVec 7) (kb : BitVec 1)
  /-- XOR (R218). -/
  | xor (d : BitVec 7) (a : BitVec 7) (b : BitVec 7) (kb : BitVec 1)
  /-- ANDN (R218). -/
  | andn (d : BitVec 7) (a : BitVec 7) (b : BitVec 7) (kb : BitVec 1)
  /-- NOT (R218). -/
  | not (d : BitVec 7) (a : BitVec 7)
  /-- SHL (R218). -/
  | shl (d : BitVec 7) (a : BitVec 7) (b : BitVec 7) (kb : BitVec 1)
  /-- SHR (R218). -/
  | shr (d : BitVec 7) (a : BitVec 7) (b : BitVec 7) (kb : BitVec 1)
  /-- SAR (R218). -/
  | sar (d : BitVec 7) (a : BitVec 7) (b : BitVec 7) (kb : BitVec 1)
  /-- ROTL (R218). -/
  | rotl (d : BitVec 7) (a : BitVec 7) (b : BitVec 7) (kb : BitVec 1)
  /-- POPC (R218). -/
  | popc (d : BitVec 7) (a : BitVec 7)
  /-- CLZ (R218). -/
  | clz (d : BitVec 7) (a : BitVec 7)
  /-- BREV (R218). -/
  | brev (d : BitVec 7) (a : BitVec 7)
  /-- CMP_EQ (R219). -/
  | cmpEq (d : BitVec 7) (a : BitVec 7) (b : BitVec 7) (kb : BitVec 1)
  /-- CMP_NE (R219). -/
  | cmpNe (d : BitVec 7) (a : BitVec 7) (b : BitVec 7) (kb : BitVec 1)
  /-- CMP_LT (R219). -/
  | cmpLt (d : BitVec 7) (a : BitVec 7) (b : BitVec 7) (kb : BitVec 1)
  /-- CMP_LE (R219). -/
  | cmpLe (d : BitVec 7) (a : BitVec 7) (b : BitVec 7) (kb : BitVec 1)
  /-- CMP_LTU (R219). -/
  | cmpLtu (d : BitVec 7) (a : BitVec 7) (b : BitVec 7) (kb : BitVec 1)
  /-- CMP_LEU (R219). -/
  | cmpLeu (d : BitVec 7) (a : BitVec 7) (b : BitVec 7) (kb : BitVec 1)
  /-- ADDI (R220). -/
  | addi (d : BitVec 7) (a : BitVec 7) (imm : BitVec 12)
  /-- ANDI (R220). -/
  | andi (d : BitVec 7) (a : BitVec 7) (imm : BitVec 12)
  /-- ORI (R220). -/
  | ori (d : BitVec 7) (a : BitVec 7) (imm : BitVec 12)
  /-- XORI (R220). -/
  | xori (d : BitVec 7) (a : BitVec 7) (imm : BitVec 12)
  /-- SHLI (R220). -/
  | shli (d : BitVec 7) (a : BitVec 7) (n : BitVec 5)
  /-- SHRI (R220). -/
  | shri (d : BitVec 7) (a : BitVec 7) (n : BitVec 5)
  /-- SARI (R220). -/
  | sari (d : BitVec 7) (a : BitVec 7) (n : BitVec 5)
  /-- ROTLI (R220). -/
  | rotli (d : BitVec 7) (a : BitVec 7) (n : BitVec 5)
  /-- CMPI (R219). -/
  | cmpi (d : BitVec 7) (a : BitVec 7) (c : BitVec 3) (imm : BitVec 9)
  /-- MOVI (R46). -/
  | movi (d : BitVec 7) (imm : BitVec 19)
  /-- MOVHI (R46). -/
  | movhi (d : BitVec 7) (imm : BitVec 19)
  /-- BFX (R220). -/
  | bfx (d : BitVec 7) (a : BitVec 7) (p : BitVec 6) (n : BitVec 6)
  /-- BFI (R220). -/
  | bfi (d : BitVec 7) (a : BitVec 7) (p : BitVec 6) (n : BitVec 6)
  /-- ADD64 (R221). -/
  | add64 (d : BitVec 7) (a : BitVec 7) (b : BitVec 7) (kb : BitVec 1)
  /-- SUB64 (R221). -/
  | sub64 (d : BitVec 7) (a : BitVec 7) (b : BitVec 7) (kb : BitVec 1)
  /-- LEA1 (R221). -/
  | lea1 (d : BitVec 7) (a : BitVec 7) (b : BitVec 7) (kb : BitVec 1)
  /-- LEA2 (R221). -/
  | lea2 (d : BitVec 7) (a : BitVec 7) (b : BitVec 7) (kb : BitVec 1)
  /-- LEA4 (R221). -/
  | lea4 (d : BitVec 7) (a : BitVec 7) (b : BitVec 7) (kb : BitVec 1)
  /-- LEA8 (R221). -/
  | lea8 (d : BitVec 7) (a : BitVec 7) (b : BitVec 7) (kb : BitVec 1)
  /-- SEXT (R221). -/
  | sext (d : BitVec 7) (a : BitVec 7)
  /-- ZEXT (R221). -/
  | zext (d : BitVec 7) (a : BitVec 7)
  /-- SEL (R222). -/
  | sel (d : BitVec 7) (a : BitVec 7) (b : BitVec 7) (kb : BitVec 1)
  /-- FADD (R226). -/
  | fadd (d : BitVec 7) (a : BitVec 7) (b : BitVec 7) (kb : BitVec 1)
  /-- FSUB (R226). -/
  | fsub (d : BitVec 7) (a : BitVec 7) (b : BitVec 7) (kb : BitVec 1)
  /-- FMUL (R226). -/
  | fmul (d : BitVec 7) (a : BitVec 7) (b : BitVec 7) (kb : BitVec 1)
  /-- FFMA (R226). -/
  | ffma (d : BitVec 7) (a : BitVec 7) (b : BitVec 7) (kb : BitVec 1)
  /-- FFMS (R226). -/
  | ffms (d : BitVec 7) (a : BitVec 7) (b : BitVec 7) (kb : BitVec 1)
  /-- FMIN (R226). -/
  | fmin (d : BitVec 7) (a : BitVec 7) (b : BitVec 7) (kb : BitVec 1)
  /-- FMAX (R226). -/
  | fmax (d : BitVec 7) (a : BitVec 7) (b : BitVec 7) (kb : BitVec 1)
  /-- FMINNUM (R226). -/
  | fminnum (d : BitVec 7) (a : BitVec 7) (b : BitVec 7) (kb : BitVec 1)
  /-- FMAXNUM (R226). -/
  | fmaxnum (d : BitVec 7) (a : BitVec 7) (b : BitVec 7) (kb : BitVec 1)
  /-- FABS (R226). -/
  | fabs (d : BitVec 7) (a : BitVec 7)
  /-- FNEG (R226). -/
  | fneg (d : BitVec 7) (a : BitVec 7)
  /-- FCOPYSIGN (R226). -/
  | fcopysign (d : BitVec 7) (a : BitVec 7) (b : BitVec 7) (kb : BitVec 1)
  /-- FCLASS (R226). -/
  | fclass (d : BitVec 7) (a : BitVec 7)
  /-- FCMP_EQ (R227). -/
  | fcmpEq (d : BitVec 7) (a : BitVec 7) (b : BitVec 7) (kb : BitVec 1)
  /-- FCMP_NE (R227). -/
  | fcmpNe (d : BitVec 7) (a : BitVec 7) (b : BitVec 7) (kb : BitVec 1)
  /-- FCMP_LT (R227). -/
  | fcmpLt (d : BitVec 7) (a : BitVec 7) (b : BitVec 7) (kb : BitVec 1)
  /-- FCMP_LE (R227). -/
  | fcmpLe (d : BitVec 7) (a : BitVec 7) (b : BitVec 7) (kb : BitVec 1)
  /-- FCMP_UNORD (R227). -/
  | fcmpUnord (d : BitVec 7) (a : BitVec 7) (b : BitVec 7) (kb : BitVec 1)
  /-- FCMP_ORD (R227). -/
  | fcmpOrd (d : BitVec 7) (a : BitVec 7) (b : BitVec 7) (kb : BitVec 1)
  /-- RCP (R228). -/
  | rcp (d : BitVec 7) (a : BitVec 7)
  /-- RSQ (R228). -/
  | rsq (d : BitVec 7) (a : BitVec 7)
  /-- SQRT (R228). -/
  | sqrt (d : BitVec 7) (a : BitVec 7)
  /-- EXP2 (R228). -/
  | exp2 (d : BitVec 7) (a : BitVec 7)
  /-- LOG2 (R228). -/
  | log2 (d : BitVec 7) (a : BitVec 7)
  /-- SIN (R228). -/
  | sin (d : BitVec 7) (a : BitVec 7)
  /-- COS (R228). -/
  | cos (d : BitVec 7) (a : BitVec 7)
  /-- TANH (R228). -/
  | tanh (d : BitVec 7) (a : BitVec 7)
  /-- HADD2 (R230). -/
  | hadd2 (d : BitVec 7) (a : BitVec 7) (b : BitVec 7) (kb : BitVec 1)
  /-- HSUB2 (R230). -/
  | hsub2 (d : BitVec 7) (a : BitVec 7) (b : BitVec 7) (kb : BitVec 1)
  /-- HMUL2 (R230). -/
  | hmul2 (d : BitVec 7) (a : BitVec 7) (b : BitVec 7) (kb : BitVec 1)
  /-- HFMA2 (R230). -/
  | hfma2 (d : BitVec 7) (a : BitVec 7) (b : BitVec 7) (kb : BitVec 1)
  /-- HMIN2 (R230). -/
  | hmin2 (d : BitVec 7) (a : BitVec 7) (b : BitVec 7) (kb : BitVec 1)
  /-- HMAX2 (R230). -/
  | hmax2 (d : BitVec 7) (a : BitVec 7) (b : BitVec 7) (kb : BitVec 1)
  /-- BADD2 (R230). -/
  | badd2 (d : BitVec 7) (a : BitVec 7) (b : BitVec 7) (kb : BitVec 1)
  /-- BMUL2 (R230). -/
  | bmul2 (d : BitVec 7) (a : BitVec 7) (b : BitVec 7) (kb : BitVec 1)
  /-- BFMA2 (R230). -/
  | bfma2 (d : BitVec 7) (a : BitVec 7) (b : BitVec 7) (kb : BitVec 1)
  /-- CVT (R231). -/
  | cvt (d : BitVec 7) (a : BitVec 7) (f : BitVec 5) (r : BitVec 2) (sv : BitVec 1) (g : BitVec 2)
  /-- TAGSET (R234). -/
  | tagset (d : BitVec 7) (a : BitVec 7)
  /-- TAGGET (R234). -/
  | tagget (d : BitVec 7) (a : BitVec 7)
  /-- SCALESET (R234). -/
  | scaleset (d : BitVec 7) (sv : BitVec 8)
  /-- SCALEADD (R234). -/
  | scaleadd (d : BitVec 7) (sv : BitVec 8)
  /-- RETAG (R234). -/
  | retag (d : BitVec 7) (f : BitVec 5)
  /-- SHFL (R235). -/
  | shfl (d : BitVec 7) (a : BitVec 7) (b : BitVec 7)
  /-- SHFLX (R235). -/
  | shflx (d : BitVec 7) (a : BitVec 7) (m : BitVec 7)
  /-- SHFLUP (R235). -/
  | shflup (d : BitVec 7) (a : BitVec 7) (n : BitVec 7)
  /-- SHFLDN (R235). -/
  | shfldn (d : BitVec 7) (a : BitVec 7) (n : BitVec 7)
  /-- BCAST (R235). -/
  | bcast (d : BitVec 7) (a : BitVec 7) (l : BitVec 7)
  /-- VOTE (R235). -/
  | vote (d : BitVec 7) (a : BitVec 7) (m : BitVec 7)
  /-- REDADD (R235). -/
  | redadd (d : BitVec 7) (a : BitVec 7)
  /-- REDMIN (R235). -/
  | redmin (d : BitVec 7) (a : BitVec 7)
  /-- REDMAX (R235). -/
  | redmax (d : BitVec 7) (a : BitVec 7)
  /-- REDFADD (R236). -/
  | redfadd (d : BitVec 7) (a : BitVec 7)
  /-- SCANADD (R235). -/
  | scanadd (d : BitVec 7) (a : BitVec 7)
  /-- FIRST (R235). -/
  | first (d : BitVec 7) (a : BitVec 7)
  /-- EXPR (R239). -/
  | expr (d : BitVec 7) (a : BitVec 7) (b : BitVec 7) (n : BitVec 4)
  /-- RAND (R241). -/
  | rand (d : BitVec 7)
  /-- RANDF (R241). -/
  | randf (d : BitVec 7)
  /-- KADD (R223). -/
  | kadd (d : BitVec 7) (a : BitVec 7) (b : BitVec 7)
  /-- KSUB (R223). -/
  | ksub (d : BitVec 7) (a : BitVec 7) (b : BitVec 7)
  /-- KMUL (R223). -/
  | kmul (d : BitVec 7) (a : BitVec 7) (b : BitVec 7)
  /-- KAND (R223). -/
  | kand (d : BitVec 7) (a : BitVec 7) (b : BitVec 7)
  /-- KOR (R223). -/
  | kor (d : BitVec 7) (a : BitVec 7) (b : BitVec 7)
  /-- KXOR (R223). -/
  | kxor (d : BitVec 7) (a : BitVec 7) (b : BitVec 7)
  /-- KSHL (R223). -/
  | kshl (d : BitVec 7) (a : BitVec 7) (b : BitVec 7)
  /-- KSHR (R223). -/
  | kshr (d : BitVec 7) (a : BitVec 7) (b : BitVec 7)
  /-- KSAR (R223). -/
  | ksar (d : BitVec 7) (a : BitVec 7) (b : BitVec 7)
  /-- KMIN (R223). -/
  | kmin (d : BitVec 7) (a : BitVec 7) (b : BitVec 7)
  /-- KMAX (R223). -/
  | kmax (d : BitVec 7) (a : BitVec 7) (b : BitVec 7)
  /-- KMINU (R223). -/
  | kminu (d : BitVec 7) (a : BitVec 7) (b : BitVec 7)
  /-- KMAXU (R223). -/
  | kmaxu (d : BitVec 7) (a : BitVec 7) (b : BitVec 7)
  /-- KCMPEQ (R223). -/
  | kcmpeq (d : BitVec 7) (a : BitVec 7) (b : BitVec 7)
  /-- KCMPLT (R223). -/
  | kcmplt (d : BitVec 7) (a : BitVec 7) (b : BitVec 7)
  /-- KCMPLTU (R223). -/
  | kcmpltu (d : BitVec 7) (a : BitVec 7) (b : BitVec 7)
  /-- KADDI (R223). -/
  | kaddi (d : BitVec 7) (a : BitVec 7) (imm : BitVec 12)
  /-- KMOVI (R46). -/
  | kmovi (d : BitVec 7) (imm : BitVec 19)
  /-- KMOVHI (R46). -/
  | kmovhi (d : BitVec 7) (imm : BitVec 19)
  /-- MOVKV (R222). -/
  | movkv (d : BitVec 7) (a : BitVec 7)
  /-- MOVVK (R222). -/
  | movvk (d : BitVec 7) (a : BitVec 7)
  /-- MOV (R222). -/
  | mov (d : BitVec 7) (a : BitVec 7)
  /-- KMOV (R222). -/
  | kmov (d : BitVec 7) (a : BitVec 7)
  /-- RECIPE (R238). -/
  | recipe (a : BitVec 7) (n : BitVec 4)
  /-- LD (R265). -/
  | ld (d : BitVec 7) (a : BitVec 7) (f : BitVec 5) (ord : BitVec 2) (c : BitVec 5)
  /-- ST (R266). -/
  | st (d : BitVec 7) (a : BitVec 7) (f : BitVec 5) (ord : BitVec 2) (c : BitVec 5)
  /-- LDS (R265). -/
  | lds (d : BitVec 7) (a : BitVec 7) (f : BitVec 5) (n : BitVec 2) (c : BitVec 5)
  /-- STS (R266). -/
  | sts (d : BitVec 7) (a : BitVec 7) (f : BitVec 5) (n : BitVec 2) (c : BitVec 5)
  /-- KLD (R271). -/
  | kld (d : BitVec 7) (a : BitVec 7) (f : BitVec 5) (ord : BitVec 2) (c : BitVec 5)
  /-- KST (R271). -/
  | kst (d : BitVec 7) (a : BitVec 7) (f : BitVec 5) (ord : BitVec 2) (c : BitVec 5)
  /-- AMO_ADD (R362). -/
  | amoAdd (d : BitVec 7) (a : BitVec 7) (b : BitVec 7) (sv : BitVec 2) (ord : BitVec 1)
  /-- AMO_MIN (R362). -/
  | amoMin (d : BitVec 7) (a : BitVec 7) (b : BitVec 7) (sv : BitVec 2) (ord : BitVec 1)
  /-- AMO_MAX (R362). -/
  | amoMax (d : BitVec 7) (a : BitVec 7) (b : BitVec 7) (sv : BitVec 2) (ord : BitVec 1)
  /-- AMO_XCHG (R362). -/
  | amoXchg (d : BitVec 7) (a : BitVec 7) (b : BitVec 7) (sv : BitVec 2) (ord : BitVec 1)
  /-- AMO_MINU (R362). -/
  | amoMinu (d : BitVec 7) (a : BitVec 7) (b : BitVec 7) (sv : BitVec 2) (ord : BitVec 1)
  /-- AMO_MAXU (R362). -/
  | amoMaxu (d : BitVec 7) (a : BitVec 7) (b : BitVec 7) (sv : BitVec 2) (ord : BitVec 1)
  /-- AMO_AND (R362). -/
  | amoAnd (d : BitVec 7) (a : BitVec 7) (b : BitVec 7) (sv : BitVec 2) (ord : BitVec 1)
  /-- AMO_OR (R362). -/
  | amoOr (d : BitVec 7) (a : BitVec 7) (b : BitVec 7) (sv : BitVec 2) (ord : BitVec 1)
  /-- AMO_XOR (R362). -/
  | amoXor (d : BitVec 7) (a : BitVec 7) (b : BitVec 7) (sv : BitVec 2) (ord : BitVec 1)
  /-- AMO_INCW (R362). -/
  | amoIncw (d : BitVec 7) (a : BitVec 7) (b : BitVec 7) (sv : BitVec 2) (ord : BitVec 1)
  /-- AMO_DECW (R362). -/
  | amoDecw (d : BitVec 7) (a : BitVec 7) (b : BitVec 7) (sv : BitVec 2) (ord : BitVec 1)
  /-- AMO_CAS (R362). -/
  | amoCas (d : BitVec 7) (a : BitVec 7) (b : BitVec 7) (sv : BitVec 2) (ord : BitVec 1)
  /-- AMO_FADD (R363). -/
  | amoFadd (d : BitVec 7) (a : BitVec 7) (b : BitVec 7) (sv : BitVec 2) (ord : BitVec 1)
  /-- AMO_FMIN (R363). -/
  | amoFmin (d : BitVec 7) (a : BitVec 7) (b : BitVec 7) (sv : BitVec 2) (ord : BitVec 1)
  /-- AMO_FMAX (R363). -/
  | amoFmax (d : BitVec 7) (a : BitVec 7) (b : BitVec 7) (sv : BitVec 2) (ord : BitVec 1)
  /-- AMO_CASC (R368). -/
  | amoCasc (d : BitVec 7) (a : BitVec 7) (b : BitVec 7) (sv : BitVec 2) (ord : BitVec 1)
  /-- QPUSH (R370). -/
  | qpush (d : BitVec 7) (a : BitVec 7) (b : BitVec 7) (sv : BitVec 2) (ord : BitVec 1)
  /-- QPOP (R370). -/
  | qpop (d : BitVec 7) (a : BitVec 7) (sv : BitVec 2) (ord : BitVec 1)
  /-- QPEEK (R370). -/
  | qpeek (d : BitVec 7) (a : BitVec 7) (sv : BitVec 2) (ord : BitVec 1)
  /-- FENCE (R372). -/
  | fence (sv : BitVec 2) (kb : BitVec 2)
  /-- BARA (R374). -/
  | bara (n : BitVec 7) (c : BitVec 1) (b : BitVec 7)
  /-- BARW (R375). -/
  | barw (n : BitVec 7) (c : BitVec 1) (b : BitVec 7)
  /-- CBAR (R377). -/
  | cbar
  /-- CPYIN (R273). -/
  | cpyin (d : BitVec 7) (a : BitVec 7) (t : BitVec 1)
  /-- CPYOUT (R273). -/
  | cpyout (d : BitVec 7) (a : BitVec 7) (t : BitVec 1)
  /-- CPYGATH (R274). -/
  | cpygath (d : BitVec 7) (a : BitVec 7) (t : BitVec 1) (z : BitVec 2)
  /-- CPYSCAT (R274). -/
  | cpyscat (d : BitVec 7) (a : BitVec 7) (t : BitVec 1) (z : BitVec 2)
  /-- CPYRING (R275). -/
  | cpyring (d : BitVec 7) (a : BitVec 7) (r : BitVec 7)
  /-- PREF (R276). -/
  | pref (a : BitVec 7) (l : BitVec 1)
  /-- RINIT (R282). -/
  | rinit (a : BitVec 7) (r : BitVec 7)
  /-- RACQ (R284). -/
  | racq (d : BitVec 7) (r : BitVec 7)
  /-- RPUB (R284). -/
  | rpub (a : BitVec 7) (r : BitVec 7)
  /-- RGET (R284). -/
  | rget (d : BitVec 7) (r : BitVec 7)
  /-- RREL (R284). -/
  | rrel (a : BitVec 7) (r : BitVec 7)
  /-- RSTAT (R286). -/
  | rstat (d : BitVec 7) (r : BitVec 7)
  /-- KVALLOC (R288). -/
  | kvalloc (d : BitVec 7) (a : BitVec 7)
  /-- KVFREE (R288). -/
  | kvfree (d : BitVec 7) (a : BitVec 7)
  /-- KVSHARE (R288). -/
  | kvshare (d : BitVec 7) (a : BitVec 7) (b : BitVec 7)
  /-- KVLD (R289). -/
  | kvld (d : BitVec 7) (a : BitVec 7) (b : BitVec 7)
  /-- KVST (R289). -/
  | kvst (d : BitVec 7) (a : BitVec 7) (b : BitVec 7)
  /-- KVMAP (R291). -/
  | kvmap (d : BitVec 7) (a : BitVec 7)
  /-- KVSTAT (R291). -/
  | kvstat (d : BitVec 7)
  /-- CBOPEN (R382). -/
  | cbopen (d : BitVec 7) (a : BitVec 7) (w : BitVec 1)
  /-- CBPUT (R383). -/
  | cbput (d : BitVec 7) (a : BitVec 7) (sv : BitVec 1)
  /-- CBCLOSE (R388). -/
  | cbclose (a : BitVec 7)
  /-- CBSTAT (R389). -/
  | cbstat (d : BitVec 7) (a : BitVec 7)
  /-- ENQT (R379). -/
  | enqt (d : BitVec 7) (a : BitVec 7) (b : BitVec 7)
  /-- ENQTN (R379). -/
  | enqtn (d : BitVec 7) (a : BitVec 7) (b : BitVec 7)
  /-- TRACE (R330). -/
  | trace (d : BitVec 7) (a : BitVec 7) (b : BitVec 7)
  /-- TRACEQ (R333). -/
  | traceq (d : BitVec 7) (a : BitVec 7) (b : BitVec 7)
  /-- RQUERY (R336). -/
  | rquery (d : BitVec 7) (imm : BitVec 7)
  /-- MMA (R301). -/
  | mma (d : BitVec 6) (a : BitVec 7) (g : BitVec 4) (sv : BitVec 3) (r : BitVec 1)
  /-- MMAN (R301). -/
  | mman (d : BitVec 6) (a : BitVec 7) (g : BitVec 4) (sv : BitVec 3) (r : BitVec 1)
  /-- MMAS (R301). -/
  | mmas (d : BitVec 6) (a : BitVec 7) (g : BitVec 4) (sv : BitVec 3) (r : BitVec 1)
  /-- GANG (R295). -/
  | gang (d : BitVec 7) (a : BitVec 7)
  /-- ACCZ (R315). -/
  | accz (d : BitVec 7) (f : BitVec 5) (sv : BitVec 8)
  /-- ACCLD (R316). -/
  | accld (d : BitVec 7) (a : BitVec 7) (f : BitVec 5)
  /-- ACCST (R316). -/
  | accst (d : BitVec 7) (a : BitVec 7)
  /-- ACCRD (R317). -/
  | accrd (d : BitVec 7) (a : BitVec 7) (t : BitVec 1) (sv : BitVec 1) (c : BitVec 5)
  /-- STRMOPEN (R310). -/
  | strmopen (d : BitVec 7) (a : BitVec 7)
  /-- STRMCLOSE (R313). -/
  | strmclose (d : BitVec 7)
  /-- STRMSTAT (R314). -/
  | strmstat (d : BitVec 7) (sv : BitVec 3)
  /-- BRID (R431). -/
  | brid (d : BitVec 7)
  /-- VSTAT (R432). -/
  | vstat (d : BitVec 7)
  /-- COMMIT (R433). -/
  | commit (d : BitVec 7) (a : BitVec 7)
  /-- SQUASH (R433). -/
  | squash (d : BitVec 7) (a : BitVec 7)
  /-- FLIPQ (R435). -/
  | flipq (d : BitVec 7) (a : BitVec 7)
  /-- VDROP (R434). -/
  | vdrop (a : BitVec 7) (b : BitVec 7)
  /-- GETSR (R406). -/
  | getsr (d : BitVec 7) (a : BitVec 7)
  /-- SETSR (R406). -/
  | setsr (d : BitVec 7) (a : BitVec 7)
  /-- CACHE (R407). -/
  | cache (a : BitVec 7) (ord : BitVec 2)
  /-- PERF (R408). -/
  | perf (d : BitVec 7) (imm : BitVec 7)
  /-- CLOCK (R408). -/
  | clock (d : BitVec 7)
  /-- DIGEST (R429). -/
  | digest (a : BitVec 7)
  /-- LOOPI (R181). -/
  | loopi (c : BitVec 2) (n : BitVec 11) (l : BitVec 8)
  /-- LOOP (R181). -/
  | loop (c : BitVec 2) (a : BitVec 7) (l : BitVec 8)
  /-- BR (R209). -/
  | br (off : BitVec 19)
  /-- BRZ (R209). -/
  | brz (a : BitVec 7) (off : BitVec 19)
  /-- BRNZ (R209). -/
  | brnz (a : BitVec 7) (off : BitVec 19)
  /-- KBRZ (R209). -/
  | kbrz (a : BitVec 7) (off : BitVec 19)
  /-- KBRNZ (R209). -/
  | kbrnz (a : BitVec 7) (off : BitVec 19)
  /-- CALL (R211). -/
  | call (n : BitVec 7) (off : BitVec 19)
  /-- RET (R212). -/
  | ret
  /-- JMPV (R213). -/
  | jmpv (a : BitVec 7)
  /-- CALLV (R211). -/
  | callv (a : BitVec 7) (n : BitVec 7)
  /-- EXIT (R214). -/
  | exit
  /-- WSLIDE (R213). -/
  | wslide (sv : BitVec 7)
  /-- YIELD (R180). -/
  | yield
  /-- NOP (R216). -/
  | nop
  /-- TRAP (R398). -/
  | trap (n : BitVec 7)
  /-- RFT (R399). -/
  | rft (c : BitVec 1)
  /-- WAITF (R179). -/
  | waitf (m : BitVec 7) (m2 : BitVec 5)
  /-- WAITC (R281). -/
  | waitc (n : BitVec 7) (c : BitVec 3)
  /-- SLEEP (R215). -/
  | sleep (n : BitVec 14)
  /-- RUN_HEADER (R39). -/
  | runHeader (len : BitVec 5) (wait : BitVec 12) (sf1 : BitVec 4) (sf2 : BitVec 4) (opn : BitVec 1)
  /-- DEVICE_RESET (R442). -/
  | deviceReset
  /-- BOOT_VERIFY (R442). -/
  | bootVerify (sigOk : Bool) (version : Nat) (minVersion : Nat) (image : List Byte) (display : List Byte) (fuses : List Byte)
  /-- QUEUE_ENABLE (R93). -/
  | queueEnable (q : Nat)
  /-- QUEUE_DISABLE (R93). -/
  | queueDisable (q : Nat)
  /-- WRITE_INDEX_UPDATE (R90). -/
  | writeIndexUpdate (q : Nat)
  /-- NOP_PACKET (R98). -/
  | nopPacket (q : Nat)
  /-- LAUNCH (R99). -/
  | launch (q : Nat)
  /-- LAUNCH_ACCEPT (R99). -/
  | launchAccept (q : Nat)
  /-- FENCE_PACKET (R100). -/
  | fencePacket (q : Nat)
  /-- FENCE_EVALUATION (R102). -/
  | fenceEvaluation (q : Nat)
  /-- SIGNAL_SET (R105). -/
  | signalSet (q : Nat)
  /-- SIGNAL_ADD (R105). -/
  | signalAdd (q : Nat)
  /-- SIGNAL_DEC (R105). -/
  | signalDec (q : Nat)
  /-- FORK (R126). -/
  | fork (q : Nat)
  /-- FORK_PROCEED (R127). -/
  | forkProceed (q : Nat)
  /-- COMMIT_PACKET (R143). -/
  | commitPacket (q : Nat)
  /-- SQUASH_PACKET (R146). -/
  | squashPacket (q : Nat)
  /-- FLIP (R436). -/
  | flip (q : Nat)
  /-- FLIP_QUEUE_ADMIT (R436). -/
  | flipQueueAdmit (q : Nat)
  /-- COPY (R106). -/
  | copy (q : Nat)
  /-- COPY_FILL (R106). -/
  | copyFill (q : Nat)
  /-- COPY_STOP (R106). -/
  | copyStop (c : Nat)
  /-- COPY_RETIRE (R106). -/
  | copyRetire (c : Nat)
  /-- TIMESTAMP (R107). -/
  | timestamp (q : Nat)
  /-- DEADLINE (R108). -/
  | deadline (q : Nat)
  /-- DEADLINE_FIRE (R108). -/
  | deadlineFire (q : Nat)
  /-- SERIAL_WAIT_END (R98). -/
  | serialWaitEnd (q : Nat)
  /-- TEAM_DISPATCH (R153). -/
  | teamDispatch (l : Nat)
  /-- CLUSTER_GROUP_DISPATCH (R158). -/
  | clusterGroupDispatch (l : Nat)
  /-- JIG_FORM_WAVE (R120). -/
  | jigFormWave (col : Nat) (task : Nat)
  /-- JIG_TIMEOUT (R121). -/
  | jigTimeout (col : Nat) (task : Nat)
  /-- JIG_DET_PARTIAL_WAVE (R121). -/
  | jigDetPartialWave (col : Nat) (task : Nat)
  /-- TASK_WAVE_PLACE (R161). -/
  | taskWavePlace (f : Nat)
  /-- CONTINUATION_TO_POOL (R119). -/
  | continuationToPool (slice : Nat)
  /-- TRACEQ_TASK_HANDOFF (R334). -/
  | traceqTaskHandoff (core : Nat)
  /-- CB_RELEASE_TASK_HANDOFF (R387). -/
  | cbReleaseTaskHandoff (g : Nat)
  /-- LAUNCH_RETIRE (R422). -/
  | launchRetire (l : Nat)
  /-- RUN_GRANT (R186). -/
  | runGrant (w : Nat)
  /-- RUN_RAISE (R187). -/
  | runRaise (w : Nat)
  /-- SLEEP_END (R215). -/
  | sleepEnd (w : Nat)
  /-- LOAD_RETURN (R265). -/
  | loadReturn (w : Nat) (p : Nat)
  /-- VARIABLE_LATENCY_COMPLETE (R50). -/
  | variableLatencyComplete (w : Nat) (p : Nat)
  /-- STORE_PERFORM (R342). -/
  | storePerform (w : Nat) (p : Nat)
  /-- ATOMIC_PERFORM (R362). -/
  | atomicPerform (w : Nat) (p : Nat)
  /-- QUEUE_OP_PERFORM (R370). -/
  | queueOpPerform (w : Nat) (p : Nat)
  /-- CASC_PERFORM (R368). -/
  | cascPerform (w : Nat) (p : Nat) (lane : Nat)
  /-- CASC_REFUSAL (R368). -/
  | cascRefusal (w : Nat) (p : Nat) (lane : Nat)
  /-- BLOCK_STORE_NAME_OP_PERFORM (R288). -/
  | blockStoreNameOpPerform (w : Nat) (p : Nat)
  /-- COPY_ENGINE_COMPLETE (R277). -/
  | copyEngineComplete (b : Nat)
  /-- COPY_ENGINE_FAULT (R278). -/
  | copyEngineFault (b : Nat)
  /-- CPYRING_SLOT_ACQUIRE (R275). -/
  | cpyringSlotAcquire (b : Nat)
  /-- CPYRING_SLOT_PUBLISH (R275). -/
  | cpyringSlotPublish (b : Nat)
  /-- COPY_DRAIN_TIMEOUT (R171). -/
  | copyDrainTimeout (g : Nat)
  /-- RAY_END (R330). -/
  | rayEnd (r : Nat)
  /-- JOINT_OP_RESERVE (R306). -/
  | jointOpReserve (g : Nat) (gang : Nat)
  /-- MATRIX_GRANT (R307). -/
  | matrixGrant (e : Nat)
  /-- MATRIX_ENTRY_RAISE (R307). -/
  | matrixEntryRaise (e : Nat)
  /-- MATRIX_PASS_COMPLETE (R297). -/
  | matrixPassComplete (e : Nat)
  /-- ACC_OP_COMPLETE (R308). -/
  | accOpComplete (e : Nat)
  /-- GANG_WATCHDOG (R304). -/
  | gangWatchdog (g : Nat) (gang : Nat)
  /-- CB_MOVE_COMPLETE (R385). -/
  | cbMoveComplete (m : Nat)
  /-- CB_DEADLINE (R386). -/
  | cbDeadline (g : Nat)
  /-- CBOPEN_WAIT_GRANT (R382). -/
  | cbopenWaitGrant (w : Nat)
  /-- ENQT_ACCEPT (R379). -/
  | enqtAccept (w : Nat)
  /-- COMMIT_QUIESCENT (R144). -/
  | commitQuiescent (byQueue : Bool) (n : Nat)
  /-- SCRUB (R150). -/
  | scrub (line : Nat)
  /-- WAVE_RETIRE (R214). -/
  | waveRetire (w : Nat)
  /-- TRAP_ENTRY (R393). -/
  | trapEntry (w : Nat)
  /-- UNIT_SAVE (R402). -/
  | unitSave (g : Nat)
  /-- UNIT_RESTORE (R403). -/
  | unitRestore (g : Nat)
  /-- PAGE_WALK (R248). -/
  | pageWalk (dom : Nat) (va : Nat)
  /-- FAULT_RECORD_POST (R250). -/
  | faultRecordPost (r : Nat)
  /-- FAULT_REPLAY (R250). -/
  | faultReplay (r : Nat)
  /-- FAULT_CANCEL (R250). -/
  | faultCancel (r : Nat)
  /-- TLBINV_RANGE (R251). -/
  | tlbinvRange (v : DWord)
  /-- TLBINV_DOMAIN (R251). -/
  | tlbinvDomain (v : DWord)
  /-- TLBINV_ALL (R251). -/
  | tlbinvAll (v : DWord)
  /-- TLBINV_DONE (R251). -/
  | tlbinvDone
  /-- LINE_MOVE (R253). -/
  | lineMove (line : Nat) (slice : Nat)
  /-- CHECK_RETRY (R411): the code of R409 and the wave whose access met the check, 0 for none. -/
  | checkRetry (site : Nat × Nat) (x : Nat) (y : Nat) (z : Nat) (pass : Bool)
  /-- HOST_MEM_READ (R439). -/
  | hostMemRead (dec : Nat) (addr : Nat) (n : Nat)
  /-- HOST_MEM_WRITE (R439). -/
  | hostMemWrite (dec : Nat) (addr : Nat) (bytes : List Byte)
  /-- PEER_ACCESS (R440). -/
  | peerAccess (op : Nat) (mt : Nat) (addr : Nat) (bytes : List Byte)
  /-- HEAD_ENABLE (R445). -/
  | headEnable (h : Nat)
  /-- HEAD_DISABLE (R446). -/
  | headDisable (h : Nat)
  /-- VBLANK (R437). -/
  | vblank (h : Nat)
  /-- POWER_ARBITER_TICK (R447). -/
  | powerArbiterTick (boardPower : Nat) (grants : List Nat) (steps : List Nat)
  /-- COLUMN_OVERHEAT (R448). -/
  | columnOverheat (c : Nat)
  /-- COLUMN_COOL (R448). -/
  | columnCool (c : Nat)
  /-- COLUMN_IDLE (R449). -/
  | columnIdle (c : Nat)
  /-- COLUMN_OFF (R449). -/
  | columnOff (c : Nat)
  /-- COLUMN_WAKE (R449). -/
  | columnWake (c : Nat)
  /-- D3HOT_ENTRY (R450). -/
  | d3hotEntry
  /-- D0_RETURN (R450). -/
  | d0Return
  /-- D3COLD (R450). -/
  | d3cold
  /-- MEASUREMENT_EXTEND (R443). -/
  | measurementExtend (v : DWord)
  /-- EXTEND_DONE (R443). -/
  | extendDone
  /-- ATTESTATION_REQUEST (R444). -/
  | attestationRequest (v : DWord)
  /-- ATTESTATION_DONE (R444). -/
  | attestationDone
  /-- PREEMPT_SUSPEND (R401). -/
  | preemptSuspend (v : DWord)
  /-- PREEMPT_RESUME (R401). -/
  | preemptResume (v : DWord)
  /-- QTBASE_WRITE (R88). -/
  | qtbaseWrite (v : DWord)
  /-- DOMTBASE_WRITE (R243). -/
  | domtbaseWrite (v : DWord)
  /-- SRAMCFG_WRITE (R254). -/
  | sramcfgWrite (v : DWord)
  /-- KVCFG_WRITE (R263). -/
  | kvcfgWrite (v : DWord)
  /-- CTX_POOL_WRITE (R404). -/
  | ctxPoolWrite (size : Bool) (v : DWord)
  /-- PARTCFG_WRITE (R441). -/
  | partcfgWrite (v : DWord)
  /-- PARTQ_WRITE (R441). -/
  | partqWrite (hi : Bool) (v : DWord)
  /-- PEERMAP_WRITE (R440). -/
  | peermapWrite (n : Nat) (v : DWord)
  /-- HEAD_CONFIG_WRITE (R446). -/
  | headConfigWrite (h : Nat) (reg : Nat) (v : DWord)
  /-- POWER_LIMIT_WRITE (R447). -/
  | powerLimitWrite (v : DWord)
  /-- LOST_CLEAR (R421). -/
  | lostClear
  /-- REGISTER_WRITE (R438). -/
  | registerWrite (off : Nat) (v : DWord)
  /-- INLET_POWER_REPORT (R447). -/
  | inletPowerReport (v : Nat)
  deriving DecidableEq, Repr

end Sys2Proof
end

