-- ==== Sys2Proof/Machine/State.lean ====
section
/-!
DEFINITION. The state of the Lalum LX9 as plain data: everything the specification gives the machine.
Widths and reset values are listed in INVENTORY.md under State, each with its rule.
-/

namespace Sys2Proof.Machine

/-- One row of a wave's register rows: a register tag (R58) and one 32-bit element per lane; `poison` is a lane mask
(R414), and `seen` names the poisoned elements that have been consumed (R416, R419). -/
structure Row where
  tag : BitVec 16
  elems : Tbl Word
  poison : BitVec 64
  seen : BitVec 64
  deriving DecidableEq, Repr

/-- One of a wave's three loop entries (R181); `seq` orders entries by how recently they were set (R182). -/
structure LoopEntry where
  active : Bool
  start : Nat
  stop : Nat
  seq : Nat
  deriving DecidableEq, Repr

/-- A run that is being issued (R39, R175): its header's offset and word, the offset of its last word, its active lanes
and its serial number within the wave. -/
structure RunCtx where
  hdr : Nat
  word : Word
  last : Nat
  active : BitVec 64
  serial : Nat
  deriving DecidableEq, Repr

/-- The region entry record (R195, R208), with the lanes that RFT had parked and whether the wave was in trap mode, which a
rewinding wave also goes back to (R197, R399). -/
structure RegionEntry where
  vpc : Tbl Word
  wbase : Tbl Nat
  wtop : Nat
  draw : Tbl Word
  lc : Tbl Word
  loops : Tbl LoopEntry
  parked : BitVec 64
  parkMode : BitVec 64
  mode : Bool
  deriving DecidableEq, Repr

/-- A trap: its cause, the lanes that raised it, its record (R391), the offset it is taken at, whether it is taken at a run
header, the header word there, the run it interrupts and the stack positions its instruction needs: lane, first, and one past
the last (R207; a position below 0 is one that no wave has). -/
structure Trap where
  cause : Nat
  lanes : BitVec 64
  info : DWord
  offset : Nat
  atHeader : Bool
  header : Word
  run : Option RunCtx
  needs : List (Nat × Int × Int)
  deriving DecidableEq, Repr

/-- What a wave between runs waits for. -/
inductive Wait where
  | none
  | flags (mask : BitVec 12)
  | counter (cls n : Nat)
  | barrier (n phase : Nat)
  | barrierAgain (n phase : Nat) (count : Nat) (block : Bool)
  | cbar (phase : Nat)
  | cbarAgain (phase : Nat)
  | racq (ring d : Nat) (lanes : BitVec 64)
  | rget (ring d : Nat) (lanes : BitVec 64)
  | gang (g : Nat)
  | strmClose (s : Nat)
  | enqt (d : Nat) (lanes : BitVec 64)
  | cbopen (d : Nat) (lanes : BitVec 64) (header : BitVec 512) (entries : List (BitVec 512))
  | commit (d : Nat) (lanes : BitVec 64) (tag : Nat)
  | sleep (until_ : Nat)
  | yield (until_ : Nat)
  | ops
  | kvstat (d : Nat) (lanes : BitVec 64)
  deriving DecidableEq, Repr

/-- The trap frame (R393); `run` is the interrupted run, where there is one, `needs` is the trap's (R207), and `reads` and
`writes` are what the interrupted region has read and written (R198), `serial` the number of its first run (R332), `later` the
entry of a later region that a held copy keeps back (R170), `reached` what reached each lane's run (R54), `wait` what the
interrupted code waits for and `fp` its floating-point exceptions still to be taken (R400). -/
structure Frame where
  curVpc : Tbl Word
  entry : RegionEntry
  header : Word
  offset : Nat
  fpctl : BitVec 32
  run : Option RunCtx
  needs : List (Nat × Int × Int)
  afterEffect : Bool
  reads : List Nat
  writes : List Nat
  serial : Nat
  later : Option (RegionEntry × Nat)
  reached : Tbl Nat
  wait : Wait
  fp : List Trap
  deriving DecidableEq, Repr

/-- One element write that an operation makes when it completes. -/
structure LaneWrite where
  row : Nat
  lane : Nat
  val : Word
  poison : Bool
  deriving DecidableEq, Repr

/-- One access of a pending load, store, atomic or queue operation: its lane, its virtual address or scratchpad offset,
its storage location and the leaf attributes it was translated with, its size in bytes, the rows of its data registers,
low word first, and the words it carries. -/
structure LaneAcc where
  lane : Nat
  addr : Nat
  key : Nat
  mt : Nat
  ver : Bool
  det : Bool
  size : Nat
  rows : List Nat
  data : List Word
  deriving DecidableEq, Repr

/-- The operations of classes S1, S2 and E that a wave has issued and that have not completed. -/
inductive PendKind where
  | load (accs : List LaneAcc)
  | loadScratch (accs : List LaneAcc)
  | loadK (k : Nat) (acc : LaneAcc) (signed : Bool)
  | store (accs : List LaneAcc)
  | regs (writes : List LaneWrite) (flags : BitVec 5)
  | atomic (op : Nat) (fmts : List Nat) (accs : List LaneAcc) (returns : Bool)
  | queueOp (op : Nat) (accs : List LaneAcc)
  | casc (accs : List LaneAcc) (arrived : List (Nat × Nat)) (order : Nat) (first : Option Nat)
  | kvName (op : Nat) (name name2 : DWord) (rows : List (Nat × Nat))
  | kvMap (qs : List (Nat × Nat × DWord))
  | cbStat (qs : List (Nat × Nat × Word × Word))
  | fence (kind : Nat)
  deriving DecidableEq, Repr

/-- A pending operation: its number in issue order, the completion flag it is attached to (R175), the run that issued
it and the offset of its word, the destination rows and k register that its results go to, and its ordering kind and scope
(R345): whether it acts as an acquire and as a release, and 0 team, 1 cluster, 2 device, 3 system. -/
structure Pend where
  id : Nat
  kind : PendKind
  flag : Option Nat
  serial : Nat
  offset : Nat
  dests : List Nat
  acquire : Bool
  release : Bool
  scope : Nat
  deriving DecidableEq, Repr

/-- A wave (R114, R175, R191, R203, R204, R405). `laterRegion` is the entry of a later region, with the number of its first
run, that takes the record's place when the copies that hold the region open are complete (R170); `taken` says that a stopping
unit's wave was found waiting between runs and goes no further (R402). `debts` names the operations of the wave that an
ordering operation of team scope (1) or cluster scope (2) has gone ahead of (R339). -/
structure Wave where
  uid : Nat
  team : Nat
  launch : Nat
  idx : Nat
  role : Nat
  width : Nat
  allot : Nat
  prio : Nat
  lcore : Nat
  pcore : Nat
  quarter : Nat
  spill : Option Nat
  tag : BitVec 4
  depth : Nat
  accepts : List Nat
  vpc : Tbl Word
  wbase : Tbl Nat
  hbase : Tbl Nat
  wtop : Nat
  draw : Tbl Word
  rows : Tbl Row
  k : Tbl DWord
  kpoison : BitVec 64
  fpctl : BitVec 32
  fpflags : BitVec 32
  trapcause : BitVec 32
  traplanes : DWord
  trapinfo : DWord
  errstat : DWord
  seed : DWord
  lc : Tbl Word
  loops : Tbl LoopEntry
  recipes : Tbl DWord
  run : Option RunCtx
  pc : Nat
  target : Tbl Word
  reached : Tbl Nat
  afterEffect : Bool
  resume : List RunCtx
  region : RegionEntry
  regionReads : List Nat
  regionWrites : List Nat
  regionSerial : Nat
  laterRegion : Option (RegionEntry × Nat)
  wait : Wait
  frame : Option Frame
  mode : Bool
  parked : BitVec 64
  parkMode : BitVec 64
  trap : Option Trap
  fpPending : List Trap
  pend : List Pend
  nextPend : Nat
  debts : List (Nat × Nat)
  serial : Nat
  faultWait : Option Nat
  cancelled : List Nat
  seenSc : Bool
  ready : Nat
  raised : Bool
  issued : Nat
  runs : Nat
  stallClk : Nat
  startClk : Int
  stopping : Bool
  taken : Bool
  stall : Option (Nat × Nat)
  deriving DecidableEq, Repr

/-- An accumulator tile (R58, R75, R76, R292). -/
structure Tile where
  tag : BitVec 16
  sticky : Bool
  elems : Tbl (BitVec 36)
  poison : List Nat
  deriving DecidableEq, Repr

/-- A named barrier, or a cluster barrier (R373, R377): `expected` 0 means every live wave. -/
structure Barrier where
  phase : BitVec 32
  filling : Bool
  expected : Nat
  arrived : List Nat
  deriving DecidableEq, Repr

/-- Who waits on a ring, in order of arrival (R284). -/
inductive RingWaiter where
  | racq (wave : Nat)
  | rget (wave : Nat)
  | copy (bulk : Nat)
  deriving DecidableEq, Repr

/-- A scratchpad ring (R282, R283). `slots` maps a slot number to its state code, `held` lists slot numbers held by a
CPYRING. -/
structure Ring where
  init : Bool
  base : Nat
  sizeLog : Nat
  countLog : Nat
  acq : BitVec 32
  pub : BitVec 32
  get : BitVec 32
  rel : BitVec 32
  slots : Tbl Nat
  held : List Nat
  waiters : List RingWaiter
  deriving DecidableEq, Repr

/-- A team (R153, R264, R292, R373, R282). `grp` names the unit (cluster group, or the team alone) it belongs to. -/
structure Team where
  uid : Nat
  launch : Nat
  inst : Nat
  index : Nat
  isTask : Bool
  grp : Nat
  rank : Nat
  lcore : Nat
  pcore : Nat
  pair : Bool
  waves : Nat
  retired : Bool
  granted : Nat
  scratch : Tbl Byte
  scratchPoison : List Nat
  tiles : Tbl Tile
  accTiles : Nat
  barriers : Tbl Barrier
  rings : Tbl Ring
  deriving DecidableEq, Repr

/-- A matrix fragment taken from registers or a reuse latch (R298, R303): words keyed by 64 × register + lane. -/
structure Frag where
  tag : BitVec 16
  words : Tbl Word
  poison : List Nat
  deriving DecidableEq, Repr

/-- A member's arrival at a rendezvous latch (R301): the run and the lanes' state it goes back to when it is withdrawn
(R302), and the tile's tag and the reuse latch as they stood. -/
structure Arrival where
  member : Nat
  wave : Nat
  team : Nat
  op : Nat
  stream : Nat
  tile : Nat
  oldTag : BitVec 16
  frag : Frag
  offset : Nat
  run : RunCtx
  before : RegionEntry
  eng : Nat
  oldReuse : Option Frag
  deriving DecidableEq, Repr

/-- A gang register (R294): members are pairs of rank and wave index; `waited` is the watchdog's count (R304). -/
structure Gang where
  members : List (Nat × Nat)
  latch : List Arrival
  complete : Bool
  reuse : Tbl Frag
  retired : Bool
  waited : Nat
  deriving DecidableEq, Repr

/-- One subscriber of an operand stream (R309, R311). -/
structure Sub where
  gang : Nat
  window : Nat
  pos : Nat
  used : Nat
  deriving DecidableEq, Repr

/-- An operand stream (R309 to R314): state 0 CLOSED, 1 OPEN, 2 CLOSING. `freed` counts the positions released and `taken`
lists the ring slots of the positions from there on. -/
structure Stream where
  st : Nat
  team : Nat
  ring : Nat
  fmt : Nat
  scale : BitVec 8
  subs : List Sub
  taken : List Nat
  freed : Nat
  deriving DecidableEq, Repr

/-- What an entry of a matrix engine's reservation table does (R306). -/
inductive ResvKind where
  | joint (grp gang stream op : Nat) (arrivals : List Arrival) (slot : Nat)
  | accz (tile : Nat) (tag : BitVec 16)
  | accld (tile fmt base : Nat) (tag : BitVec 16)
  | accst (tile base : Nat)
  | accrd (tile chunk : Nat) (tag : BitVec 16) (stat toF32 : Bool) (rows : List (Nat × List Nat))
  deriving DecidableEq, Repr

/-- A reservation-table entry (R306, R307). `tiles` are pairs of team and tile number; `readyAt` is the clk at which it
became ready, once time has passed since. A joint entry's arrivals are those whose pass has not completed. -/
structure Resv where
  id : Nat
  cluster : Nat
  team : Nat
  wave : Nat
  eng : Nat
  prio : Nat
  tiles : List (Nat × Nat)
  kind : ResvKind
  granted : Bool
  raised : Bool
  readyAt : Option Nat
  deriving DecidableEq, Repr

/-- A unit of pre-emption: a cluster group, or a team in no group (R402), with the state it shares (R294, R309,
R377). `status`: 0 resident, 1 stopping, 2 saved, 3 released for restore;
`prio` is the effective priority sampled at dispatch (R95). -/
structure Grp where
  uid : Nat
  launch : Nat
  teams : List Nat
  cluster : Nat
  gangs : Tbl Gang
  streams : Tbl Stream
  cbar : Barrier
  status : Nat
  prio : Nat
  migrate : Bool
  blocks : List (Nat × Nat)
  saved : List Resv
  drainClk : Nat
  deriving DecidableEq, Repr

/-- What a bulk operation does (R273 to R275, R289, R429). -/
inductive BulkKind where
  | copyIn (va base extent : Nat)
  | copyOut (va base extent : Nat)
  | gather (elems : List (Nat × Nat)) (esize : Nat)
  | scatter (elems : List (Nat × Nat)) (esize : Nat)
  | ring (va ring count done : Nat) (slots : List Nat)
  | kvLoad (name : DWord) (off base extent : Nat)
  | kvStore (name : DWord) (off base extent : Nat)
  | digest (va len dst : Nat)
  deriving DecidableEq, Repr

/-- The bytes of an engine's operation: the ranges that it has still to read, each from its first byte to one past its last, and
those that it has read, each from a place on, with their poison (R277, R350). -/
structure Taken where
  left : List (Nat × Nat)
  got : List (Nat × List (Byte × Bool))
  deriving DecidableEq, Repr

/-- A bulk operation in flight (R277 to R280). `before` is the number that the wave's next operation had when it was issued:
its read stands there in program order (R350). `data` is what it has read, `unput` the ranges of its bytes that it has still to
write, and `carried` says that poison was among those written (R415). -/
structure Bulk where
  id : Nat
  wave : Nat
  team : Nat
  launch : Nat
  core : Nat
  tag : BitVec 4
  eng : Nat
  major : Nat
  kind : BulkKind
  colPrivate : Bool
  faultWait : Option Nat
  cancelled : List Nat
  serial : Nat
  before : Nat
  data : Taken
  unput : List (Nat × Nat)
  carried : Bool
  deriving DecidableEq, Repr

/-- One operation counted on an engine counter (R52, R280): classes 0 copy, 1 gather, 2 matrix, 3 ray, 4 combine. -/
structure EngOp where
  id : Nat
  wave : Nat
  cls : Nat
  done : Bool
  deriving DecidableEq, Repr

/-- A ray in flight (R322, R330, R333). `before` is the number that the wave's next operation had when the ray was issued: the
ray sees the stores with lower ones (R327). `got` holds the words that it has read, by their address over 4, and `bad` says that
the engine has lost some of it (R411). -/
structure Ray where
  id : Nat
  wave : Nat
  team : Nat
  launch : Nat
  core : Nat
  tag : BitVec 4
  depth : Nat
  eng : Option Nat
  lane : Nat
  regs : List Word
  root : DWord
  rows : List Nat
  payload : List Word
  accept : Option Nat
  result : Option (List Word)
  serial : Nat
  before : Nat
  lcore : Nat
  waveIdx : Nat
  gid : Nat
  faultWait : Option Nat
  cancelled : List Nat
  got : Tbl Word
  bad : Bool
  deriving DecidableEq, Repr

/-- A task: in the pool, in a slice queue or held at its source (R115). `entry` is its task index, or 65,536 plus its hit
group (R23). -/
structure Task where
  id : Nat
  launch : Nat
  entry : Nat
  key : BitVec 16
  tag : BitVec 4
  depth : Nat
  accept : Nat
  record : List Word
  share : Nat
  clk : Nat
  deriving DecidableEq, Repr

/-- A wave that a Jig has formed and that awaits placement (R120, R161). -/
structure Formed where
  id : Nat
  column : Nat
  tasks : List Task
  deriving DecidableEq, Repr

/-- A task on its way to the pool: in a slice's continuation queue (R119, source 0), stalled at a ray engine (R334,
source 1), held by the combine buffer (R387, source 2), or of a wave that waits in ENQT (R379, source 3). -/
structure HeldTask where
  source : Nat
  place : Nat
  task : Task
  deriving DecidableEq, Repr

/-- One instance of a launch: one branch of a fan launch, or the launch itself (R132). `next` counts the units dispatched:
under key 0, or in deterministic mode under each residue of R164. -/
structure Inst where
  tag : BitVec 4
  branch : Nat
  next : Tbl Nat
  dropped : Bool
  deriving DecidableEq, Repr

/-- One line's entry of the order-hazard counters (R430). -/
structure Hazard where
  line : Nat
  vaddr : Nat
  tag : BitVec 4
  epoch : Nat
  first : Word
  second : Word
  count : Nat
  deriving DecidableEq, Repr

/-- An accepted, unretired launch (R99, R110, R123, R422, R423). `record` is the 256-byte launch record; `excNs` and `excSlice`
are the device time and the logical slice of the first exception of the summary (R363); `tickets` are the acceptance numbers that the
lanes of AMO.CASC reserved in deterministic mode and that have made no task, which leave no gap in the numbers (R81, R119);
`retiring` says that the writes of its
retirement are issued and its packet is to be marked retired once they are made (R422). -/
structure Launch where
  uid : Nat
  id : DWord
  queue : Nat
  domain : Nat
  qprio : Nat
  record : BitVec 2048
  recAddr : Nat
  args : List DWord
  insts : List Inst
  lastCore : Option Nat
  headerRead : Bool
  dataAddr : Nat
  handlerAddr : Nat
  codeBytes : Nat
  partition : Nat
  checking : Bool
  stopDispatch : Bool
  faulted : Bool
  squashed : Bool
  excFlags : BitVec 5
  excAddr : DWord
  excNs : Nat
  excSlice : Nat
  late : BitVec 32
  nextAccept : Nat
  tickets : List Nat
  reportIdx : Nat
  reportLost : BitVec 32
  reportLog : Nat
  signalAddr : Nat
  epoch : Nat
  hazards : List Hazard
  suspended : Bool
  digestFlagged : Bool
  retiring : Bool
  order : Nat
  deriving DecidableEq, Repr

/-- The state of a hardware queue (R93). -/
inductive QState where
  | disabled
  | idle
  | parse
  | fence
  | serial
  | deadline
  | error
  | held
  deriving DecidableEq, Repr

/-- A hardware queue's own state: the fields of its QCB that the device keeps (R89, R91, R93); `held` is the type of
the packet that holds the queue in HELD, `commitTag` the tag that a COMMIT which waits there names (R144), `statusAddr` the
address for its status (R143), `ending` the status of a COMMIT or SQUASH that only the write of its status word keeps there,
`fenceSeen` what the entries said that the evaluation of a fence in progress has read (R102), `header` the header word of the
packet in hand once it has been read (R109), and `off` says that the device disabled the queue although its enable bit stands
at 1 (R450). -/
structure Queue where
  st : QState
  readIndex : Word
  writeIndex : Word
  status : BitVec 16
  ringBase : Nat
  logSlots : Nat
  domain : Nat
  prio : Nat
  accepted : Nat
  serialDone : Bool
  disabling : Bool
  fireAt : Nat
  fired : Bool
  forkOrder : Option Nat
  held : Nat
  commitTag : Nat
  statusAddr : Nat
  ending : Option Nat
  fenceSeen : List Bool
  header : Option Nat
  off : Bool
  deriving DecidableEq, Repr

/-- A COPY packet in flight (R106); `lost` lists the 8-byte places of what it moves that its engine's buffer has lost (R409). -/
structure PacketCopy where
  id : Nat
  queue : Nat
  domain : Nat
  slot : Word
  ident : BitVec 16
  fill : Bool
  src : Nat
  dst : Nat
  bytes : Nat
  done : Nat
  faultWait : Option Nat
  cancelled : List Nat
  lost : List Nat
  deriving DecidableEq, Repr

/-- A branch tag's state (R129). -/
inductive TagState where
  | free
  | live
  | doomed
  | committed
  | squashed
  deriving DecidableEq, Repr

/-- A speculation set whose tags are not all FREE (R124 to R130): branch i has the i-th tag, 0 once it has returned to the
pool. -/
structure SpecSet where
  domain : Nat
  id : Nat
  tags : List (BitVec 4)
  isOpen : Bool
  backing : Nat
  pages : Nat
  doneAddr : Nat
  deriving DecidableEq, Repr

/-- A branch's version of a line (R136): `line` is the storage line, the bytes are all 128 of it. -/
structure Version where
  line : Nat
  tag : BitVec 4
  bytes : Tbl Byte
  poison : BitVec 4
  backed : Bool
  deriving DecidableEq, Repr

/-- A cached translation (R251): the page it maps and the leaf it holds. `inUse` says whether the accesses of the moment use it:
some TLB holds the entry until it is invalidated, and an access may use it or not (the model's inputs say). -/
structure TlbEntry where
  domain : Nat
  page : Nat
  pages : Nat
  leaf : DWord
  inUse : Bool
  deriving DecidableEq, Repr

/-- An outstanding replayable fault (R250). `access` is the five access bits of its record, `ext` the id that its record names
once it is posted; `id` is the model's own number. -/
structure FaultRec where
  id : Nat
  domain : Nat
  page : Nat
  va : Nat
  access : BitVec 5
  level : Nat
  launch : DWord
  lcore : Word
  posted : Bool
  ext : Nat
  deriving DecidableEq, Repr

/-- A device write to a software-named address (R468) that waits: `add` makes it an addition to a 32-bit counter, `code` is its
code in R468's table, `chain` the launch whose report it belongs to, whose writes are made in order (R422, R423), and `waits`
the record of the replayable miss it waits on, none where it waits for an earlier write of its chain. -/
structure DevWrite where
  domain : Nat
  va : Nat
  bytes : List Byte
  add : Bool
  code : Nat
  lcore : Nat
  wave : Nat
  launch : DWord
  chain : Option Nat
  waits : Option Nat
  deriving DecidableEq, Repr

/-- An access that waits on a replayable fault and whose own state has no place for the record's number (the model's field):
class 0 the parser of queue `num`, 1 the launch `num`, 2 a pending operation of wave `num`, 3 a Jig's read for launch `num`, 4
the scan-out of head `num`, 5 a further page of wave `num`'s instruction. `record` is the fault's number; `cancelled` says that
it was cancelled (R250). -/
structure Waiter where
  cls : Nat
  num : Nat
  domain : Nat
  page : Nat
  record : Nat
  cancelled : Bool
  deriving DecidableEq, Repr

/-- A block of the attention-cache block store (R262). -/
structure KvBlock where
  bytes : Tbl Byte
  poison : List Nat
  column : Nat
  lost : Bool
  owner : BitVec 4
  deriving DecidableEq, Repr

/-- A block name's binding (R262): the tag is that of the reference's owner (R141). -/
structure KvName where
  domain : Nat
  name : Nat
  tag : BitVec 4
  block : Nat
  deriving DecidableEq, Repr

/-- One token of a combine group (R381, R385, R387): state 1 COLLECTING, 2 COMPLETE, 3 RELEASED, 4 ENDED; `next` counts the
experts folded, `bad` names the sums that poison has gone into (R414, R415), `parked` holds the elements of arrivals that wait
for their turn. -/
structure Token where
  entry : BitVec 512
  st : Nat
  next : Nat
  arrived : BitVec 8
  subst : BitVec 8
  sums : Tbl (BitVec 36)
  bad : List Nat
  parked : List (Nat × List Word)
  deriving DecidableEq, Repr

/-- An open combine group (R381, R382): `column` is the column whose clk its deadline counts, `seq` the number of tokens
released or ended. -/
structure CbGroup where
  num : Nat
  gen : BitVec 16
  launch : Nat
  domain : Nat
  tag : BitVec 4
  depth : Nat
  column : Nat
  lcore : Nat
  waveIdx : Nat
  writer : Word
  header : BitVec 512
  tokens : Tbl Token
  late : Nat
  deadline : Option Nat
  seq : Nat
  faultWait : Option Nat
  cancelled : List Nat
  deriving DecidableEq, Repr

/-- A CBPUT arrival whose move is in flight (R383); `gid` is its lane's global lane id (R423), `before` places its read in program order, and `data` is what it has read
(R350), and `carried` says that another move of its CBPUT carried poison (R415). -/
structure CbMove where
  id : Nat
  wave : Nat
  team : Nat
  launch : Nat
  domain : Nat
  tag : BitVec 4
  eng : Nat
  handle : Word
  token : Nat
  expert : Nat
  gid : Nat
  fromScratch : Bool
  src : Nat
  len : Nat
  esize : Nat
  before : Nat
  data : Taken
  carried : Bool
  faultWait : Option Nat
  cancelled : List Nat
  deriving DecidableEq, Repr

/-- A queued flip (R435 to R437). -/
structure Flip where
  surface : Nat
  doneAddr : Nat
  tag : BitVec 4
  deriving DecidableEq, Repr

/-- A display head (R437, R445, R446). -/
structure Head where
  ctl : DWord
  mode : DWord
  surf : DWord
  dom : DWord
  scanning : Bool
  enabledAt : Nat
  current : Nat
  black : Bool
  frames : Nat
  flips : List Flip
  deriving DecidableEq, Repr

/-- The power state of a column's core and matrix part (R449). -/
inductive ColPower where
  | active
  | idle
  | off
  deriving DecidableEq, Repr

/-- A column: its clock count (R4) with the tenths of a clk since the last (R447), its power state and grant (R447 to R449), the
eight remap entries with their shadow copies (R257), and its share of timed state. `busErrors` lists the corrected errors of its
buses as bus + 8 × clk (R412); `idleSince` is the clk since which it has held no work, and in IDLE the device time at which it
entered IDLE. -/
structure Column where
  clk : Nat
  tenths : Nat
  power : ColPower
  closed : Bool
  grant : Nat
  step : Nat
  remap : List Byte
  shadow : List Byte
  offline : Bool
  busErrors : List Nat
  idleSince : Nat
  waking : Bool
  deriving DecidableEq, Repr

/-- Where the boot ROM and the device power state stand (R442, R450). -/
inductive DevState where
  | boot
  | d0
  | d3hot
  | d3cold
  deriving DecidableEq, Repr

/-- The management block's registers (R88, R198, R243, R250, R251, R254, R257, R261, R263, R401, R404, R421, R438 to
R450). -/
structure Regs where
  qtbase : DWord
  chkctl : DWord
  domtbase : DWord
  tlbinvVa : DWord
  tlbinvCtl : DWord
  faultq : DWord
  faultIdx : DWord
  replay : DWord
  memcap0 : DWord
  sramcfg : DWord
  kvcfg : DWord
  ctxbase : DWord
  ctxsize : DWord
  preempt : DWord
  errq : DWord
  errIdx : DWord
  errLost : BitVec 32
  peermap : Tbl DWord
  partcfg : DWord
  partqLo : DWord
  partqHi : DWord
  bootstat : DWord
  extctl : DWord
  attctl : DWord
  digest : BitVec 256
  nonce : BitVec 256
  power : DWord
  inlet : DWord
  deriving DecidableEq, Repr

/-- What the outside world does next, or which step of the device comes next (the model's own field: the schedule). `act` is a
step of the opcode table, `time` lets device time, and the columns' clocks at their steps, run, `hostStore` is a host write to
its own memory, `noRoom` says which home slices have no room for another version (R140), `fenceRead` reads the next entry of a
queue's fence ahead of the others (R102), `tlbUse` says whether the accesses that follow use a cached translation (R251),
`engineRead` has an engine's operation, by its number, read some of its bytes, and `engineWrite` write some, ahead of the rest
(R277, R327). -/
inductive Input where
  | act (i : Instr)
  | time (ns : Nat)
  | hostStore (addr : Nat) (bytes : List Byte)
  | noRoom (slices : List Nat)
  | fenceRead (queue : Nat)
  | tlbUse (entry : Nat) (on : Bool)
  | engineRead (op lo n : Nat)
  | engineWrite (op lo n : Nat)
  deriving DecidableEq, Repr

/-- The whole machine. `badCopies` names copies of memory sectors whose own check has failed for good (R411, R418): a core's L1
copies by its number, its instruction and loop buffers' by 256 + its number, each with the sector. -/
structure State where
  mem : List Host.Cell
  poison : List Nat
  badCopies : List (Nat × Nat)
  versions : List Version
  tlb : List TlbEntry
  moved : Tbl Nat
  hostLines : List Nat
  tagStates : Tbl TagState
  sets : List SpecSet
  queues : Tbl Queue
  packetCopies : Tbl PacketCopy
  launches : Tbl Launch
  grps : Tbl Grp
  teams : Tbl Team
  waves : Tbl Wave
  resv : Tbl Resv
  bulk : Tbl Bulk
  eng : List EngOp
  rays : Tbl Ray
  rayCounts : Tbl (List Word)
  pool : List Task
  formed : List Formed
  heldTasks : List HeldTask
  faults : List FaultRec
  devWrites : List DevWrite
  waiters : List Waiter
  kvBlocks : Tbl KvBlock
  kvNames : List KvName
  groups : Tbl CbGroup
  generations : Tbl (BitVec 16)
  cbWaiters : List Nat
  moves : Tbl CbMove
  heads : Tbl Head
  columns : Tbl Column
  regs : Regs
  measure : Tbl (BitVec 256)
  errSeq : Word
  hostRead : List Byte
  hostReadPoison : Bool
  dev : DevState
  everEnabled : Bool
  ns : Nat
  cur : Nat
  nextId : Nat
  free : Nat
  noRoom : List Nat
  turns : Tbl (List Nat × Bool)
  fuses : List Nat
  inputs : List Input
  deriving DecidableEq, Repr

/-- Why a step stops with a fault. -/
inductive Fault where
  /-- Raised by the meaning of an instruction word when the state holds no wave that issues (`State.cur` names none);
  `step` never calls it so. Safe: the machine stops where no hardware run arrives. -/
  | noWave
  deriving DecidableEq, Repr

/-- Why a step is refused. -/
inductive Refusal where
  /-- Raised by an arm of `exec` whose instruction has no meaning yet. Safe: nothing is claimed of it. -/
  | notModelled (mnemonic : String)
  deriving DecidableEq, Repr

/-- A queue at reset (R89: DISABLED, indices 0). -/
def Queue.reset : Queue :=
  { st := .disabled, readIndex := 0, writeIndex := 0, status := 0, ringBase := 0, logSlots := 0, domain := 0, prio := 0,
    accepted := 0, serialDone := false, disabling := false, fireAt := 0, fired := false, forkOrder := none, held := 0, commitTag := 0,
    statusAddr := 0, ending := none, fenceSeen := [], header := none, off := false }

/-- A display head at reset (R445, R446: every register 0, not scanning out). -/
def Head.reset : Head :=
  { ctl := 0, mode := 0, surf := 0, dom := 0, scanning := false, enabledAt := 0, current := 0, black := true,
    frames := 0, flips := [] }

/-- A column at reset (R257, R447 to R449: ACTIVE, open, grant and step 0, no bus retired). -/
def Column.reset : Column :=
  { clk := 0, tenths := 0, power := .active, closed := false, grant := 0, step := 0, remap := List.replicate 8 0,
    shadow := List.replicate 8 0, offline := false, busErrors := [], idleSince := 0, waking := false }

/-- The management registers at reset (R246 for MEMCAP0, R447 for the power limits, every other 0). -/
def Regs.reset : Regs :=
  { qtbase := 0, chkctl := 0, domtbase := 0, tlbinvVa := 0, tlbinvCtl := 0, faultq := 0, faultIdx := 0, replay := 0,
    memcap0 := 0x1800000000#64, sramcfg := 0, kvcfg := 0, ctxbase := 0, ctxsize := 0, preempt := 0, errq := 0,
    errIdx := 0, errLost := 0, peermap := [], partcfg := 0, partqLo := 0, partqHi := 0, bootstat := 0, extctl := 0,
    attctl := 0, digest := 0, nonce := 0, power := 0x258021C#64, inlet := 0 }

/-- The machine right after reset: no queue enabled, nothing launched, every tag FREE, the boot ROM running (R442). -/
def State.reset : State :=
  { mem := [], poison := [], badCopies := [], versions := [], tlb := [], moved := [], hostLines := [], tagStates := [], sets := [],
    queues := [], packetCopies := [], launches := [], grps := [], teams := [], waves := [], resv := [], bulk := [],
    eng := [], rays := [], rayCounts := [], pool := [], formed := [], heldTasks := [], faults := [], devWrites := [], waiters := [], kvBlocks := [],
    kvNames := [], groups := [], generations := [], cbWaiters := [], moves := [], heads := [], columns := [],
    regs := Regs.reset, measure := [], errSeq := 0, hostRead := [], hostReadPoison := false, dev := .boot,
    everEnabled := false, ns := 0, cur := 0, nextId := 1, free := 0, noRoom := [], turns := [], fuses := [], inputs := [] }

end Sys2Proof.Machine
end

