-- ==== Sys2Proof/Machine/Memory.lean ====
section
/-!
DEFINITION. Memory as a canonical list of bytes, and the lines, versions and poison of R134 to R150, R246, R252, R253
and R414 over it. A storage location is a number: space × 2^48 + address, with space 0 GDDR 7, 1 stacked DRAM in its
mt 2 form, 2 host memory, 3 peer memory.
-/

namespace Sys2Proof.Machine

/-- The byte at a storage location: 0 where nothing is listed. -/
def mget : List Host.Cell → Nat → Byte
  | [], _ => 0
  | (a, b) :: t, k => if a = k then b else mget t k

/-- The cells of bytes at rising addresses; a byte equal to 0 is not listed. -/
def mcells (k : Nat) : List Byte → List Host.Cell
  | [] => []
  | b :: t => if b = 0 then mcells (k + 1) t else (k, b) :: mcells (k + 1) t

/-- Writes bytes at rising addresses, keeping the addresses rising and listing no byte equal to 0. -/
def mputs (m : List Host.Cell) (k : Nat) (bytes : List Byte) : List Host.Cell :=
  m.filter (fun c => decide (c.1 < k)) ++ (mcells k bytes ++ m.filter (fun c => decide (k + bytes.length ≤ c.1)))

/-- Whether every address of a list of cells is above a bound, rising, and no byte is 0. -/
def memRising : Option Nat → List Host.Cell → Bool
  | _, [] => true
  | lo, (a, b) :: t => (match lo with | none => true | some l => decide (l < a)) && b != 0 && memRising (some a) t

/-- The canonical form of memory. -/
def Memory.wf (m : List Host.Cell) : Bool := memRising none m

/-- The storage location of an address in a space. A queue in host memory may lie at or above 2^48, where no page table
reaches. -/
def storageKey (space pa : Nat) : Nat := if pa < 2 ^ 48 then space * 2 ^ 48 + pa else (space + 1) * 2 ^ 64 + pa

/-- The line of a storage location (R252). -/
def lineOf (key : Nat) : Nat := key / 128

/-- The state of a branch tag (R129); tag 0 is never looked up. -/
def State.tagState (s : State) (t : Nat) : TagState := tgetD s.tagStates t .free

/-- Whether the versioned writes of a tag are dropped because its branch is SQUASHED (R141, R147). -/
def State.dropsTag (s : State) (tag : BitVec 4) : Bool := tag != 0 && s.tagState tag.toNat == .squashed

/-- A tag's version of a line. -/
def State.version? (s : State) (line : Nat) (tag : BitVec 4) : Option Version :=
  s.versions.find? (fun v => v.line == line && v.tag == tag)

/-- The version of a line that is its committed content because its tag is COMMITTED (R149). -/
def State.committedVersion? (s : State) (line : Nat) : Option Version :=
  s.versions.find? (fun v => v.line == line && s.tagState v.tag.toNat == .committed)

/-- The version that an access by a tag sees, where there is one: the tag's own on a versioned page unless its branch is
SQUASHED, else the committed one (R135, R149). -/
def State.seen? (s : State) (tag : BitVec 4) (ver : Bool) (line : Nat) : Option Version :=
  if ver && tag != 0 && !s.dropsTag tag then
    match s.version? line tag with
    | some v => some v
    | none => s.committedVersion? line
  else s.committedVersion? line

/-- The location, apart from all memory, through which an access reaches a byte of a version backing area that the device owns
(R128). -/
def ownedKey (key : Nat) : Nat := 2 ^ 56 + key

/-- Whether a location is one of an owned backing area. -/
def isOwnedKey (key : Nat) : Bool := decide (2 ^ 56 ≤ key) && decide (key < 2 ^ 57)

/-- The byte that an access by a tag sees at a storage location (R135); in an owned backing area it is undefined (R128). -/
def State.readByte (s : State) (tag : BitVec 4) (ver : Bool) (key : Nat) : Byte :=
  if isOwnedKey key then Config.areaByte key (s.nextId + s.ns)
  else match s.seen? tag ver (lineOf key) with
  | some v => tgetD v.bytes (key % 128) 0
  | none => mget s.mem key

/-- n bytes from a storage location as a tag sees them. -/
def State.readBytes (s : State) (tag : BitVec 4) (ver : Bool) (key n : Nat) : List Byte :=
  (List.range n).map (fun i => s.readByte tag ver (key + i))

/-- The number that n bytes at a storage location spell, as a tag sees them. -/
def State.readNat (s : State) (tag : BitVec 4) (ver : Bool) (key n : Nat) : Nat := ofBytes (s.readBytes tag ver key n)

/-- Whether a byte lies in a poisoned sector as a tag sees it (R414). -/
def State.poisonedAt (s : State) (tag : BitVec 4) (ver : Bool) (key : Nat) : Bool :=
  match s.seen? tag ver (lineOf key) with
  | some v => v.poison.getLsbD (key % 128 / 32)
  | none => s.poison.contains (key / 32)

/-- Whether any of n bytes is poisoned. -/
def State.anyPoison (s : State) (tag : BitVec 4) (ver : Bool) (key n : Nat) : Bool :=
  (List.range n).any (fun i => s.poisonedAt tag ver (key + i))

/-- Adds a sector to the poisoned ones, or takes it away. -/
def setPoison (l : List Nat) (sector : Nat) (on : Bool) : List Nat :=
  if on then (if l.contains sector then l else sector :: l) else l.filter (fun x => x != sector)

/-- The committed version of a line becomes the line, and the SQUASHED versions of the line are released (R149). -/
def State.convert (s : State) (line : Nat) : State :=
  match s.committedVersion? line with
  | none => s
  | some v =>
    { s with
      mem := mputs s.mem (line * 128) ((List.range 128).map (fun i => tgetD v.bytes i 0))
      poison := (List.range 4).foldl (fun p i => setPoison p (line * 4 + i) (v.poison.getLsbD i)) s.poison
      versions := s.versions.filter (fun w =>
        !(w.line == line && (w.tag == v.tag || s.tagState w.tag.toNat == .squashed))) }

/-- An access to some places, those of storage being of kind 0, converts the lines among them that have a COMMITTED version
(R149). -/
def State.convertAt (s : State) (places : List (Nat × Nat × Nat)) : State :=
  (s.versions.filter (fun v => s.tagState v.tag.toNat == .committed && places.any (fun p =>
    p.1 == 0 && decide (lineOf p.2.1 ≤ v.line) && decide (v.line * 128 < p.2.1 + p.2.2)))).foldl (fun s v => s.convert v.line) s

/-- The sectors that n bytes at a location touch, each with whether all 32 of its bytes are among them. -/
def sectorsOf (key n : Nat) : List (Nat × Bool) :=
  if n = 0 then []
  else (List.range ((key + n - 1) / 32 - key / 32 + 1)).map (fun i =>
    let x := key / 32 + i
    (x, decide (key ≤ x * 32) && decide (x * 32 + 32 ≤ key + n)))

/-- The failed copies that are left when n bytes at a location are written: a write of a whole sector replaces it (R414). -/
def replaced (key n : Nat) (l : List (Nat × Nat)) : List (Nat × Nat) :=
  l.filter (fun c => !(sectorsOf key n).any (fun x => x.2 && x.1 == c.2))

/-- Whether a copy that some buffer holds of any of n bytes has failed (R411). -/
def State.badCopy (s : State) (buffer key n : Nat) : Bool :=
  (sectorsOf key n).any (fun x => s.badCopies.contains (buffer, x.1))

/-- The failed transfers to a buffer, of some bytes at locations, have come: they fail no more (R411). -/
def State.transferred (s : State) (buffer : Nat) (spans : List (Nat × Nat)) : State :=
  { s with badCopies := s.badCopies.filter (fun c =>
      !(c.1 == buffer && spans.any (fun x => (sectorsOf x.1 x.2).any (fun y => y.1 == c.2)))) }

/-- The number, among the buffers whose copies and transfers may fail, of the transfers of data to a core; those below are the
cores' L1 and, from 256 on, their instruction buffers. -/
def coreTransfer (core : Nat) : Nat := 512 + core

/-- The number of the transfers of data to the device's engines. -/
def engineTransfer : Nat := 768

/-- The number of the transfers from a block of the block store, whose places are those of its bytes. -/
def blockTransfer (block : Nat) : Nat := 1024 + block

/-- Writes bytes to the committed content of memory: the line is first converted, a host copy back-invalidated (R439), and
the poison of every sector written whole cleared, or set when the data is poisoned (R414). A write that software makes to an
owned backing area, against R128, changes nothing (DESIGN CHOICE, log entry 77). -/
def State.writeBytes (s : State) (key : Nat) (bytes : List Byte) (pois : Bool) : State :=
  if bytes.isEmpty || isOwnedKey key then s
  else
    let n := bytes.length
    let lines := (List.range ((key + n - 1) / 128 - key / 128 + 1)).map (fun i => key / 128 + i)
    let s1 := lines.foldl State.convert s
    { s1 with
      mem := mputs s1.mem key bytes
      poison := (sectorsOf key n).foldl (fun p x => if pois then setPoison p x.1 true
        else if x.2 then setPoison p x.1 false else p) s1.poison
      hostLines := s1.hostLines.filter (fun l => !lines.contains l)
      badCopies := replaced key n s1.badCopies }

/-- The home slice of a storage location (R252): 8 × column + h in stacked DRAM, an XOR of seven-bit fields elsewhere. -/
def homeSlice (key : Nat) : Nat :=
  let pa := key % 2 ^ 48
  if key / 2 ^ 48 = 1 then
    let o := pa % 2 ^ 31
    8 * (pa / 2 ^ 31) + [9, 12, 15, 18, 21, 24, 27, 30].foldl (fun h hi => h ^^^ bits o hi (hi - 2)) 0
  else
    [13, 20, 27, 34, 41].foldl (fun h hi => h ^^^ bits pa hi (hi - 6)) (bits pa 47 42)

/-- The set that holds a branch tag, where the tag is not FREE. -/
def State.setOf? (s : State) (tag : BitVec 4) : Option SpecSet := s.sets.find? (fun x => x.tags.contains tag)

/-- The backing entries of a set that hold versions (R128, R140). -/
def State.backedCount (s : State) (x : SpecSet) : Nat :=
  (s.versions.filter (fun v => v.backed && x.tags.contains v.tag)).length

/-- How many more versions the set of a tag can place in its backing area (R140). -/
def State.backingFree (s : State) (tag : BitVec 4) : Nat :=
  match s.setOf? tag with
  | some x => if x.backing = 0 then 0 else x.pages * 32 - s.backedCount x
  | none => 0

/-- The column that holds a line's home (R252). -/
def homeColumn (line : Nat) : Nat := homeSlice (line * 128) / 8

/-- The lines that a column's share of the version cache holds (R254): what SRAMCFG leaves of 32 MiB. -/
def State.cacheLines (s : State) : Nat :=
  let v := s.regs.sramcfg.toNat
  (32 - bits v 3 0 - (if bit v 8 then 2 else 0)) * 8192

/-- The versions homed in a line's column that L2 or the version cache holds. -/
def State.cachedWith (s : State) (line : Nat) : List Version :=
  s.versions.filter (fun v => !v.backed && homeColumn v.line == homeColumn line)

/-- Whether neither a line's home slice nor the version cache has room for another version: the slice has none, and versions,
which displace every evicted line, fill the column's share (R140, R254). -/
def State.isFull (s : State) (line : Nat) : Bool :=
  s.noRoom.contains (homeSlice (line * 128)) && decide (s.cacheLines ≤ (s.cachedWith line).length)

/-- Makes room for a new version of a line (R140): where slice and cache are full, an older version goes to its own set's
backing area, or else the new one is placed in the backing area of its own set. Answers whether it is, or none where no
room can be made. Which of several older versions goes is open. -/
def State.makeRoom (s : State) (line : Nat) (tag : BitVec 4) : Option (State × Bool) :=
  if !s.isFull line then some (s, false)
  else match (s.cachedWith line).filter (fun v => decide (0 < s.backingFree v.tag)) with
    | [] => if 0 < s.backingFree tag then some (s, true) else none
    | v :: t =>
      let u := choose s.nextId v (v :: t)
      some ({ s with versions := s.versions.map (fun x => if x = u then { x with backed := true } else x) }, false)

/-- A line that was moved to another slice is recalled to its home (R253). -/
def State.recall (s : State) (key : Nat) : State := { s with moved := tdel s.moved (lineOf key) }

/-- The bytes of a version with some of them replaced. -/
def putVersionBytes (t : Tbl Byte) (off : Nat) : List Byte → Tbl Byte
  | [] => t
  | b :: r => putVersionBytes (tset t off b) (off + 1) r

/-- The version that a tag's first store to a line creates: the committed line as it stands (R136). -/
def State.newVersion (s : State) (line : Nat) (tag : BitVec 4) (backed : Bool) : Version :=
  { line := line, tag := tag
    bytes := (List.range 128).map (fun i => (i, s.readByte 0 false (line * 128 + i)))
    poison := (List.range 4).foldl (fun p i =>
      if s.poisonedAt 0 false (line * 128 + 32 * i) then p ||| (1#4 <<< i) else p) 0
    backed := backed }

/-- A new version of a line is placed (R136, R140). -/
def State.placeVersion (s : State) (line : Nat) (tag : BitVec 4) : Option (State × Version) :=
  (s.makeRoom line tag).map (fun r =>
    let v := r.1.newVersion line tag r.2
    ({ r.1 with versions := v :: r.1.versions }, v))

/-- A tag's version of a line, created where there is none (R136); the room was made sure of when the store issued (R140). -/
def State.openVersion (s : State) (line : Nat) (tag : BitVec 4) : State × Version :=
  match s.version? line tag with
  | some v => (s, v)
  | none => (s.placeVersion line tag).getD (s, s.newVersion line tag true)

/-- Writes bytes of one line to a tag's version of it, creating the version at the first write (R136). The access converts the
line first (R149). -/
def State.writeVersion (s : State) (tag : BitVec 4) (key : Nat) (bytes : List Byte) (pois : Bool) : State :=
  let line := lineOf key
  let (s, v) := (s.convert line).openVersion line tag
  let p := (sectorsOf key bytes.length).foldl (fun (p : BitVec 4) x =>
    let m := 1#4 <<< (x.1 % 4)
    if pois then p ||| m else if x.2 then p &&& ~~~m else p) v.poison
  let v' := { v with bytes := putVersionBytes v.bytes (key % 128) bytes, poison := p }
  { s.recall key with
    versions := v' :: s.versions.filter (fun w => !(w.line == line && w.tag == tag))
    hostLines := s.hostLines.filter (fun l => l != line)
    badCopies := replaced key bytes.length s.badCopies }

/-- Writes bytes, of one line on a versioned page, as a tag's access does (R135, R136, R139). -/
def State.writeAs (s : State) (tag : BitVec 4) (ver : Bool) (key : Nat) (bytes : List Byte) (pois : Bool) : State :=
  if ver && tag != 0 then s.writeVersion tag key bytes pois else s.writeBytes key bytes pois

end Sys2Proof.Machine
end

