-- ==== Sys2Proof/Machine/Translate.lean ====
section
/-!
DEFINITION. Address translation (R242 to R251): the domain table, the five-level walk, memory types and the fault
causes of R248.
-/

namespace Sys2Proof.Machine

/-- How an access uses a page (R248 order 6). -/
inductive Use where
  | read
  | write
  | atomic
  | fetch
  deriving DecidableEq, Repr

/-- Where an access goes: its storage location, memory type, whether its page is versioned for it (R134), and the leaf's
det bit. -/
structure Xlat where
  key : Nat
  mt : Nat
  ver : Bool
  det : Bool
  deriving DecidableEq, Repr

/-- Why an access does not translate: a replayable miss at a level of the walk, or a non-replayable cause of R248. -/
inductive XErr where
  | miss (level : Nat)
  | cause (c : Nat)
  deriving DecidableEq, Repr

/-- The column and column offset of a stacked interleaved address (R247). -/
def interleave (p : Nat) : Nat × Nat :=
  ([18, 22, 26, 30, 34].foldl (fun c hi => c ^^^ bits p hi (hi - 3)) (bits p 14 11), bits p 34 15 * 2048 + p % 2048)

/-- The storage location of a physical address of a memory type (R246). -/
def storageOf (mt pa : Nat) : Nat :=
  if mt = 0 then storageKey 0 pa
  else if mt = 1 then let (c, o) := interleave pa; storageKey 1 (c * 2 ^ 31 + o)
  else if mt = 2 then storageKey 1 pa
  else if mt = 3 then storageKey 2 pa
  else storageKey 3 pa

/-- Whether a storage location lies in the block-store reservation (R263). -/
def State.inKvReservation (s : State) (key : Nat) : Bool :=
  s.regs.kvcfg.getLsbD 16 && key / 2 ^ 48 == 1 &&
    decide (key % 2 ^ 31 ≥ 2 ^ 31 - bits s.regs.kvcfg.toNat 15 8 * 2 ^ 24)

/-- Whether a storage location lies in a column whose stack is offline (R261). -/
def State.inOffline (s : State) (key : Nat) : Bool :=
  key / 2 ^ 48 == 1 && (tgetD s.columns (key % 2 ^ 48 / 2 ^ 31) Column.reset).offline

/-- Whether a peer offset is reachable: the window's valid bit is set, and the offset lies within the peer's capacity (R440):
its GDDR 7 through decoder 0, 2^35 bytes of stacked DRAM through decoder 1 (R438). -/
def State.peerValid (s : State) (pa : Nat) : Bool :=
  let peer := pa / 2 ^ 46 % 4
  let w := if bit pa 45 then 1 else 0
  (tgetD s.regs.peermap (2 * peer + w) 0#64).getLsbD 63 &&
    (if w = 0 then decide (pa % 2 ^ 45 < Config.peerCapacity peer) else decide (pa % 2 ^ 45 < 2 ^ 35))

/-- Whether a physical address is beyond its memory's capacity, or in a reservation (R246, R248 cause 8, R440). -/
def State.beyond (s : State) (mt pa : Nat) : Bool :=
  if mt = 0 then decide (pa ≥ s.regs.memcap0.toNat)
  else if mt = 1 ∨ mt = 2 then decide (pa ≥ 2 ^ 35) || s.inKvReservation (storageOf mt pa)
  else if mt = 4 then !s.peerValid pa
  else false

/-- The high index bit and the number of index bits of each walk level (R244). -/
def walkLevels : List (Nat × Nat) := [(51, 48), (47, 39), (38, 30), (29, 21), (20, 12)]

/-- The size of the page that a leaf maps, from its level and span (R244), or none where the span does not fit. -/
def pageSize (level span : Nat) : Option Nat :=
  match level, span with
  | 2, 0 => some (2 ^ 30)
  | 2, 2 => some (2 ^ 33)
  | 3, 0 => some (2 ^ 21)
  | 3, 1 => some (2 ^ 25)
  | 4, 0 => some (2 ^ 12)
  | 4, 1 => some (2 ^ 16)
  | _, _ => none

/-- Whether a leaf breaks R244 or R245 (cause 4). -/
def badLeaf (level e : Nat) : Bool :=
  bits e 61 48 != 0 || bits e 6 5 != 0 || (bit e 2 && !bit e 1) ||
    (match pageSize level (bits e 63 62) with
      | none => true
      | some n => (bits e 47 12 * 4096) % n != 0)

/-- Whether a table pointer breaks R244 (cause 4). -/
def badPointer (level e : Nat) : Bool :=
  level == 4 || bits e 63 62 != 0 || bits e 61 48 != 0 || bits e 6 5 != 0 || bits e 11 10 != 0 || bits e 3 1 != 0 ||
    decide (bits e 9 7 > 2)

/-- The walk from a table (R244): the leaf and its level. A table entry in a column whose stack is offline is lost (R261). -/
def State.walkFrom (s : State) (va : Nat) : List (Nat × Nat) → Nat → Nat → Nat → Except XErr (Nat × Nat)
  | [], _, _, _ => .error (.cause 4)
  | (hi, lo) :: rest, level, mt, table =>
    let at_ := storageOf mt (table + 8 * bits va hi lo)
    let e := s.readNat 0 false at_ 8
    if s.inOffline at_ then .error (.cause 7)
    else if !bit e 0 then .error (.miss level)
    else if bit e 4 then
      if level < 2 || badLeaf level e then .error (.cause 4) else .ok (e, level)
    else if badPointer level e then .error (.cause 4)
    else s.walkFrom va rest (level + 1) (bits e 9 7) (bits e 47 12 * 4096)

/-- The walk of a domain's tables (R243, R244). -/
def State.walk (s : State) (dom va : Nat) : Except XErr (Nat × Nat) :=
  let d := s.readNat 0 false (storageKey 0 (s.regs.domtbase.toNat + 8 * dom)) 8
  if !bit d 63 || bits d 62 48 != 0 || bits d 11 10 != 0 || bits d 6 0 != 0 || decide (bits d 9 7 > 2) then
    .error (.cause 4)
  else s.walkFrom va walkLevels 0 (bits d 9 7) (bits d 47 12 * 4096)

/-- The cached translation of a page that accesses use at the moment (R251). -/
def State.tlbHit? (s : State) (dom va : Nat) : Option TlbEntry :=
  s.tlb.find? (fun t => t.inUse && t.domain == dom && decide (t.page * 4096 ≤ va) && decide (va < t.page * 4096 + t.pages * 4096))

/-- Whether versioning applies to a domain's versioned pages: it has an open set, or a version of its carries a COMMITTED tag
(R134), or else a tag of a closed set has not returned to FREE, whose writes are still to be dropped (R141, R147, R148): for
every other context that makes no difference. -/
def State.versioning (s : State) (dom : Nat) : Bool := s.sets.any (fun x => x.domain == dom)

/-- Whether an address lies in the backing area of a set of its domain, which the device owns until every tag of the set is FREE
(R128); the area's base is taken as an address of the set's domain (DEDUCED, log entry 77). -/
def State.inBacking (s : State) (dom va : Nat) : Bool :=
  s.sets.any (fun x => x.domain == dom && x.backing != 0 && decide (x.backing ≤ va) &&
    decide (va < x.backing + 4096 * x.pages))

/-- The storage location to which a domain's tables map an address. -/
def State.mapsTo? (s : State) (dom va : Nat) : Option Nat :=
  let leaf : Option (Nat × Nat) := match s.tlbHit? dom va with
    | some t => some (t.leaf.toNat, t.pages * 4096)
    | none => match s.walk dom va with
      | .ok (e, level) => some (e, (pageSize level (bits e 63 62)).getD 4096)
      | .error _ => none
  leaf.map (fun x => storageOf (bits x.1 9 7) (bits x.1 47 12 * 4096 + va % x.2))

/-- Whether a storage location belongs to the backing area of a set, by whatever mapping or physical address it is reached
(R128): an area's pages lie in storage in stretches of 2,048 bytes (R247). -/
def State.ownsKey (s : State) (key : Nat) : Bool :=
  s.sets.any (fun x => x.backing != 0 && (List.range (2 * x.pages)).any (fun i =>
    match s.mapsTo? x.domain (x.backing + 2048 * i) with
    | some k => k / 2048 == key / 2048
    | none => false))

/-- The location through which an access by physical address reaches a storage location (R128). -/
def State.physKey (s : State) (key : Nat) : Nat := if s.ownsKey key then ownedKey key else key

/-- Whether a domain has an open set (R124, R130). -/
def State.hasOpenSet (s : State) (dom : Nat) : Bool := s.sets.any (fun x => x.domain == dom && x.isOpen)

/-- The checks of a leaf against a use (R248, orders 4 to 8), and where the access goes. -/
def State.checkLeaf (s : State) (dom va e size : Nat) (use : Use) : Except XErr Xlat :=
  let mt := bits e 9 7
  let pa := bits e 47 12 * 4096 + va % size
  let allowed := match use with
    | .read => bit e 1
    | .write => bit e 2
    | .atomic => bit e 1 && bit e 2
    | .fetch => bit e 3
  if mt > 4 then .error (.cause 3)
  else if bit e 10 && decide (mt > 2) then .error (.cause 6)
  else if !allowed then .error (.cause 2)
  else if s.beyond mt pa then .error (.cause 8)
  else if s.inOffline (storageOf mt pa) then .error (.cause 7)
  else if s.inBacking dom va || s.ownsKey (storageOf mt pa) then
    .ok { key := ownedKey (storageOf mt pa), mt := mt, ver := false, det := false }
  else .ok { key := storageOf mt pa, mt := mt, ver := bit e 10 && s.versioning dom, det := bit e 11 }

/-- Translates an access (R248): a cached entry where there is one, else a walk. -/
def State.translate (s : State) (dom va : Nat) (use : Use) : Except XErr Xlat :=
  if va ≥ 2 ^ 52 then .error (.cause 5)
  else match s.tlbHit? dom va with
    | some t => s.checkLeaf dom va t.leaf.toNat (t.pages * 4096) use
    | none =>
      match s.walk dom va with
      | .error e => .error e
      | .ok (e, level) => s.checkLeaf dom va e ((pageSize level (bits e 63 62)).getD 4096) use

/-- The translation of an access some of whose waits were cancelled: on each of those pages it meets a fault of cause 1,
whatever maps it now (R250). -/
def State.translateFor (s : State) (cancelled : List Nat) (dom va : Nat) (use : Use) : Except XErr Xlat :=
  if cancelled.contains (va / 4096) then .error (.cause 1) else s.translate dom va use

/-- The five access bits of a fault record (R250), from the use and whether an engine makes the access. -/
def accessBits (use : Use) (engine : Bool) : BitVec 5 :=
  (match use with
    | .read => 1#5
    | .write => 2
    | .atomic => 4
    | .fetch => 8) ||| (if engine then 16 else 0)

/-- The lowest number that no outstanding fault holds. -/
def State.freeFaultId (s : State) : Nat :=
  minOf 0 ((List.range (s.faults.length + 1)).filter (fun i => !s.faults.any (fun r => r.id == i)))

/-- A replayable fault (R250): it joins the outstanding record of its page, or makes a new one that waits to be posted.
Answers the record's id. -/
def State.replayMiss (s : State) (dom va level : Nat) (access : BitVec 5) (launch : DWord) (lcore : Word) :
    State × Nat :=
  match s.faults.find? (fun r => r.domain == dom && r.page == va / 4096) with
  | some r => ({ s with faults := s.faults.map (fun q => if q.id = r.id then { q with access := q.access ||| access }
      else q) }, r.id)
  | none =>
    let id := s.freeFaultId
    ({ s with faults := s.faults ++ [{ id := id, domain := dom, page := va / 4096, va := va, access := access,
                                       level := level, launch := launch, lcore := lcore, posted := false, ext := 0 }] }, id)

/-- Leaves an access with no place of its own for a record's number waiting on a replayable fault (R250). -/
def State.waitOn (s : State) (cls num dom va level : Nat) (access : BitVec 5) (launch : DWord) (lcore : Word) : State :=
  let (s1, id) := s.replayMiss dom va level access launch lcore
  if s1.waiters.any (fun x => x.cls == cls && x.num == num && x.record == id && !x.cancelled) then s1
  else { s1 with waiters := s1.waiters ++
    [{ cls := cls, num := num, domain := dom, page := va / 4096, record := id, cancelled := false }] }

/-- Whether an access still waits on a fault record. -/
def State.isWaiting (s : State) (cls num : Nat) : Bool :=
  s.waiters.any (fun x => x.cls == cls && x.num == num && !x.cancelled)

/-- An access has gone on: what it waited for is forgotten. -/
def State.goneOn (s : State) (cls num : Nat) : State :=
  { s with waiters := s.waiters.filter (fun x => !(x.cls == cls && x.num == num)) }

/-- The pages of a domain on which such an access was cancelled. -/
def State.cancelledPages (s : State) (cls num dom : Nat) : List Nat :=
  (s.waiters.filter (fun x => x.cls == cls && x.num == num && x.domain == dom && x.cancelled)).map (·.page)

/-- The translation of such an access (R250). -/
def State.xlateFor (s : State) (cls num dom va : Nat) (use : Use) : Except XErr Xlat :=
  s.translateFor (s.cancelledPages cls num dom) dom va use

end Sys2Proof.Machine
end

