-- ==== Sys2Proof/Machine/Records.lean ====
section
/-!
DEFINITION. Writes the device makes on its own account: error records (R421, R467), report records (R423) and writes to
software-named addresses (R468).
-/

namespace Sys2Proof.Machine

/-- The launch's identity, core and wave as a record names them; the all-ones values where there is none (R421, R423). -/
structure Who where
  launch : DWord
  lcore : Nat
  wave : Nat
  deriving DecidableEq, Repr

/-- No launch, core or wave. -/
def Who.none : Who := { launch := BitVec.allOnes 64, lcore := 0xFFFF, wave := 0xFF }

/-- Detail bytes as a number and a validity mask (R421). -/
def detailOf (d : List (Nat × Nat)) : Nat × Nat :=
  d.foldl (fun a p => (a.1 + p.2 % 256 * 2 ^ (8 * p.1), a.2 ||| 2 ^ p.1)) (0, 0)

/-- The detail bytes that spell a number from a byte offset on. -/
def detailBytes (off n v : Nat) : List (Nat × Nat) :=
  (List.range n).map (fun i => (off + i, v / 256 ^ i % 256))

/-- A count that saturates at its largest value. -/
def satInc {w : Nat} (v : BitVec w) : BitVec w := if v = BitVec.allOnes w then v else v + 1

/-- Writes one error record, or counts it as lost when the queue is full (R421). -/
def State.errorRecord (s : State) (source reason addr : Nat) (who : Who) (detail : List (Nat × Nat)) : State :=
  let size := 2 ^ (bits s.regs.errq.toNat 3 0 + 6)
  let rd := bits s.regs.errIdx.toNat 63 32
  let wr := bits s.regs.errIdx.toNat 31 0
  let (dv, dm) := detailOf detail
  let s1 := { s with errSeq := s.errSeq + 1 }
  if (wr + 2 ^ 32 - rd) % 2 ^ 32 ≥ size then
    { s1 with regs := { s1.regs with errLost := satInc s1.regs.errLost } }
  else
    let v := s.errSeq.toNat + source % 256 * 2 ^ 48 + reason % 256 * 2 ^ 56 + who.wave % 256 * 2 ^ 72 +
      who.lcore % 65536 * 2 ^ 80 + who.launch.toNat * 2 ^ 96 + addr % 2 ^ 64 * 2 ^ 160 + dm % 2 ^ 32 * 2 ^ 224 +
      dv * 2 ^ 256
    let s2 := s1.writeBytes (storageKey 2 (bits s.regs.errq.toNat 63 12 * 4096 + 64 * (wr % size))) (toBytes 64 v) false
    { s2 with regs := { s2.regs with errIdx := BitVec.ofNat 64 (rd * 2 ^ 32 + (wr + 1) % 2 ^ 32) } }

/-- A wave's sr.errstat takes the source of a record that names it (R420). -/
def Wave.setSource (w : Wave) (source : Nat) : Wave :=
  { w with errstat := (w.errstat &&& ~~~0xFF00#64) ||| BitVec.ofNat 64 (source % 256 * 256) }

/-- The waves that a record names by launch, core and wave index take its source (R420). -/
def State.noteSource (s : State) (who : Who) (source : Nat) : State :=
  { s with waves := s.waves.map (fun e =>
      if e.2.lcore = who.lcore ∧ e.2.idx = who.wave ∧ (tget s.launches e.2.launch).any (fun l => l.id == who.launch) then
        (e.1, e.2.setSource source)
      else e) }

/-- A device write that fails (R467, R468): it is left unperformed, with an error record of source 0x12. -/
def State.devFail (s : State) (w : DevWrite) (reason : Nat) : State :=
  let who : Who := { launch := w.launch, lcore := w.lcore, wave := w.wave }
  (s.errorRecord 0x12 reason w.va who [(0, w.code)]).noteSource who 0x12

/-- A device write whose address translates is performed; a version conflict fails it (R468). -/
def State.devPut (s : State) (w : DevWrite) (x : Xlat) : State :=
  if x.ver && s.hasOpenSet w.domain then s.devFail w 10
  else if w.add then
    let v := s.readNat 0 false x.key 4
    s.writeBytes x.key (toBytes 4 ((v + ofBytes w.bytes) % 2 ^ 32)) false
  else s.writeBytes x.key w.bytes false

/-- A device write to a software-named address (R468). A replayable miss leaves it waiting on the page's record, and a write of
a chain waits for the earlier ones of it; a non-replayable fault or a version conflict leaves it unperformed. -/
def State.devWrite (s : State) (w : DevWrite) : State :=
  if w.chain.isSome && s.devWrites.any (fun d => d.chain == w.chain) then
    { s with devWrites := s.devWrites ++ [{ w with waits := none }] }
  else match s.translate w.domain w.va .write with
    | .error (.cause c) => s.devFail w c
    | .error (.miss level) =>
      let (s1, id) := s.replayMiss w.domain w.va level (accessBits .write false) w.launch 0xFFFFFFFF
      { s1 with devWrites := s1.devWrites ++ [{ w with waits := some id }] }
    | .ok x => s.devPut w x

/-- The device writes that wait when the host answers a fault record, in order (R250, R468): one that waits on the record is
made anew, or fails after a cancel; one that waited for an earlier write of its chain is made when nothing of it is left
before it. -/
def State.retryWrites (s : State) (r : Nat) (cancel : Bool) : State :=
  s.devWrites.foldl (fun (s : State) d => match d.waits with
    | some k =>
      if k ≠ r then { s with devWrites := s.devWrites ++ [d] }
      else if cancel then s.devFail d 1
      else s.devWrite d
    | none => s.devWrite d) { s with devWrites := [] }

/-- The field [hi:lo] of a launch's record (R110). -/
def Launch.field (l : Launch) (hi lo : Nat) : Nat := bits l.record.toNat hi lo

/-- The teams in the grid of a launch (R110, R405 sr.grid). -/
def Launch.gridTeams (l : Launch) : Nat :=
  l.field 159 128 * Nat.max 1 (l.field 175 160) * Nat.max 1 (l.field 191 176)

/-- A device write for a launch's report (R423, R468): through its domain, in order with its others, naming the core and wave
concerned. -/
def State.launchWrite (s : State) (l : Launch) (who : Who) (va : Nat) (bytes : List Byte) : State :=
  s.devWrite { domain := l.domain, va := va, bytes := bytes, add := false, code := 3, lcore := who.lcore, wave := who.wave,
               launch := l.id, chain := some l.uid, waits := none }

/-- How a record names a launch and no wave. -/
def Launch.who (l : Launch) : Who := { launch := l.id, lcore := 0xFFFF, wave := 0xFF }

/-- Changes a launch. -/
def State.modLaunch (s : State) (uid : Nat) (f : Launch → Launch) : State :=
  { s with launches := tmod s.launches uid f }

/-- The launch with a number. -/
def State.launch? (s : State) (uid : Nat) : Option Launch := tget s.launches uid

/-- The content of a report record (R423). -/
structure Report where
  kind : Nat
  source : Nat
  cause : Nat
  value : Nat
  writer : Nat
  addr : Nat
  detail : Nat
  deriving DecidableEq, Repr

/-- A report record as a number (R423). -/
def Report.encode (r : Report) (who : Who) : Nat :=
  r.kind % 256 + r.source % 256 * 2 ^ 8 + r.cause % 256 * 2 ^ 16 + r.value % 2 ^ 64 * 2 ^ 64 + who.wave % 256 * 2 ^ 136 +
    who.lcore % 65536 * 2 ^ 144 + r.writer % 2 ^ 32 * 2 ^ 160 + r.addr % 2 ^ 64 * 2 ^ 192 + r.detail % 2 ^ 256 * 2 ^ 256

/-- The capacity of a launch's report ring (R423): 2^(log2_records + 4), codes 13 to 15 read as 12. -/
def reportCapacity (log : Nat) : Nat := 2 ^ (Nat.min log 12 + 4)

/-- Sends a record to a launch's fault queue (R423); with fault_queue 0 it goes to the host error queue, source 0x10
(R467). -/
def State.report (s : State) (uid : Nat) (who : Who) (r : Report) : State :=
  match s.launch? uid with
  | none => s
  | some l =>
    let fq := l.field 831 768
    let v := r.encode who
    if fq = 0 then
      (s.errorRecord 0x10 r.kind r.addr who ((List.range 32).map (fun i => (i, v / 256 ^ i % 256)))).noteSource who 0x10
    else if l.reportIdx ≥ reportCapacity l.reportLog then
      (s.launchWrite l who (fq + 20) (toBytes 4 (satInc l.reportLost).toNat)).modLaunch uid (fun l =>
        { l with reportLost := satInc l.reportLost })
    else
      let s1 := s.launchWrite l who (fq + 256 + 64 * l.reportIdx) (toBytes 64 v)
      let s2 := s1.launchWrite l who (fq + 16) (toBytes 4 (l.reportIdx + 1))
      s2.modLaunch uid (fun l => { l with reportIdx := l.reportIdx + 1 })

/-- Marks a launch faulted. -/
def State.markFaulted (s : State) (uid : Nat) : State := s.modLaunch uid (fun l => { l with faulted := true })

end Sys2Proof.Machine
end

