-- ==== Sys2Proof/Machine/Ops.lean ====
section
/-!
DEFINITION. The operations every instruction shares: the wave that issues, its lanes, engine counters, pending operations,
taking a trap and returning from a handler (R391 to R399), and moving on to the next word or the end of a run.
-/

namespace Sys2Proof.Machine

/-- The vpc of an exited lane (R63). -/
def exited : Word := 0xFFFFFFFF

/-- A lane's vpc; a lane without an entry has exited. -/
def Wave.vpcOf (w : Wave) (l : Nat) : Word := tgetD w.vpc l exited

/-- Whether a lane is live (R63). -/
def Wave.isLive (w : Wave) (l : Nat) : Bool := w.vpcOf l != exited

/-- The wave's live lanes, ascending. -/
def Wave.live (w : Wave) : List Nat := (List.range w.width).filter w.isLive

/-- The live lanes that are not parked by RFT (R399). -/
def Wave.unparked (w : Wave) : List Nat := w.live.filter (fun l => !w.parked.getLsbD l)

/-- The wave's issue address (R191): the lowest vpc of its live lanes. -/
def Wave.issueAddr? (w : Wave) : Option Nat :=
  match w.unparked with
  | [] => none
  | l :: t => some (t.foldl (fun m x => Nat.min m (w.vpcOf x).toNat) (w.vpcOf l).toNat)

/-- The wave that issues and the run it is issuing. -/
structure Ctx where
  s : State
  w : Wave
  r : RunCtx

/-- The current wave, when it is issuing a run. -/
def State.ctx? (s : State) : Option Ctx :=
  match tget s.waves s.cur with
  | none => none
  | some w =>
    match w.run with
    | none => none
    | some r => some { s := s, w := w, r := r }

/-- The active lanes of the run, ascending (R191). -/
def Ctx.act (c : Ctx) : List Nat := (lanesOf c.r.active).filter (fun l => decide (l < c.w.width))

/-- The lowest active lane. -/
def Ctx.first (c : Ctx) : Nat := c.act.headD 0

/-- Puts a wave back. -/
def State.setWave (s : State) (w : Wave) : State := { s with waves := tset s.waves w.uid w }

/-- The wave with a number. -/
def State.wave? (s : State) (uid : Nat) : Option Wave := tget s.waves uid

/-- Changes a wave. -/
def State.modWave (s : State) (uid : Nat) (f : Wave → Wave) : State := { s with waves := tmod s.waves uid f }

/-- The team with a number. -/
def State.team? (s : State) (uid : Nat) : Option Team := tget s.teams uid

/-- Changes a team. -/
def State.modTeam (s : State) (uid : Nat) (f : Team → Team) : State := { s with teams := tmod s.teams uid f }

/-- Changes a unit (a cluster group or a team in none). -/
def State.modGrp (s : State) (uid : Nat) (f : Grp → Grp) : State := { s with grps := tmod s.grps uid f }

/-- The clk count of a wave's column (R4). -/
def State.clkOf (s : State) (w : Wave) : Nat := (tgetD s.columns (w.pcore / 16) Column.reset).clk

/-- The partitions of a partition mode (R441): one, two or four. -/
def State.partitions (s : State) : Nat :=
  match bits s.regs.partcfg.toNat 1 0 with
  | 0 => 1
  | 1 => 2
  | _ => 4

/-- The columns of a partition (R163, R441). -/
def State.partitionColumns (s : State) : Nat := 16 / s.partitions

/-- The physical core that hosts a logical core (R162, R163). -/
def State.hostCore (s : State) (partition lcore : Nat) : Nat :=
  16 * s.partitionColumns * partition + lcore % (16 * s.partitionColumns)

/-- The physical column that hosts a logical column, its Jig and its slices (R162, R163). -/
def State.hostColumn (s : State) (partition col : Nat) : Nat := s.hostCore partition (16 * col) / 16

/-- The partition in which a launch runs (R441). -/
def State.partitionOf (s : State) (launch : Nat) : Nat :=
  match s.launch? launch with
  | some l => l.partition
  | none => 0

/-- The number of a logical core among those of all partitions. -/
def State.coreKey (s : State) (w : Wave) : Nat := 256 * s.partitionOf w.launch + w.lcore

/-- A fresh free value (the model's counter moves on). -/
def State.fresh (s : State) : Word × State := (Config.freeWord s.free, { s with free := s.free + 1 })

/-- A fresh number for a new object. -/
def State.newId (s : State) : Nat × State := (s.nextId, { s with nextId := s.nextId + 1 })

/-- The version domain of a launch. -/
def State.domainOf (s : State) (launch : Nat) : Nat :=
  match s.launch? launch with
  | some l => l.domain
  | none => 0

/-- Whether the deterministic mode of a launch is on (R110). -/
def State.isDet (s : State) (launch : Nat) : Bool :=
  match s.launch? launch with
  | some l => l.field 119 119 == 1
  | none => false

/-- At a switch point of deterministic mode the wave gives up its logical core (R165, R166). -/
def State.yieldTurn (s : State) (w : Wave) : State :=
  if s.isDet w.launch then { s with turns := tmod s.turns (s.coreKey w) (fun t => (t.1, false)) } else s

/-- How a record names a wave (R421, R423). -/
def State.whoOf (s : State) (w : Wave) : Who :=
  { launch := (match s.launch? w.launch with | some l => l.id | none => BitVec.allOnes 64)
    lcore := w.lcore, wave := w.idx }

/-- What the code that a handler interrupted still waits for (R400). -/
def Wave.heldWait (w : Wave) : Option Wait := if w.mode then w.frame.map (·.wait) else none

/-- The wait of a wave that a function recognises: the interrupted code's first, then its own. -/
def Wave.waitsFor {α : Type} (w : Wave) (p : Wait → Option α) : Option α :=
  match w.heldWait.bind p with
  | some x => some x
  | none => p w.wait

/-- Ends the wait that a function recognises; `f` does to the wave what the instruction that waited then does, in the window it
was issued in. -/
def Wave.endWaitFor {α : Type} (w : Wave) (p : Wait → Option α) (f : Wave → α → Wave) : Wave :=
  match w.heldWait.bind p, w.frame with
  | some x, some g => { f { w with mode := false, frame := some { g with wait := .none } } x with mode := true }
  | _, _ => match p w.wait with
    | some x => f { w with wait := .none } x
    | none => w

/-- The completion flags that have an operation attached (R175). -/
def Wave.flagSet (w : Wave) (n : Nat) : Bool := w.pend.any (fun p => p.flag == some n)

/-- Whether every operation attached to a flag has completed. -/
def Wave.flagsClear (w : Wave) : Bool := w.pend.all (fun p => p.flag.isNone)

/-- The count of a wave's engine counter of a class (R280): the operations from the oldest incomplete one on. -/
def State.engCount (s : State) (wave cls : Nat) : Nat :=
  ((s.eng.filter (fun e => e.wave == wave && e.cls == cls)).dropWhile (fun e => e.done)).length

/-- Adds an operation to an engine counter (R280). Answers its number. -/
def State.engAdd (s : State) (wave cls : Nat) : Nat × State :=
  let (id, s1) := s.newId
  (id, { s1 with eng := s1.eng ++ [{ id := id, wave := wave, cls := cls, done := false }] })

/-- Completes an operation of an engine counter; operations with no older incomplete one of their class leave it. -/
def State.engDone (s : State) (id : Nat) : State :=
  match s.eng.find? (fun e => e.id == id) with
  | none => s
  | some e =>
    let l := s.eng.map (fun x => if x.id = id then { x with done := true } else x)
    let mine := (l.filter (fun x => x.wave == e.wave && x.cls == e.cls)).takeWhile (fun x => x.done)
    { s with eng := l.filter (fun x => !mine.any (fun y => y.id == x.id)) }

/-- Takes an operation off an engine counter as if it had not been issued (R302). -/
def State.engCancel (s : State) (id : Nat) : State := { s with eng := s.eng.filter (fun e => e.id != id) }

/-- A value set in the entries of some lanes. -/
def setLanes {α : Type} (t : Tbl α) (lanes : List Nat) (v : α) : Tbl α := lanes.foldl (fun t l => tset t l v) t

/-- The region entry record of the wave as it stands (R195, R208). -/
def Wave.snapshot (w : Wave) : RegionEntry :=
  { vpc := w.vpc, wbase := w.wbase, wtop := w.wtop, draw := w.draw, lc := w.lc, loops := w.loops, parked := w.parked,
    parkMode := w.parkMode, mode := w.mode }

/-- An arrival is taken back: its counter falls, and an MMAS's tile gets its tag back (R302). -/
def State.unarrive (s : State) (a : Arrival) : State :=
  let s1 := s.engCancel a.eng
  if a.op = 2 then s1.modTeam a.team (fun t => { t with tiles := tmod t.tiles a.tile (fun x => { x with tag := a.oldTag }) })
  else s1

/-- The lanes' addresses as if at the MMA of an arrival (R302): a lane that has exited since, in a handler, stays exited. -/
def Wave.atArrival (w : Wave) (a : Arrival) : Tbl Word :=
  w.live.foldl (fun t l =>
    tset t l (if (lanesOf a.run.active).contains l then BitVec.ofNat 32 a.offset else tgetD a.before.vpc l exited)) w.vpc

/-- The arrivals waiting in a latch are withdrawn (R302, R304, R305), the last first, so that a tile that two of them name has
the tag it had before the first: each member's lanes go back to its operation's offset, its counter falls by one, its reuse
latch stands as before and it takes the trap. -/
def State.withdraw (s : State) (grp gang cause : Nat) (info : Arrival → DWord) : State :=
  match tget s.grps grp with
  | none => s
  | some g =>
    match tget g.gangs gang with
    | none => s
    | some gg =>
      let s1 := gg.latch.reverse.foldl (fun s a => (s.unarrive a).modWave a.wave (fun w =>
          if w.live.isEmpty then { w with wait := .none }
          else
            { w with
              vpc := w.atArrival a
              lc := a.before.lc, loops := a.before.loops, wait := .none, afterEffect := false
              trap := some { cause := cause, lanes := a.run.active, info := info a, offset := a.offset, atHeader := false,
                             header := a.run.word, run := some a.run, needs := [] } })) s
      let reuse := gg.latch.reverse.foldl (fun (t : Tbl Frag) a =>
        match a.oldReuse with
        | some f => tset t a.member f
        | none => tdel t a.member) gg.reuse
      s1.modGrp grp (fun g => { g with gangs := tset g.gangs gang { gg with latch := [], complete := false, waited := 0,
                                                                            reuse := reuse } })

/-- Takes a wave out of the rings' waiters. -/
def State.leaveRings (s : State) (w : Wave) : State :=
  s.modTeam w.team (fun t => { t with rings := t.rings.map (fun e =>
    (e.1, { e.2 with waiters := e.2.waiters.filter (fun x => x != .racq w.uid && x != .rget w.uid) })) })

/-- A listed member retires or halts: the retired-member flag is set, its reuse latch released and the waiting members
take the gang-mismatch trap with reason 6 (R303, R305); its own arrivals are taken back. -/
def State.memberGone (s : State) (w : Wave) : State :=
  match s.team? w.team with
  | none => s
  | some t =>
    match tget s.grps t.grp with
    | none => s
    | some g =>
      g.gangs.foldl (fun s e =>
        match e.2.members.findIdx? (fun m => m == (t.rank, w.idx)) with
        | none => s
        | some i =>
          let own := e.2.latch.filter (fun a => a.wave == w.uid)
          let s1 := (own.reverse.foldl State.unarrive s).modGrp t.grp (fun g => { g with gangs := tmod g.gangs e.1 (fun gg =>
            { gg with retired := true, reuse := tdel gg.reuse i, latch := gg.latch.filter (fun a => a.wave != w.uid) }) })
          s1.withdraw t.grp e.1 12 (fun _ => 6)) s

/-- The major opcode of the word at a code offset of a wave, for the source field of a record (R423); 0xFF where the word
cannot be read. -/
def State.majorAt (s : State) (w : Wave) (off : Nat) : Nat :=
  match s.launch? w.launch with
  | none => 0xFF
  | some l =>
    match s.translate l.domain (l.field 63 0 + 0x40 + off) .fetch with
    | .ok x => bits (s.readNat w.tag x.ver x.key 4) 31 26
    | .error _ => 0xFF

/-- A withdrawn instruction leaves its queues (R286, R380, R382). -/
def State.withdrawWait (s : State) (w : Wave) : State :=
  let s1 := s.leaveRings w
  { s1 with cbWaiters := s1.cbWaiters.filter (fun x => x != w.uid)
            heldTasks := s1.heldTasks.filter (fun h => !(h.source == 3 && h.place == w.uid)) }

/-- A double fault or a halt (R396, R397): every lane exits, a record of kind 2 goes to the launch's fault queue and the
launch is marked faulted. -/
def State.haltWave (s : State) (w : Wave) (inner : Nat) (info : DWord) (offset outer src : Nat) : State :=
  let w1 := { w with vpc := (List.range w.width).map (fun l => (l, exited)), run := none, trap := none, fpPending := [],
                     wait := .none, faultWait := none, cancelled := [], mode := false, stall := none }
  let s1 := s.setWave w1
  let s2 := s1.report w.launch (s.whoOf w)
    { kind := 2, source := s.majorAt w src, cause := inner, value := info.toNat, writer := 0, addr := 0
      detail := offset % 2 ^ 32 + outer % 256 * 2 ^ 32 }
  ((s2.markFaulted w.launch).memberGone w1).withdrawWait w

/-- The frame's offset and cause, for the record of a double fault. -/
def State.doubleFault (s : State) (w : Wave) (inner : Nat) (info : DWord) (src : Nat) : State :=
  s.haltWave w inner info (match w.frame with | some f => f.offset | none => 0) w.trapcause.toNat src

/-- The trap frame that a wave saves (R393). -/
def Wave.frameFor (w : Wave) (t : Trap) : Frame :=
  { curVpc := w.vpc, entry := w.region, header := t.header, offset := t.offset, fpctl := w.fpctl, run := t.run,
    needs := t.needs, afterEffect := w.afterEffect, reads := w.regionReads, writes := w.regionWrites,
    serial := w.regionSerial, later := w.laterRegion, reached := w.reached, wait := w.wait, fp := w.fpPending }

/-- TAKING A TRAP, once the wave's flags are clear (R393): the frame is saved, sr.trapcause, sr.traplanes and sr.trapinfo
are written, every live lane's vpc becomes the handler's offset and the wave enters trap mode; the handler's first run is ready
from now on (R186). What the interrupted code waits for stays in the frame until RFT goes back to it. Without a handler the
wave halts (R397); a fault in reading the handler table is a double fault. -/
def State.enterTrap (s : State) (w : Wave) (t : Trap) : State :=
  match s.launch? w.launch with
  | none => s
  | some l =>
    let w1 := { w with frame := some (w.frameFor t), fpctl := 0, trapcause := BitVec.ofNat 32 t.cause, traplanes := t.lanes,
                       trapinfo := t.info, trap := none, run := none, faultWait := none }
    let halt := fun (s : State) (inner : Nat) (info : DWord) => s.haltWave w1 inner info t.offset t.cause t.offset
    if l.handlerAddr = 0 then halt s 0xFF 0
    else if (t.cause = 6 ∨ t.cause = 7) ∧ w.spill.isNone then halt s 0xFF 0
    else
      let ea := l.handlerAddr + 4 * t.cause
      match s.translateFor w.cancelled l.domain ea .read with
      | .error (.miss level) =>
        let (s1, id) := s.replayMiss l.domain ea level (accessBits .read false) l.id (BitVec.ofNat 32 w.lcore)
        s1.setWave { w with run := none, trap := some t, faultWait := some id }
      | .error (.cause c) =>
        halt s 9 (BitVec.ofNat 64 (c * 2 ^ 56 + ea % 2 ^ 52))
      | .ok x =>
        let h := s.readNat w.tag x.ver x.key 4
        let poisoned := s.anyPoison w.tag x.ver x.key 4
        let s := s.convertAt [(0, x.key, 4)]
        if poisoned then halt s 16 0
        else
          if h = 0xFFFFFFFF then halt s 0xFF 0
          else
            s.setWave { w1 with
              vpc := setLanes w.vpc w.live (BitVec.ofNat 32 h)
              hbase := w.live.foldl (fun b l => tset b l (tgetD w.wbase l 0)) w.hbase
              mode := true, parked := 0, parkMode := 0, afterEffect := false, reached := [], cancelled := []
              wait := .none, fpPending := [], laterRegion := none, ready := s.clkOf w, raised := false, taken := false }

/-- What an instruction raises at issue: its cause, lanes and record (R391), for a spill or fill the positions its retry
needs, and for poison consumed the elements consumed (lane and row). -/
structure Raise where
  cause : Nat
  lanes : BitVec 64
  info : DWord
  needs : List (Nat × Int × Int)
  consumed : List (Nat × Nat)
  deriving DecidableEq, Repr

/-- A record of an event that names a wave, which also sets sr.errstat's source field (R420, R421). -/
def State.waveRecord (s : State) (w : Wave) (source event addr : Nat) (detail : List (Nat × Nat)) : State :=
  (s.errorRecord source event addr (s.whoOf w) detail).modWave w.uid (fun w => w.setSource source)

/-- Whether an element of a row is poisoned and no instruction has consumed it. -/
def Row.latent (r : Row) : Bool := r.poison &&& ~~~r.seen != 0

/-- Whether an element of the wave is poisoned and no instruction has consumed it. -/
def Wave.hasLatent (w : Wave) : Bool := w.rows.any (fun e => e.2.latent)

/-- The latent bit of sr.errstat clears when no element is left that is poisoned and has not been consumed (R420). -/
def Wave.settleLatent (w : Wave) : Wave :=
  if w.hasLatent then w else { w with errstat := w.errstat &&& ~~~2#64 }

/-- A trap is raised: poison consumed is recorded (R416); in trap mode it is a double fault (R395, R396); otherwise the
trap is entered at once when no flag is set, or waits for the flags (R393). -/
def State.raiseTrap (s : State) (w : Wave) (t : Trap) : State :=
  if w.mode then s.doubleFault { w with run := none } t.cause t.info t.offset
  else
    let w1 := { w with run := none, trap := some t, stall := none }
    if w.flagsClear then s.enterTrap w1 t else s.setWave w1

/-- The trap that a raise in the current run becomes: every active lane's vpc holds the word's offset (R200). The record of
event 3 names one of the elements consumed by its row and lane, where it is a register element (R416, R421); which of several
is open. -/
def Ctx.trap (c : Ctx) (e : Raise) : State :=
  let w := { c.w with vpc := setLanes c.w.vpc c.act (BitVec.ofNat 32 c.w.pc), cancelled := [] }
  let t : Trap := { cause := e.cause, lanes := e.lanes, info := e.info, offset := c.w.pc, atHeader := false,
                    header := c.r.word, run := some c.r, needs := e.needs }
  if e.cause = 16 then
    let (a, s1) := c.s.fresh
    let w' := ({ w with
      errstat := w.errstat ||| 4
      rows := e.consumed.foldl (fun t x => tmod t x.2 (fun r => { r with seen := r.seen ||| (1#64 <<< x.1) })) w.rows } :
        Wave).settleLatent
    let detail := match e.consumed with
      | [] => []
      | x :: l => let y := choose c.w.pc x (x :: l); [(0, y.2 % 256), (1, y.1)]
    let s2 := (s1.setWave w').waveRecord w' 1 3 a.toNat detail
    s2.raiseTrap ((s2.wave? w.uid).getD w') t
  else c.s.raiseTrap w t

/-- RETURN FROM A HANDLER, once no live lane remains unparked (R399): a lane that chose to continue, that raised the cause
and whose cause is not 15 resumes past the trapping word, every other at its saved vpc; the region entry record and
sr.fpctl are restored and the wave leaves trap mode; the frame holds no sr.wtop (R195, R404), so the record's is what the
handler left (DEDUCED; log entry 65). What the interrupted region has read and written and its place in the
order of runs come back with its entry (R198, R332), and so does what the interrupted code waited for. A lane that goes back
to its saved vpc has reached its run by the instruction that had reached it before the trap, one that continues by the
trapping instruction (DEDUCED: R54 does not speak of runs that RFT goes back to; log entry 64). -/
def Wave.leaveTrap (w : Wave) : Wave :=
  match w.frame with
  | none => w
  | some f =>
    let goesOn := fun (l : Nat) => w.parkMode.getLsbD l && w.trapcause != 15 && w.traplanes.getLsbD l
    let next := fun (l : Nat) => if goesOn l then BitVec.ofNat 32 (f.offset + 4) else tgetD f.curVpc l exited
    { w with
      vpc := w.live.foldl (fun v l => tset v l (next l)) w.vpc
      reached := setLanes f.reached (w.live.filter goesOn) f.offset
      regionReads := f.reads, regionWrites := f.writes, regionSerial := f.serial, laterRegion := f.later
      wait := f.wait, fpPending := f.fp
      region := { f.entry with wtop := w.wtop }, fpctl := f.fpctl, mode := false, parked := 0, parkMode := 0
      afterEffect := f.afterEffect
      resume := (match f.run with | some r => r :: w.resume.filter (fun q => q.hdr != r.hdr) | none => w.resume) }

/-- Leaves the handler when every live lane is parked (R399). -/
def Wave.tryLeave (w : Wave) : Wave := if w.mode && w.unparked.isEmpty && !w.live.isEmpty then w.leaveTrap else w

/-- The loop entries that end at an offset, most recently set first (R182). -/
def Wave.loopsAt (w : Wave) (e : Nat) : List Nat :=
  let l := (tkeys w.loops).filter (fun c => match tget w.loops c with
    | some x => x.active && x.stop == e
    | none => false)
  let seqOf : Nat → Nat := fun c => match tget w.loops c with | some x => x.seq | none => 0
  sortBy (fun a b => decide (seqOf a ≥ seqOf b)) l

/-- The loop back of one entry at the end of a run (R182); the flag says that the lanes still fall through. -/
def Wave.loopStep (w : Wave) (e : Nat) (fall : List Nat) : List Nat → Wave
  | [] => w
  | c :: rest =>
    let n := tgetD w.lc c 0 - 1
    let w1 := { w with lc := tset w.lc c n }
    match tget w1.loops c with
    | none => w1
    | some x =>
      if n != 0 then { w1 with vpc := setLanes w1.vpc fall (BitVec.ofNat 32 x.start) }
      else Wave.loopStep { w1 with loops := tset w1.loops c { x with active := false } } e fall rest

/-- The end of a run (R191): each active lane goes to the address a control instruction gave it, or falls through; loop
entries that end here are processed for the lanes that fall through, not for one that branched, jumped or called to the
address that follows (R182, R183). -/
def Wave.endRun (w : Wave) (r : RunCtx) : Wave :=
  let act := (lanesOf r.active).filter w.isLive
  let fallAddr := BitVec.ofNat 32 (r.last + 4)
  let vpc := act.foldl (fun v l => tset v l (tgetD w.target l fallAddr)) w.vpc
  let fall := act.filter (fun l => (tget w.target l).isNone)
  let w1 := { w with vpc := vpc, run := none, target := [], reached := setLanes w.reached act r.last }
  (Wave.loopStep w1 r.last fall (w1.loopsAt r.last)).tryLeave

/-- The word at the wave's pc is done: the next word of the run, or the end of the run. -/
def Wave.advance (w : Wave) (r : RunCtx) : Wave :=
  let w1 := { w with issued := w.issued + 1, cancelled := [] }
  if w.pc = r.last then w1.endRun r else { w1 with pc := w.pc + 4 }

/-- A plain instruction completes. -/
def Ctx.done (c : Ctx) (s : State) (w : Wave) : State := s.setWave (w.advance c.r)

/-- An effect instruction completes: the run that follows must open a region (R50, R55). -/
def Ctx.doneEffect (c : Ctx) (s : State) (w : Wave) : State :=
  s.setWave { w.advance c.r with afterEffect := true }

/-- The outcome of an instruction of a run: its next state, or the trap it raises; a fault when no wave issues. -/
def State.issue (s : State) (f : Ctx → Except Raise State) : Host.Outcome State Fault Refusal :=
  match s.ctx? with
  | none => .fault .noWave
  | some c =>
    match f c with
    | .ok t => .next t
    | .error e => .next (c.trap e)

/-- A raise in every active lane. -/
def Ctx.raiseAll (c : Ctx) (cause : Nat) (info : Nat) : Raise :=
  { cause := cause, lanes := maskOf c.act, info := BitVec.ofNat 64 info, needs := [], consumed := [] }

/-- A raise in some lanes. -/
def Ctx.raiseIn (_ : Ctx) (cause : Nat) (lanes : List Nat) (info : Nat) : Raise :=
  { cause := cause, lanes := maskOf lanes, info := BitVec.ofNat 64 info, needs := [], consumed := [] }

/-- The launch of the wave that issues. -/
def Ctx.launch? (c : Ctx) : Option Launch := c.s.launch? c.w.launch

/-- Its domain. -/
def Ctx.dom (c : Ctx) : Nat := c.s.domainOf c.w.launch

/-- The flag that the run's memory-class instructions set (R36, R39). -/
def Ctx.sf1 (c : Ctx) : Nat := bits c.r.word.toNat 8 5

/-- The flag that the run's other variable-latency instructions set. -/
def Ctx.sf2 (c : Ctx) : Nat := bits c.r.word.toNat 4 1

/-- Attaches an operation to the wave (R175). -/
def Ctx.attach (c : Ctx) (w : Wave) (kind : PendKind) (flag : Option Nat) (dests : List Nat) (acquire release : Bool)
    (scope : Nat) : Wave :=
  { w with
    pend := w.pend ++ [{ id := w.nextPend, kind := kind, flag := flag, serial := c.r.serial, offset := c.w.pc,
                         dests := dests, acquire := acquire, release := release, scope := scope }]
    nextPend := w.nextPend + 1 }

end Sys2Proof.Machine
end

