-- ==== Sys2Proof/Machine/Operands.lean ====
section
/-!
DEFINITION. Operands: the register window and stack (R203 to R205), reading and writing vector and k registers, and the
checks at issue that they carry (R40, R43, R62, R63, R200, R205, R391, R392, R416, R198).
-/

namespace Sys2Proof.Machine

/-- The window size (R40, R203). -/
def Wave.win (w : Wave) : Nat := Nat.min 128 w.allot

/-- The row of a lane's vector field: stack position modulo the allotment (R204), or, in trap mode, a row of the trap window
for a field below 32 and the position sr.hbase + f − 32 for the others (R394). -/
def Wave.rowOf (w : Wave) (l f : Nat) : Nat :=
  if w.mode then (if f < 32 then 1024 + f else (tgetD w.hbase l 0 + (f - 32)) % w.allot)
  else (tgetD w.wbase l 0 + f) % w.allot

/-- Whether a stack position is resident (R204). -/
def Wave.resident (w : Wave) (p : Nat) : Bool := decide (w.wtop ≤ p + w.allot) && decide (p < w.wtop)

/-- Whether a field may be named by some lanes (R40, R394): a register of a group beyond field 127 never (R43). -/
def Wave.fieldOk (w : Wave) (lanes : List Nat) (f : Nat) : Bool :=
  if w.mode then decide (f < 32) || (decide (f < 128) && lanes.all (fun l => w.resident (tgetD w.hbase l 0 + (f - 32))))
  else decide (f < w.win)

/-- An empty register row (R64). -/
def Row.empty : Row := { tag := 0, elems := [], poison := 0, seen := 0 }

/-- A row of the wave. -/
def Wave.row (w : Wave) (r : Nat) : Row := tgetD w.rows r Row.empty

/-- The element of a row in a lane. -/
def Wave.elem (w : Wave) (r l : Nat) : Word := tgetD (w.row r).elems l 0

/-- The element that a lane reads through a field. -/
def Wave.reg (w : Wave) (l f : Nat) : Word := w.elem (w.rowOf l f) l

/-- Whether that element is poisoned (R414). -/
def Wave.regPoison (w : Wave) (l f : Nat) : Bool := (w.row (w.rowOf l f)).poison.getLsbD l

/-- The tag that a check sees through a field: RAW through a field of 32 or above in trap mode (R394). -/
def Wave.tagAt (w : Wave) (l f : Nat) : BitVec 16 :=
  if w.mode && decide (f ≥ 32) then 0 else (w.row (w.rowOf l f)).tag

/-- The format that a check sees through a field. -/
def Wave.fmtAt (w : Wave) (l f : Nat) : Nat := tagFmt (w.tagAt l f)

/-- A k register. -/
def Wave.kreg (w : Wave) (k : Nat) : DWord := tgetD w.k k 0

/-- Writes a k register, which clears its poison (R414). -/
def Wave.setK (w : Wave) (k : Nat) (v : DWord) : Wave :=
  { w with k := tset w.k k v, kpoison := w.kpoison &&& ~~~(1#64 <<< k) }

/-- Two registers as one 64-bit value, low word first (R43). -/
def Wave.pair (w : Wave) (l f : Nat) : Nat := (w.reg l f).toNat + (w.reg l (f + 1)).toNat * 2 ^ 32

/-- A write of one lane's element through a field; `tag` is the tag that the row takes, none where it stays. -/
structure RegW where
  field : Nat
  row : Nat
  lane : Nat
  val : Word
  tag : Option (BitVec 16)
  pois : Bool
  deriving DecidableEq, Repr

/-- A write that gives the row a tag; through a field of 32 or above in trap mode the row's tag stays (R394). -/
def Wave.put (w : Wave) (l f : Nat) (v : Word) (tag : BitVec 16) : RegW :=
  { field := f, row := w.rowOf l f, lane := l, val := v,
    tag := if w.mode && decide (f ≥ 32) then none else some tag, pois := false }

/-- A write that leaves the row's tag as it stands (R61). -/
def Wave.putSame (w : Wave) (l f : Nat) (v : Word) : RegW :=
  { field := f, row := w.rowOf l f, lane := l, val := v, tag := none, pois := false }

/-- The scale that a load or conversion into a format keeps: the destination's for formats 8 to 18, else 0 (R60). -/
def Wave.keptScale (w : Wave) (l f fmt : Nat) : Int :=
  if isNarrow fmt then tagScale (w.row (w.rowOf l f)).tag else 0

/-- What an instruction names: the fields that must lie in the window (`regs`); the fields that must be even (`pairs`); its
data operands with the formats each accepts besides RAW (`data`), which must agree when `same`; the fields whose elements
it consumes (`reads`), in the lowest active lane only (`first`), in some lanes only (`laneReads`, lane and field), and those it
reads but lets poison through (`carry`, and `laneCarry` in some lanes only); the k registers it reads and writes; and its
vector writes. -/
structure OpSpec where
  regs : List Nat := []
  pairs : List Nat := []
  data : List (Nat × List Nat) := []
  same : Bool := true
  reads : List Nat := []
  first : List Nat := []
  laneReads : List (Nat × Nat) := []
  carry : List Nat := []
  laneCarry : List (Nat × Nat) := []
  kreads : List Nat := []
  kcarry : List Nat := []
  kwrites : List Nat := []
  writes : List RegW := []

/-- The word that is being issued, for the open choices of a trap record. -/
def Ctx.key (c : Ctx) : Nat := c.w.pc

/-- The illegal-register check (R40, R43, R394). -/
def Ctx.checkRegs (c : Ctx) (fields : List Nat) : Except Raise Unit :=
  let bad := fields.filter (fun f => !c.w.fieldOk c.act f)
  if bad.isEmpty then .ok () else .error (c.raiseAll 2 (choose c.key 0 (dedup bad) % 128))

/-- The record of a format trap: an operand position, whose numbering the specification leaves open, and the tag found
(R62, R391). -/
def Ctx.formatInfo (c : Ctx) (l f : Nat) : Nat :=
  (Config.operandPos (BitVec.ofNat 32 c.w.pc) f).toNat + (c.w.row (c.w.rowOf l f)).tag.toNat * 2 ^ 16

/-- The data operands of a lane that fail the tag check (R62). -/
def Ctx.badData (c : Ctx) (data : List (Nat × List Nat)) (same : Bool) (l : Nat) : List (Nat × Nat) :=
  let own := data.filter (fun d => let f := c.w.fmtAt l d.1; f != 0 && !d.2.contains f)
  let fmts := dedup ((data.map (fun d => c.w.fmtAt l d.1)).filter (fun f => f != 0))
  let mixed := if same && decide (fmts.length > 1) then data.filter (fun d => c.w.fmtAt l d.1 != 0) else []
  (if own.isEmpty then mixed else own).map (fun d => (l, d.1))

/-- The format check (R62), an odd field used as a pair included (R43, R200). -/
def Ctx.checkFormat (c : Ctx) (pairs : List Nat) (data : List (Nat × List Nat)) (same : Bool) : Except Raise Unit :=
  let odd := pairs.filter (fun f => f % 2 == 1)
  let bad := if odd.isEmpty then c.act.flatMap (c.badData data same)
    else c.act.flatMap (fun l => odd.map (fun f => (l, f)))
  if bad.isEmpty then .ok ()
  else .error (c.raiseIn 4 (dedup (bad.map (·.1)))
    (choose c.key 0 (dedup (bad.map (fun x => c.formatInfo x.1 x.2)))))

/-- The writes that would split a tag (R63, R205): the row's tag changes and a live lane does not write the row. -/
def Wave.splits (w : Wave) (writes : List RegW) : List RegW :=
  writes.filter (fun x => match x.tag with
    | none => false
    | some t => t != (w.row x.row).tag &&
        w.live.any (fun l => !writes.any (fun y => y.row == x.row && y.lane == l)))

/-- The tag-split check (R63, R205). -/
def Ctx.checkSplit (c : Ctx) (writes : List RegW) : Except Raise Unit :=
  let bad := c.w.splits writes
  if bad.isEmpty then .ok ()
  else .error (c.raiseAll 5
    (choose c.key 0 (dedup (bad.map (fun x => x.field % 128 + (x.tag.getD 0).toNat * 2 ^ 16)))))

/-- The poison check (R416): a consumed element of some lanes and fields, or a consumed k register. -/
def Ctx.checkPoisonAt (c : Ctx) (elems : List (Nat × Nat)) (kreads : List Nat) : Except Raise Unit :=
  let bad := elems.filter (fun x => c.w.regPoison x.1 x.2)
  let badK := kreads.filter (fun k => c.w.kpoison.getLsbD k)
  let rows := bad.map (fun x => (x.1, c.w.rowOf x.1 x.2))
  if !badK.isEmpty then
    .error { c.raiseAll 16 (choose c.key 0 (dedup (badK ++ bad.map (·.2)))) with consumed := rows }
  else if bad.isEmpty then .ok ()
  else .error { c.raiseIn 16 (dedup (bad.map (·.1))) (choose c.key 0 (dedup (bad.map (·.2)))) with consumed := rows }

/-- The fields that must lie in the window: an odd field named as a pair counts alone, since the pair it would begin raises the
format trap (R43, R200). -/
def pairFields (regs pairs : List Nat) : List Nat := (pairs.filter (fun f => f % 2 == 1)).foldl (fun l f => l.erase (f + 1)) regs

/-- The elements of some fields in the active lanes, and of others in the lowest active lane. -/
def Ctx.elemsOf (c : Ctx) (reads first : List Nat) : List (Nat × Nat) :=
  c.act.flatMap (fun l => reads.map (fun f => (l, f))) ++ first.map (fun f => (c.first, f))

/-- The poison check of what an instruction reads in every active lane, in the lowest one, and of k registers (R416). -/
def Ctx.checkPoison (c : Ctx) (reads first kreads : List Nat) : Except Raise Unit :=
  c.checkPoisonAt (c.elemsOf reads first) kreads

/-- The checks 2, 4, 5 and 16 of R392, in order. -/
def Ctx.check (c : Ctx) (o : OpSpec) : Except Raise Unit := do
  c.checkRegs (pairFields o.regs o.pairs)
  c.checkFormat o.pairs o.data o.same
  c.checkSplit o.writes
  c.checkPoisonAt (c.elemsOf o.reads o.first ++ o.laneReads) o.kreads

/-- Whether the wave's launch is in checking mode (R198). -/
def Ctx.checking (c : Ctx) : Bool :=
  match c.launch? with
  | some l => l.checking
  | none => false

/-- The registers of an instruction as region keys: rows, 2048 + k for k registers, 4096 + n for recipe slots (R198,
R240). -/
def Ctx.rowKeys (c : Ctx) (fields : List Nat) : List Nat :=
  dedup (c.act.flatMap (fun l => fields.map (fun f => c.w.rowOf l f)))

/-- The record of a region violation: field and kind of a write after read (R391). -/
def regionInfo (key field : Nat) : Nat :=
  if key ≥ 4096 then (key - 4096) + 2 * 2 ^ 7 else if key ≥ 2048 then (key - 2048) + 2 ^ 7 else field

/-- The region check (R198), last in R392's order, and the wave with what the region has read and written brought up to
date: a register that the region wrote before it read it is free to be written, a recipe slot that it has read through EXPR is
not (R240). Nothing happens outside checking mode. -/
def Ctx.region (c : Ctx) (reads : List Nat) (writes : List (Nat × Nat)) : Except Raise Wave :=
  if !c.checking then .ok c.w
  else
    let wrote : Nat → Bool := fun k => decide (k < 4096) && c.w.regionWrites.contains k
    let rd := dedup (c.w.regionReads ++ reads.filter (fun k => !wrote k))
    match writes.filter (fun x => rd.contains x.1 && !wrote x.1) with
    | b :: t => .error (c.raiseAll 14 (let x := choose c.key b (b :: t); regionInfo x.1 x.2))
    | [] => .ok { c.w with regionReads := rd, regionWrites := dedup (c.w.regionWrites ++ writes.map (·.1)) }

/-- The region check of an instruction's operands. -/
def Ctx.regionOf (c : Ctx) (o : OpSpec) : Except Raise Wave :=
  c.region (o.first.map (fun f => c.w.rowOf c.first f) ++ (o.laneReads ++ o.laneCarry).map (fun x => c.w.rowOf x.1 x.2) ++
      c.rowKeys (o.reads ++ o.carry ++ o.data.map (·.1)) ++ (o.kreads ++ o.kcarry).map (fun k => 2048 + k))
    (o.writes.map (fun x => (x.row, x.field)) ++ o.kwrites.map (fun k => (2048 + k, k)))

/-- Marks a lane's element of a row poisoned or clean (R414). -/
def Row.setPoison (r : Row) (l : Nat) (on : Bool) : Row :=
  { r with poison := if on then r.poison ||| (1#64 <<< l) else r.poison &&& ~~~(1#64 <<< l)
           seen := r.seen &&& ~~~(1#64 <<< l) }

/-- Writes one element, and nothing of the tag; a poisoned one sets the latent bit of sr.errstat, and one that takes a poisoned
one's place may clear it (R420). -/
def Wave.writeElem (w : Wave) (row lane : Nat) (v : Word) (pois : Bool) : Wave :=
  let r := w.row row
  let w1 := { w with rows := tset w.rows row ({ r with elems := tset r.elems lane v }.setPoison lane pois) }
  if pois then { w1 with errstat := w1.errstat ||| 2 }
  else if r.poison.getLsbD lane then w1.settleLatent else w1

/-- Gives a row a tag; where the tag changes, the elements of exited lanes become free values (R63). -/
def State.retag (s : State) (w : Wave) (row : Nat) (t : BitVec 16) : State × Wave :=
  let r := w.row row
  if t = r.tag then (s, w)
  else
    let dead := (List.range w.width).filter (fun l => !w.isLive l)
    ({ s with free := s.free + dead.length },
     { w with rows := tset w.rows row { r with tag := t, elems := (dead.zipIdx).foldl (fun e p =>
         tset e p.1 (Config.freeWord (s.free + p.2))) r.elems } })

/-- The tags that a list of writes gives to a row. -/
def rowTags (ws : List RegW) (r : Nat) : List (BitVec 16) :=
  dedup (ws.filterMap (fun x => if x.row = r then x.tag else none))

/-- The rows to which a list of writes gives a tag, each with its tag; where lanes whose windows differ give one row two tags
(a pair or group, R63, R205), the specification does not say which it takes. -/
def tagWrites (key : Nat) (ws : List RegW) : List (Nat × BitVec 16) :=
  (dedup (ws.filterMap (fun x => x.tag.map (fun _ => x.row)))).map (fun r => (r, choose (key + r) 0 (rowTags ws r)))

/-- Writes the tags of a list of writes (R61, R177: at issue). -/
def State.writeTags (s : State) (w : Wave) (ws : List RegW) : State × Wave :=
  (tagWrites w.pc ws).foldl (fun p x => p.1.retag p.2 x.1 x.2) (s, w)

/-- Writes the elements of a list of writes. -/
def Wave.writeElems (w : Wave) (ws : List RegW) : Wave :=
  ws.foldl (fun w x => w.writeElem x.row x.lane x.val x.pois) w

/-- A list of writes as an operation makes them when it completes. -/
def laterWrites (ws : List RegW) : List LaneWrite :=
  ws.map (fun x => { row := x.row, lane := x.lane, val := x.val, poison := x.pois })

/-- A draw of a lane (R82) from the seed, the global lane id and the counter. -/
def drawWord (seed : DWord) (gid : Nat) (counter : Word) : Word :=
  let x := seed ^^^ BitVec.ofNat 64 (gid * 2 ^ 32 + counter.toNat)
  let z := (x ^^^ (x >>> 30)) * 0xBF58476D1CE4E5B9#64
  let z := (z ^^^ (z >>> 27)) * 0x94D049BB133111EB#64
  let z := z ^^^ (z >>> 31)
  z.extractLsb' 32 32

/-- The lanes of a team of a launch: its waves times the wave width (R34, R81). -/
def State.teamLanes (s : State) (w : Wave) : Nat :=
  match s.team? w.team with
  | some t => t.waves * w.width
  | none => w.width

/-- The linear index of a wave's team (R81). -/
def State.teamIndex (s : State) (w : Wave) : Nat :=
  match s.team? w.team with
  | some t => t.index
  | none => 0

/-- The global lane id (R81): from the team's index for a team wave, from the task's acceptance number for a task. -/
def State.globalLane (s : State) (w : Wave) (l : Nat) : Nat :=
  match w.accepts[l]? with
  | some n => 2 ^ 31 + n % 2 ^ 31
  | none => (s.teamIndex w * s.teamLanes w + w.idx * w.width + l) % 2 ^ 31

/-- n draws of a lane, in order, starting at its counter. -/
def Ctx.draws (c : Ctx) (l n : Nat) : List Word :=
  (List.range n).map (fun i =>
    drawWord c.w.seed (c.s.globalLane c.w l) (tgetD c.w.draw l 0 + BitVec.ofNat 32 i))

/-- The draw counter of a lane moved on by n draws (R83). -/
def Wave.drew (w : Wave) (l n : Nat) : Wave :=
  if n = 0 then w else { w with draw := tset w.draw l (tgetD w.draw l 0 + BitVec.ofNat 32 n) }

end Sys2Proof.Machine
end

