-- ==== Sys2Proof/Machine/Flags.lean ====
section
/-!
DEFINITION. Floating-point flags (R69, R225, R400) and the ways an instruction's results reach the wave: at once for class
P, on completion for class S2.
-/

namespace Sys2Proof.Machine

/-- The OR of some flag sets (R225). -/
def orFlags (l : List FFlags) : FFlags := l.foldl (fun a f => a ||| f) 0

/-- The enabled trap flags of a launch (R69, R110). -/
def State.fpTraps (s : State) (launch : Nat) : BitVec 5 :=
  match s.launch? launch with
  | some l => BitVec.ofNat 5 (l.field 124 120)
  | none => 0

/-- Raises flags in sr.fpflags; a flag enabled in fp_traps leaves a floating-point exception to be taken at the next
boundary (R69, R400). In trap mode flags only accumulate (R394). -/
def Wave.raiseFlags (w : Wave) (enabled : BitVec 5) (fl : FFlags) (lanes : BitVec 64) (offset : Nat) : Wave :=
  let w1 := { w with fpflags := w.fpflags ||| (fl.zeroExtend 32) }
  let hot := fl &&& enabled
  if w.mode || hot == 0 then w1
  else { w1 with fpPending := w1.fpPending ++
    [{ cause := 15, lanes := lanes, info := BitVec.ofNat 64 (hot.toNat + offset * 2 ^ 32), offset := offset,
       atHeader := false, header := 0, run := none, needs := [] }] }

/-- The flags of an instruction of the current run. -/
def Ctx.raiseFlags (c : Ctx) (w : Wave) (fl : FFlags) : Wave :=
  if fl = 0 then w else w.raiseFlags (c.s.fpTraps w.launch) fl (maskOf c.act) c.w.pc

/-- A plain vector instruction: the checks, then every write at once, tags first, and the flags (R199, R200, R50). -/
def Ctx.vector (c : Ctx) (o : OpSpec) (fl : FFlags) (change : Wave → Wave) : Except Raise State := do
  c.check o
  let w ← c.regionOf o
  let (s, w) := c.s.writeTags (change w) o.writes
  pure (c.done s (c.raiseFlags (w.writeElems o.writes) fl))

/-- An instruction of class S2: the checks, the tags at issue, and the results left to complete on flag sf2 (R50, R175,
R177). -/
def Ctx.variable (c : Ctx) (o : OpSpec) (fl : FFlags) (change : Wave → Wave) : Except Raise State := do
  c.check o
  let w ← c.regionOf o
  let (s, w) := c.s.writeTags (change w) o.writes
  let w := c.attach w (.regs (laterWrites o.writes) fl) (some c.sf2) (dedup (o.writes.map (·.row))) false false 2
  pure (c.done s w)

/-- A uniform instruction that writes one k register (R202, R223). -/
def Ctx.uniform (c : Ctx) (d : Nat) (kreads : List Nat) (v : DWord) : Except Raise State := do
  c.checkPoison [] [] kreads
  let w ← c.region (kreads.map (fun k => 2048 + k)) [(2048 + d, d)]
  pure (c.done c.s (w.setK d v))

end Sys2Proof.Machine
end

