-- ==== Sys2Proof/Machine/Access.lean ====
section
/-!
DEFINITION. Accesses of a wave to memory and to scratchpad: addresses, alignment (R268), translation of every active lane
(R249), the version faults (R137, R140), scratchpad bounds (R159, R264) and how far a wave's
ordering operations reach (R339, R345).
-/

namespace Sys2Proof.Machine

/-- A lane's effective address: a register pair plus an offset, modulo 2^64 (R265). -/
def Ctx.addrAt (c : Ctx) (a : Nat) (off : Int) (l : Nat) : Nat := wrap ((c.w.pair l a : Int) + off) 64

/-- The alignment check (R268): each lane's address a multiple of n; the record is the lowest misaligned one. -/
def Ctx.checkAlign (c : Ctx) (n : Nat) (xs : List (Nat × Nat)) : Except Raise Unit :=
  let bad := xs.filter (fun x => x.2 % n != 0)
  if bad.isEmpty then .ok () else .error (c.raiseIn 3 (bad.map (·.1)) (minOf 0 (bad.map (·.2))))

/-- The record of a page fault (R391). -/
def faultInfo (cause va : Nat) : Nat := cause * 2 ^ 56 + va % 2 ^ 52

/-- What the translation of an instruction's accesses gives: where each goes, or the state in which the wave waits for a
replayable fault (R249, R250). -/
inductive Reached where
  | go (xs : List Xlat)
  | wait (s : State)

/-- The translation of one access of the wave (R249, R250). -/
def Ctx.xlate (c : Ctx) (use : Use) (va : Nat) : Except XErr Xlat := c.s.translateFor c.w.cancelled c.dom va use

/-- Posts the replayable faults of some addresses and leaves the wave waiting on the first one's record, and on the others' as
far as a cancel of them goes (R250). -/
def Ctx.waitFault (c : Ctx) (access : BitVec 5) (miss : List (Nat × Nat)) : State :=
  let lid := match c.launch? with
    | some l => l.id
    | none => BitVec.allOnes 64
  let (s, ids) := miss.foldl (fun (p : State × List Nat) m =>
    let (s1, id) := p.1.replayMiss c.dom m.1 m.2 access lid (BitVec.ofNat 32 c.w.lcore)
    (s1, p.2 ++ [id])) (c.s, [])
  let also := (dedup (ids.drop 1)).filter (fun i => some i != ids.head?)
  let more : List Waiter := also.filterMap (fun i => (s.faults.find? (fun r => r.id == i)).map (fun r =>
    { cls := 5, num := c.w.uid, domain := r.domain, page := r.page, record := i, cancelled := false }))
  let t := s.goneOn 5 c.w.uid
  ({ t with waiters := t.waiters ++ more } : State).setWave { c.w with faultWait := ids.head? }

/-- Translates every access of an instruction (lane and address) before any is performed (R249). -/
def Ctx.translateAll (c : Ctx) (use : Use) (xs : List (Nat × Nat)) : Except Raise Reached :=
  let rs := xs.map (fun x => (x, c.xlate use x.2))
  let bad := rs.filterMap (fun r => match r.2 with
    | .error (.cause k) => some (r.1, k)
    | _ => none)
  match bad with
  | b :: t =>
    let low := t.foldl (fun m x => if x.1.2 < m.1.2 then x else m) b
    .error (c.raiseIn 9 (dedup (bad.map (fun x => x.1.1))) (faultInfo low.2 low.1.2))
  | [] =>
    let miss := rs.filterMap (fun r => match r.2 with
      | .error (.miss level) => some (r.1.2, level)
      | _ => none)
    if miss.isEmpty then .ok (.go (rs.filterMap (fun r => r.2.toOption)))
    else .ok (.wait (c.waitFault (accessBits use false) miss))

/-- A tag becomes DOOMED if it is LIVE (R129, R140). -/
def State.doom (s : State) (tag : BitVec 4) : State :=
  if s.tagState tag.toNat = .live then { s with tagStates := tset s.tagStates tag.toNat .doomed } else s

/-- The lines on versioned pages, with their tags, to which stores already issued will write (R140). -/
def State.pendingLines (s : State) : List (Nat × BitVec 4) :=
  (tvals s.waves).flatMap (fun w => if w.tag = 0 || s.dropsTag w.tag then [] else
    w.pend.flatMap (fun p =>
      let accs := match p.kind with
        | .store accs | .atomic _ _ accs _ | .queueOp _ accs | .casc accs _ _ _ => accs
        | _ => []
      (accs.filter (·.ver)).map (fun a => (lineOf a.key, w.tag))))

/-- Versions of some lines are placed one after the other (R140): the state then, and the lines for which no room is found. -/
def State.placeAll (s : State) : List (Nat × BitVec 4) → State × List Nat
  | [] => (s, [])
  | (line, tag) :: t =>
    if (s.version? line tag).isSome then s.placeAll t
    else match s.placeVersion line tag with
      | some (s1, _) => s1.placeAll t
      | none => let (s1, bad) := s.placeAll t; (s1, line :: bad)

/-- The lines, of those an access by a tag would write, that find no room for a new version beside those of the stores already
issued (R140). A DOOMED branch creates no more versions. -/
def State.unplaced (s : State) (tag : BitVec 4) (keys : List Nat) : List Nat :=
  let pending := s.pendingLines
  let need := dedup ((keys.map lineOf).filter (fun l => (s.version? l tag).isNone && !pending.contains (l, tag)))
  if s.tagState tag.toNat = .doomed then need
  else if s.noRoom.isEmpty then []
  else ((s.placeAll pending).1.placeAll (need.map (fun l => (l, tag)))).2

/-- The version faults of a write (R137, R140), for each lane's address and translation: a conflict for an untagged access
to a versioned page of a domain with an open set; a capacity fault, which dooms the branch in the same step. -/
def Ctx.checkVersions (c : Ctx) (xs : List ((Nat × Nat) × Xlat)) : Except Raise (Option State) :=
  let ver := xs.filter (fun x => x.2.ver)
  if c.w.tag = 0 then
    if c.s.hasOpenSet c.dom && !ver.isEmpty then
      .error (c.raiseIn 10 (dedup (ver.map (fun x => x.1.1))) (minOf 0 (ver.map (fun x => x.1.2)) % 2 ^ 52))
    else .ok none
  else
    let bad := c.s.unplaced c.w.tag (ver.map (fun x => x.2.key))
    if bad.isEmpty then .ok none
    else
      let hit := ver.filter (fun x => bad.contains (lineOf x.2.key))
      let r := c.raiseIn 11 (dedup (hit.map (fun x => x.1.1))) (minOf 0 (hit.map (fun x => x.1.2)) % 2 ^ 52)
      .ok (some ({ c with s := c.s.doom c.w.tag }.trap r))

/-- The span of scratchpad that an offset of a team reaches (R159, R264): its team, the offset within that team and the bytes
left there; none out of bounds. -/
def State.teamSpan (s : State) (t : Team) (off : Nat) : Option (Nat × Nat × Nat) :=
  if off < 0x1000000 then
    if off < t.granted then some (t.uid, off, t.granted - off) else none
  else if off ≥ 0x1100000 then none
  else
    let inCluster := match s.launch? t.launch with
      | some l => l.field 118 116 != 0
      | none => false
    let slot := (off - 0x1000000) / 0x40000
    let inner := (off - 0x1000000) % 0x40000
    match (tvals s.teams).find? (fun u => u.grp == t.grp && u.rank == slot && !u.retired) with
    | some u => if inCluster && decide (inner < u.granted) then some (u.uid, inner, u.granted - inner) else none
    | none => none

/-- The span of scratchpad that an offset of a wave reaches (R159, R264). -/
def State.scratchSpan (s : State) (w : Wave) (off : Nat) : Option (Nat × Nat × Nat) :=
  match s.team? w.team with
  | none => none
  | some t => s.teamSpan t off

/-- The first out-of-bounds offset of n bytes of scratchpad (R264); the fuel bounds the window slots crossed. -/
def State.scratchBad (s : State) (w : Wave) : Nat → Nat → Nat → Option Nat
  | 0, off, n => if n = 0 then none else some off
  | f + 1, off, n =>
    if n = 0 then none
    else match s.scratchSpan w off with
      | none => some off
      | some (_, _, left) => if n ≤ left then none else s.scratchBad w f (off + left) (n - left)

/-- The scratchpad-bounds record (R272). -/
def scratchInfo (reason off : Nat) : Nat := reason * 2 ^ 29 + off % 2 ^ 25

/-- The scratchpad-bounds check of some ranges: lane, offset and bytes (R264, R272). -/
def Ctx.checkScratch (c : Ctx) (xs : List (Nat × Nat × Nat)) : Except Raise Unit :=
  let bad := xs.filterMap (fun x => (c.s.scratchBad c.w 8 x.2.1 x.2.2).map (fun o => (x.1, o)))
  if bad.isEmpty then .ok ()
  else .error (c.raiseIn 8 (dedup (bad.map (·.1))) (scratchInfo 0 (minOf 0 (bad.map (·.2)))))

/-- The scratchpad byte at an offset, as a wave names it. -/
def State.scratchByte (s : State) (w : Wave) (off : Nat) : Byte :=
  match s.scratchSpan w off with
  | none => 0
  | some (t, o, _) => match s.team? t with
    | some u => tgetD u.scratch o 0
    | none => 0

/-- n bytes of scratchpad. -/
def State.scratchBytes (s : State) (w : Wave) (off n : Nat) : List Byte :=
  (List.range n).map (fun i => s.scratchByte w (off + i))

/-- Whether a byte's scratchpad word is poisoned (R414). -/
def State.scratchPoisoned (s : State) (w : Wave) (off : Nat) : Bool :=
  match s.scratchSpan w off with
  | none => false
  | some (t, o, _) => match s.team? t with
    | some u => u.scratchPoison.contains (o / 4)
    | none => false

/-- Writes one byte of a team's scratchpad, listing none that is 0. -/
def Team.putByte (t : Team) (o : Nat) (b : Byte) : Team :=
  { t with scratch := if b = 0 then tdel t.scratch o else tset t.scratch o b }

/-- Writes bytes to scratchpad, each with whether it is poisoned: the poison of a word is set by a poisoned byte and cleared
when the whole word is written clean (R414). -/
def State.scratchWrite (s : State) (w : Wave) (off : Nat) (bytes : List (Byte × Bool)) : State :=
  let n := bytes.length
  let s1 := (bytes.zipIdx).foldl (fun (s : State) b =>
    match s.scratchSpan w (off + b.2) with
    | none => s
    | some (t, o, _) => s.modTeam t (fun u => u.putByte o b.1.1)) s
  (List.range (if n = 0 then 0 else (off + n - 1) / 4 - off / 4 + 1)).foldl (fun (s : State) i =>
    let wd := off / 4 + i
    let mine := (bytes.zipIdx).filter (fun b => (off + b.2) / 4 == wd)
    match s.scratchSpan w (4 * wd) with
    | none => s
    | some (t, o, _) =>
      if mine.any (fun b => b.1.2) then s.modTeam t (fun u => { u with scratchPoison := setPoison u.scratchPoison (o / 4) true })
      else if mine.length = 4 then
        s.modTeam t (fun u => { u with scratchPoison := setPoison u.scratchPoison (o / 4) false })
      else s) s1

/-- Whether an operation reads memory or scratchpad. -/
def PendKind.reads : PendKind → Bool
  | .load _ | .loadScratch _ | .loadK _ _ _ | .atomic _ _ _ _ | .queueOp _ _ | .casc _ _ _ _ => true
  | _ => false

/-- Whether an operation writes memory. -/
def PendKind.writes : PendKind → Bool
  | .store _ | .atomic _ _ _ _ | .queueOp _ _ | .casc _ _ _ _ => true
  | _ => false

/-- Whether a pending operation is a fence. -/
def PendKind.isFence : PendKind → Bool
  | .fence _ => true
  | _ => false

/-- Whether an operation is an access to memory or scratchpad. -/
def PendKind.accesses (k : PendKind) : Bool := k.reads || k.writes

/-- How far an ordering operation among an earlier and a later operation of a wave keeps their order (R339, R345): 0 not at all,
1 within the wave's team, 2 within its cluster group, 3 for the device, 4 for the system. A fence's kind is 0 acquire, 1
release, 2 both, 3 SC. -/
def kindOrder (q p : Pend) : Nat :=
  match q.kind, p.kind with
  | .fence _, .fence _ => Nat.min q.scope p.scope + 1
  | .fence k, pk => if (if k = 1 then pk.writes else pk.accesses) then q.scope + 1 else 0
  | qk, .fence k => if (if k = 0 then qk.reads else qk.accesses) then p.scope + 1 else 0
  | qk, pk =>
    if qk.accesses && pk.accesses then
      Nat.max (if q.acquire then q.scope + 1 else 0) (if p.release then p.scope + 1 else 0)
    else 0

/-- The operations that a later one of the wave goes ahead of although an ordering operation of team or cluster scope stands
between them, with that scope as 1 or 2. -/
def Wave.owed (w : Wave) (p : Pend) : List (Nat × Nat) :=
  (w.pend.map (fun q => (q.id, if q.id < p.id then kindOrder q p else 0))).filter (fun d => d.2 == 1 || d.2 == 2)

/-- Every access and fence that a wave has not performed, as what an ordering operation of a scope goes ahead of. -/
def Wave.oweAll (w : Wave) (k : Nat) : Wave :=
  { w with debts := w.debts ++ (w.pend.filter (fun p => p.kind.accesses || p.kind.isFence)).map (fun p => (p.id, k)) }

/-- Whether one wave belongs to another's instance of a scope: 1 its team, 2 its cluster group (R339). -/
def State.shares (s : State) (k : Nat) (v w : Wave) : Bool :=
  v.team == w.team || (k == 2 && (s.team? v.team).map (·.grp) == (s.team? w.team).map (·.grp))

/-- Whether a wave and its engines make no access now: an ordering operation of another wave, within an instance that this wave
belongs to, has gone ahead of accesses that are not performed yet, so that no member may see that (R339, R340, R345). Waves
and agents outside the instance go on, and they may see it. -/
def State.isBarred (s : State) (w : Wave) : Bool :=
  (tvals s.waves).any (fun v => v.uid != w.uid &&
    v.debts.any (fun d => v.pend.any (fun p => p.id == d.1) && s.shares d.2 v w))

/-- An operation of a wave is performed, ahead of what it may go ahead of. -/
def Wave.owe (w : Wave) (p : Pend) : Wave := { w with debts := w.debts ++ w.owed p }

/-- Takes an operation off the wave. -/
def Wave.unpend (w : Wave) (id : Nat) : Wave :=
  { w with
    pend := w.pend.filter (fun p => p.id != id)
    debts := (w.debts ++ (w.pend.filter (fun p => p.id == id)).flatMap w.owed).filter (fun d => d.1 != id) }

/-- Writes the results of an operation to the elements of lanes that are still live (R63, R177, R214). -/
def Wave.deliver (w : Wave) (ws : List LaneWrite) : Wave :=
  ws.foldl (fun w x => if w.isLive x.lane then w.writeElem x.row x.lane x.val x.poison else w) w

/-- Marks that an access of the wave returned or wrote poison (R420). -/
def Wave.sawPoison (w : Wave) (b : Bool) : Wave := if b then { w with errstat := w.errstat ||| 8 } else w

/-- The writer that the order-hazard counters name (R430): the team index, or the acceptance number of a task wave. -/
def State.writerOf (s : State) (w : Wave) : Word :=
  match w.accepts with
  | n :: _ => BitVec.ofNat 32 (2 ^ 31 + n % 2 ^ 31)
  | [] => BitVec.ofNat 32 (s.teamIndex w)

/-- One write to a line of a det page (R430). -/
def Launch.hazardWrite (l : Launch) (line vaddr : Nat) (tag : BitVec 4) (x : Word) : Launch :=
  match l.hazards.find? (fun h => h.line == line && h.tag == tag && h.epoch == l.epoch) with
  | none => { l with hazards := l.hazards ++ [{ line := line, vaddr := vaddr, tag := tag, epoch := l.epoch, first := x,
                                                second := 0, count := 1 }] }
  | some h =>
    if x != h.first && (h.count == 1 || x != h.second) then
      { l with hazards := l.hazards.map (fun g => if g = h then
          { g with second := if g.count = 1 then x else g.second, count := Nat.min (g.count + 1) 3 } else g) }
    else l

/-- Counts a write of a launch in deterministic mode (R430). -/
def State.hazard (s : State) (launch : Nat) (det : Bool) (key va : Nat) (tag : BitVec 4) (writer : Word) : State :=
  match s.launch? launch with
  | none => s
  | some l =>
    if det && l.field 119 119 == 1 then
      s.modLaunch launch (fun l => l.hazardWrite (lineOf key) (va / 128 * 128) tag writer)
    else s

/-- A store of a wave's operation to memory as its tag's context makes it, counted where the page is det. -/
def State.waveStore (s : State) (w : Wave) (a : LaneAcc) (bytes : List Byte) (pois : Bool) : State :=
  if a.ver && s.dropsTag w.tag then s
  else (s.writeAs w.tag a.ver a.key bytes pois).hazard w.launch a.det a.key a.addr (if a.ver then w.tag else 0)
    (s.writerOf w)

end Sys2Proof.Machine
end

