-- ==== Sys2Proof/Machine/Rings.lean ====
section
/-!
DEFINITION. Scratchpad rings (R282 to R286, R312). Slot states are 0 FREE, 1 PRODUCING, 2 PUBLISHED, 3 FILLED, 4 CONSUMING,
5 RELEASED, as in R404.
-/

namespace Sys2Proof.Machine

/-- A ring not initialised (R282). -/
def Ring.empty : Ring :=
  { init := false, base := 0, sizeLog := 0, countLog := 0, acq := 0, pub := 0, get := 0, rel := 0, slots := [], held := [],
    waiters := [] }

/-- A ring of a team. -/
def State.ring (s : State) (team n : Nat) : Ring :=
  match s.team? team with
  | some t => tgetD t.rings n Ring.empty
  | none => Ring.empty

/-- Puts a ring back. -/
def State.setRing (s : State) (team n : Nat) (r : Ring) : State :=
  s.modTeam team (fun t => { t with rings := tset t.rings n r })

/-- The slot size in bytes. -/
def Ring.size (r : Ring) : Nat := 2 ^ r.sizeLog

/-- The slot count. -/
def Ring.count (r : Ring) : Nat := 2 ^ r.countLog

/-- The state of the slot at an index. -/
def Ring.at (r : Ring) (i : Nat) : Nat := tgetD r.slots (i % r.count) 0

/-- Gives the slot at an index a state. -/
def Ring.put (r : Ring) (i st : Nat) : Ring := { r with slots := tset r.slots (i % r.count) st }

/-- The scratchpad offset of the slot at an index. -/
def Ring.offset (r : Ring) (i : Nat) : Nat := r.base + i % r.count * r.size

/-- PUBLISHED slots at the publish index become FILLED in order (R283). -/
def Ring.fill : Nat → Ring → Ring
  | 0, r => r
  | f + 1, r => if r.at r.pub.toNat = 2 then Ring.fill f { r.put r.pub.toNat 3 with pub := r.pub + 1 } else r

/-- RELEASED slots at the release index become FREE in order (R283). -/
def Ring.drain : Nat → Ring → Ring
  | 0, r => r
  | f + 1, r => if r.at r.rel.toNat = 5 then Ring.drain f { r.put r.rel.toNat 0 with rel := r.rel + 1 } else r

/-- The moves that wait on order are made at once (R283). -/
def Ring.settle (r : Ring) : Ring := Ring.drain r.count (Ring.fill r.count r)

/-- The slot at the acquire index is taken (R283). -/
def Ring.take (r : Ring) : Ring := { r.put r.acq.toNat 1 with acq := r.acq + 1 }

/-- The slot at the get index is taken (R283). -/
def Ring.consume (r : Ring) : Ring := { r.put r.get.toNat 4 with get := r.get + 1 }

/-- Whether a waiter wants a free slot. -/
def RingWaiter.wantsFree : RingWaiter → Bool
  | .racq _ => true
  | .copy _ => true
  | .rget _ => false

/-- The destination and lanes of a wave that waits in RACQ, or in RGET, on a ring. -/
def Wait.ring? (n : Nat) (get : Bool) : Wait → Option (Nat × BitVec 64)
  | .racq m d lanes => if m = n ∧ get = false then some (d, lanes) else Option.none
  | .rget m d lanes => if m = n ∧ get = true then some (d, lanes) else Option.none
  | _ => Option.none

/-- Gives a waiting wave the offset it waited for (R284). -/
def Wave.ringServed (w : Wave) (n : Nat) (get : Bool) (off : Nat) : Wave :=
  w.endWaitFor (Wait.ring? n get) (fun w x => (lanesOf x.2).foldl (fun w l =>
    if w.isLive l then w.writeElem (w.rowOf l x.1) l (BitVec.ofNat 32 off) false else w) w)

/-- Serves the waves that wait on a ring, in order (R284): the first that wants a free slot, unless a CPYRING stands before
it, and the first RGET. -/
def State.serveRing (team n : Nat) : Nat → State → State
  | 0, s => s
  | f + 1, s =>
    let r := s.ring team n
    match r.waiters.find? RingWaiter.wantsFree, r.waiters.find? (fun x => !x.wantsFree) with
    | some (.racq w), g =>
      if r.at r.acq.toNat = 0 then
        State.serveRing team n f ((s.setRing team n { r.take with waiters := r.waiters.erase (.racq w) }).modWave w
          (fun x => x.ringServed n false (r.offset r.acq.toNat)))
      else match g with
        | some (.rget v) =>
          if r.at r.get.toNat = 3 then
            State.serveRing team n f ((s.setRing team n { r.consume with waiters := r.waiters.erase (.rget v) }).modWave v
              (fun x => x.ringServed n true (r.offset r.get.toNat)))
          else s
        | _ => s
    | _, some (.rget v) =>
      if r.at r.get.toNat = 3 then
        State.serveRing team n f ((s.setRing team n { r.consume with waiters := r.waiters.erase (.rget v) }).modWave v
          (fun x => x.ringServed n true (r.offset r.get.toNat)))
      else s
    | _, _ => s

/-- Puts a ring's new state back, settles its slots and serves its waiters. -/
def State.updateRing (s : State) (team n : Nat) (r : Ring) : State :=
  State.serveRing team n 200 (s.setRing team n r.settle)

/-- A scratchpad-bounds raise with a reason for which the rule names no offset (R272): the offset is an open value. -/
def Ctx.boundsRaise (c : Ctx) (reason : Nat) (off : Option Nat) : Raise :=
  c.raiseAll 8 (scratchInfo reason (off.getD (Config.pick c.key)))

/-- The check that a ring is initialised (R284, R310). -/
def Ctx.ringReady (c : Ctx) (n : Nat) : Except Raise Ring :=
  let r := c.s.ring c.w.team n
  if r.init then .ok r else .error (c.boundsRaise 1 none)

/-- Whether an OPEN or CLOSING stream uses a ring of a team (R312). -/
def State.ringStreamed (s : State) (team n : Nat) : Bool :=
  s.grps.any (fun g => g.2.streams.any (fun x => x.2.st != 0 && x.2.team == team && x.2.ring == n))

/-- Whether a CPYRING into a ring is outstanding. -/
def State.ringCopying (s : State) (team n : Nat) : Bool :=
  (tvals s.bulk).any (fun b => b.team == team && (match b.kind with
    | .ring _ r _ _ _ => r == n
    | _ => false))

/-- The wave holds its run slot in STALL, for a bulk operation of a class (R279; 2: for a ring, R282); the first time, it takes
its place in the order of R279. -/
def Ctx.stalled (c : Ctx) (cls : Nat) : State :=
  if c.w.stall.isSome then c.s
  else
    let (id, s) := c.s.newId
    s.setWave { c.w with stall := some (id, cls) }

/-- RINIT (R282): holds its run slot while a CPYRING into the ring is outstanding. -/
def execRinit (a r : BitVec 7) (s : State) : Host.Outcome State Fault Refusal :=
  s.issue (fun c =>
    let n := r.toNat
    let fs := [a.toNat, a.toNat + 1]
    let base := (c.w.reg c.first a.toNat).toNat
    let g := (c.w.reg c.first (a.toNat + 1)).toNat
    let sl := bits g 4 0
    let cl := bits g 10 8
    do
      c.checkRegs fs
      c.checkPoison [] fs []
      if c.s.ringStreamed c.w.team n then throw (c.boundsRaise 2 none)
      if sl < 4 ∨ sl > 16 ∨ cl < 1 ∨ cl > 6 ∨ bits g 7 5 ≠ 0 ∨ bits g 31 11 ≠ 0 ∨ base % 2 ^ sl ≠ 0 then
        throw (c.boundsRaise 3 none)
      c.checkScratch (c.act.map (fun l => (l, base, 2 ^ (sl + cl))))
      let w ← c.region (fs.map (fun f => c.w.rowOf c.first f)) []
      if c.s.ringCopying c.w.team n then pure (c.stalled 2)
      else
        let old := c.s.ring c.w.team n
        let ring : Ring :=
          { Ring.empty with init := true, base := base, sizeLog := sl, countLog := cl, waiters := old.waiters }
        pure ((c.doneEffect c.s { w with stall := none }).updateRing c.w.team n ring))

/-- RACQ and RGET: the wave joins the ring's waiters and is served at once where it can be (R284). -/
def Ctx.ringWait (c : Ctx) (n : Nat) (d : Nat) (get : Bool) : Except Raise State := do
  let o : OpSpec := { regs := [d], writes := c.act.map (fun l => c.w.put l d 0 (mkTag 3 0)) }
  c.check o
  let r ← c.ringReady n
  if get && c.s.ringStreamed c.w.team n then throw (c.boundsRaise 2 none)
  let w ← c.regionOf o
  let (s, w) := c.s.writeTags w o.writes
  let lanes := maskOf c.act
  let w := { w with wait := if get then .rget n d lanes else .racq n d lanes }
  let me : RingWaiter := if get then .rget w.uid else .racq w.uid
  let s := (c.doneEffect s w).updateRing c.w.team n { r with waiters := r.waiters ++ [me] }
  let blocked := (s.ring c.w.team n).waiters.contains me
  pure (if blocked && !(get && s.ringCopying c.w.team n) then s.yieldTurn c.w else s)

/-- RACQ (R284). -/
def execRacq (d r : BitVec 7) (s : State) : Host.Outcome State Fault Refusal :=
  s.issue (fun c => c.ringWait r.toNat d.toNat false)

/-- RGET (R284). -/
def execRget (d r : BitVec 7) (s : State) : Host.Outcome State Fault Refusal :=
  s.issue (fun c => c.ringWait r.toNat d.toNat true)

/-- The slot that an offset names, where it is one of the ring's (R284). -/
def Ring.slotOf? (r : Ring) (off : Nat) : Option Nat :=
  if off < r.base ∨ (off - r.base) % r.size ≠ 0 ∨ (off - r.base) / r.size ≥ r.count then none
  else some ((off - r.base) / r.size)

/-- RPUB and RREL: the slot named must be in a state, and not held by a CPYRING, and takes another (R284). -/
def Ctx.ringMove (c : Ctx) (n a needed next : Nat) : Except Raise State := do
  c.checkRegs [a]
  c.checkPoison [] [a] []
  let r ← c.ringReady n
  let off := (c.w.reg c.first a).toNat
  if needed = 4 && c.s.ringStreamed c.w.team n then throw (c.boundsRaise 2 (some off))
  match r.slotOf? off with
  | none => throw (c.boundsRaise 2 (some off))
  | some i =>
    if r.at i ≠ needed ∨ (needed = 1 ∧ r.held.contains i = true) then throw (c.boundsRaise 2 (some off))
    let w ← c.region [c.w.rowOf c.first a] []
    pure ((c.doneEffect c.s (w.oweAll 1)).updateRing c.w.team n (r.put i next))

/-- RPUB (R284). -/
def execRpub (a r : BitVec 7) (s : State) : Host.Outcome State Fault Refusal :=
  s.issue (fun c => c.ringMove r.toNat a.toNat 1 2)

/-- RREL (R284). -/
def execRrel (a r : BitVec 7) (s : State) : Host.Outcome State Fault Refusal :=
  s.issue (fun c => c.ringMove r.toNat a.toNat 4 5)

/-- The status word of RSTAT (R286). -/
def Ring.status (r : Ring) : Word :=
  let cnt : Nat → Nat := fun k => ((List.range r.count).filter (fun i => r.at i == k)).length
  if r.init then BitVec.ofNat 32 (cnt 3 + cnt 0 * 2 ^ 8 + r.count * 2 ^ 16 + 2 ^ 23) else 0

/-- RSTAT (R286). -/
def execRstat (d r : BitVec 7) (s : State) : Host.Outcome State Fault Refusal :=
  s.issue (fun c =>
    let v := (c.s.ring c.w.team r.toNat).status
    c.vector { regs := [d.toNat], writes := c.act.map (fun l => c.w.put l d.toNat v (mkTag 3 0)) } 0 id)

end Sys2Proof.Machine
end

