-- ==== Sys2Proof/Machine/Engine.lean ====
section
/-!
DEFINITION. What the device's engines read and write for a wave: ranges cut at sectors, translated piece by piece (R278), and the
bytes of an operation of which some have been taken already (R277, R350).
-/

namespace Sys2Proof.Machine

/-- The pieces of n bytes from an address on that lie within one 32-byte sector each: offset and length. -/
def piecesFrom : Nat → Nat → Nat → Nat → List (Nat × Nat)
  | 0, _, _, _ => []
  | f + 1, va, off, n =>
    if n = 0 then []
    else
      let k := Nat.min n (32 - (va + off) % 32)
      (off, k) :: piecesFrom f va (off + k) (n - k)

/-- The sector pieces of n bytes at an address. -/
def pieces (va n : Nat) : List (Nat × Nat) := piecesFrom (n / 32 + 2) va 0 n

/-- Where an engine's access stops: the offset of its first byte concerned, its address, and the error (10 and 11 are a
version conflict and version capacity, R278). -/
structure Stop where
  off : Nat
  va : Nat
  err : XErr
  deriving DecidableEq, Repr

/-- The context of an engine's accesses: the domain, branch tag, launch and hazard writer it acts with, the pages whose
faults were cancelled, and whether its versioned writes are dropped (R141). -/
structure Eng where
  dom : Nat
  tag : BitVec 4
  launch : Nat
  writer : Word
  cancelled : List Nat
  drop : Bool

/-- The translation of an engine's access; a cancelled page faults with cause 1 (R250). -/
def State.engXlate (s : State) (e : Eng) (use : Use) (va : Nat) : Except XErr Xlat := s.translateFor e.cancelled e.dom va use

/-- The parts of n bytes from an address on that lie in one 4 KiB page each: address and length. -/
def pageParts : Nat → Nat → Nat → List (Nat × Nat)
  | 0, _, _ => []
  | f + 1, va, n =>
    if n = 0 then []
    else
      let k := Nat.min n (4096 - va % 4096)
      (va, k) :: pageParts f (va + k) (n - k)

/-- The places of n bytes of memory as an engine reaches them: their virtual addresses, and the storage locations of the pages
that translate. -/
def State.memPlaces (s : State) (e : Eng) (va n : Nat) : List (Nat × Nat × Nat) :=
  (1, va, n) :: (pageParts (n / 4096 + 2) va n).filterMap (fun p =>
    (s.engXlate e .read p.1).toOption.map (fun x => (0, x.key, p.2)))

/-- What an engine has read at some places: the lines that it reached are converted (R149), and its failed transfers of them have
come (R411). -/
def State.engTouch (s : State) (places : List (Nat × Nat × Nat)) : State :=
  (s.convertAt places).transferred engineTransfer ((places.filter (fun p => p.1 == 0)).map (·.2))

/-- Reads the pieces of a range, up to the first that does not translate: the bytes with their poison. -/
def State.readPieces (s : State) (e : Eng) (va : Nat) : List (Nat × Nat) → List (Byte × Bool) × Option Stop
  | [] => ([], none)
  | (off, k) :: t =>
    match s.engXlate e .read (va + off) with
    | .error x => ([], some { off := off, va := va + off, err := x })
    | .ok x =>
      let p := s.anyPoison e.tag x.ver x.key k || s.badCopy engineTransfer x.key k
      let here := (s.readBytes e.tag x.ver x.key k).map (fun b => (b, p))
      let (rest, st) := s.readPieces e va t
      (here ++ rest, st)

/-- Reads n bytes for an engine. -/
def State.engRead (s : State) (e : Eng) (va n : Nat) : List (Byte × Bool) × Option Stop := s.readPieces e va (pieces va n)

/-- Writes one piece for an engine (R135 to R137, R140, R278, R430). -/
def State.writePiece (s : State) (e : Eng) (va : Nat) (bytes : List (Byte × Bool)) : Except (State × XErr) State :=
  match s.engXlate e .write va with
  | .error x => .error (s, x)
  | .ok x =>
    if x.ver && e.drop then .ok s
    else if x.ver && e.tag == 0 && s.hasOpenSet e.dom then .error (s, .cause 10)
    else if x.ver && e.tag != 0 && !(s.unplaced e.tag [x.key]).isEmpty then .error (s.doom e.tag, .cause 11)
    else .ok ((s.writeAs e.tag x.ver x.key (bytes.map (·.1)) (bytes.any (·.2))).hazard e.launch x.det x.key va
      (if x.ver then e.tag else 0) e.writer)

/-- Writes the pieces of a range in order, up to the first that stops. -/
def State.writePieces (s : State) (e : Eng) (va : Nat) (bytes : List (Byte × Bool)) :
    List (Nat × Nat) → State × Option Stop
  | [] => (s, none)
  | (off, k) :: t =>
    match s.writePiece e (va + off) ((bytes.drop off).take k) with
    | .error (s1, x) => (s1, some { off := off, va := va + off, err := x })
    | .ok s1 => State.writePieces s1 e va bytes t

/-- Writes bytes for an engine. -/
def State.engWrite (s : State) (e : Eng) (va : Nat) (bytes : List (Byte × Bool)) : State × Option Stop :=
  s.writePieces e va bytes (pieces va bytes.length)

/-- The scratchpad bytes of a range with their poison. -/
def State.scratchRange (s : State) (w : Wave) (off n : Nat) : List (Byte × Bool) :=
  (List.range n).map (fun i => (s.scratchByte w (off + i), s.scratchPoisoned w (off + i)))

/-- The parts of some ranges, each from its first byte to one past its last, that lie between two places. -/
def meetRanges (l : List (Nat × Nat)) (lo hi : Nat) : List (Nat × Nat) :=
  (l.map (fun r => (Nat.max r.1 lo, Nat.min r.2 hi))).filter (fun r => decide (r.1 < r.2))

/-- The parts of some ranges outside two places. -/
def cutRanges (l : List (Nat × Nat)) (lo hi : Nat) : List (Nat × Nat) :=
  (l.flatMap (fun r => [(r.1, Nat.min r.2 lo), (Nat.max r.1 hi, r.2)])).filter (fun r => decide (r.1 < r.2))

/-- A range, where it is not empty. -/
def rangeOf (lo n : Nat) : List (Nat × Nat) := if n = 0 then [] else [(lo, lo + n)]

/-- Nothing of n bytes has been taken. -/
def Taken.ofLength (n : Nat) : Taken := { left := rangeOf 0 n, got := [] }

/-- The byte at a place, with its poison, where it has been taken. -/
def Taken.at (t : Taken) (i : Nat) : Option (Byte × Bool) :=
  match t.got.find? (fun g => decide (g.1 ≤ i) && decide (i < g.1 + g.2.length)) with
  | some g => g.2[i - g.1]?
  | none => none

/-- Bytes from a place on are taken. -/
def Taken.add (t : Taken) (lo : Nat) (bs : List (Byte × Bool)) : Taken :=
  { left := cutRanges t.left lo (lo + bs.length), got := (lo, bs) :: t.got }

/-- Where some bytes of an operation come from: the place of the first among its bytes, their number, whether they lie in
scratchpad, and the address or offset there. -/
structure Source where
  off : Nat
  len : Nat
  scratch : Bool
  addr : Nat
  deriving DecidableEq, Repr

/-- The bytes of a source from a place on as they stand now; what stops them names the place among the operation's bytes. -/
def State.readSource (s : State) (w : Wave) (e : Eng) (x : Source) (off n : Nat) : List (Byte × Bool) × Option Stop :=
  let at_ := x.addr + (off - x.off)
  if x.scratch then (s.scratchRange w at_ n, none)
  else
    let (bs, st) := s.engRead e at_ n
    (bs, st.map (fun y => { y with off := off + y.off }))

/-- The bytes of a source from a place on: those that have been taken, and the others as they stand now, up to the first of
these that does not translate. -/
def State.fetch (s : State) (w : Wave) (e : Eng) (t : Taken) (x : Source) (off n : Nat) : List (Byte × Bool) × Option Stop :=
  let old := (List.range n).map (fun i => t.at (off + i))
  if old.all (·.isSome) then (old.filterMap id, none)
  else
    let (bs, st) := s.readSource w e x off n
    ((old.zip bs).map (fun p => p.1.getD p.2), st)

/-- The bytes of an operation between two places that are not taken yet, as they stand now, range by range, and what stops
them. -/
def State.takeRanges (s : State) (w : Wave) (e : Eng) (xs : List Source) : List (Nat × Nat) → Taken → Taken × Option Stop
  | [], t => (t, none)
  | (lo, hi) :: rest, t =>
    match xs.find? (fun x => decide (x.off ≤ lo) && decide (lo < x.off + x.len)) with
    | none => s.takeRanges w e xs rest t
    | some x =>
      match s.readSource w e x lo (Nat.min hi (x.off + x.len) - lo) with
      | (bs, none) => s.takeRanges w e xs rest (t.add lo bs)
      | (bs, some st) => (t.add lo bs, some st)

/-- The parts of some ranges in each of an operation's sources. -/
def splitRanges (xs : List Source) (l : List (Nat × Nat)) : List (Nat × Nat) :=
  xs.flatMap (fun x => meetRanges l x.off (x.off + x.len))

end Sys2Proof.Machine
end

