-- ==== Sys2Proof/Machine/Traverse.lean ====
section
/-!
DEFINITION. What a ray meets (R320 to R328). Geometry is exact: coordinates are dyadic numbers, a hit's t, u and v are
fractions of integers, and only the values returned are rounded, within the bound of R324.
-/

namespace Sys2Proof.Machine

/-- A vector of integers, in units of a power of two. -/
structure V3 where
  x : Int
  y : Int
  z : Int
  deriving DecidableEq, Repr

/-- a − b. -/
def V3.sub (a b : V3) : V3 := { x := a.x - b.x, y := a.y - b.y, z := a.z - b.z }
/-- a + b. -/
def V3.add (a b : V3) : V3 := { x := a.x + b.x, y := a.y + b.y, z := a.z + b.z }
/-- k × a. -/
def V3.mul (k : Int) (a : V3) : V3 := { x := k * a.x, y := k * a.y, z := k * a.z }
/-- The dot product. -/
def V3.dot (a b : V3) : Int := a.x * b.x + a.y * b.y + a.z * b.z
/-- The cross product. -/
def V3.cross (a b : V3) : V3 :=
  { x := a.y * b.z - a.z * b.y, y := a.z * b.x - a.x * b.z, z := a.x * b.y - a.y * b.x }
/-- Whether every component is 0. -/
def V3.isZero (a : V3) : Bool := a.x == 0 && a.y == 0 && a.z == 0

/-- A finite F32 as mantissa and exponent; none for an infinity or a NaN. -/
def dyadic (w : Word) : Option (Int × Int) :=
  match f32.decode w.toNat with
  | .fin n m e => some (signedMant n m, e)
  | _ => none

/-- Dyadic numbers in units of one power of two: the lowest exponent among them. -/
def commonUnit (xs : List (Int × Int)) : List Int × Int :=
  let e := xs.foldl (fun m x => min m x.2) 0
  (xs.map (fun x => x.1 * ((2 ^ (x.2 - e).toNat : Nat) : Int)), e)

/-- The vectors that a list of integers spells. -/
def vectors : List Int → List V3
  | x :: y :: z :: t => { x := x, y := y, z := z } :: vectors t
  | _ => []

/-- An extended parameter of a ray: −∞ (−1), num ÷ den × 2^exp with den > 0 (0), or +∞ (1). -/
structure Param where
  side : Int
  num : Int
  den : Nat
  exp : Int
  deriving DecidableEq, Repr

/-- A quotient as a parameter; the divisor is not 0. -/
def Param.quot (n d e : Int) : Param := { side := 0, num := if d < 0 then -n else n, den := d.natAbs, exp := e }

/-- An F32 value that is not a NaN as a parameter. -/
def Param.ofWord (w : Word) : Param :=
  match f32.decode w.toNat with
  | .inf n => { side := if n then -1 else 1, num := 0, den := 1, exp := 0 }
  | .fin n m e => { side := 0, num := signedMant n m, den := 1, exp := e }
  | .nan _ => { side := 0, num := 0, den := 1, exp := 0 }

/-- a ≤ b. -/
def Param.le (a b : Param) : Bool :=
  if a.side != 0 || b.side != 0 then decide (a.side ≤ b.side)
  else decide (cmpExact (a.num * b.den) a.exp (b.num * a.den) b.exp ≤ 0)

/-- Whether an interval given by its lower and upper bounds holds a point. -/
def boundsMeet (lows highs : List Param) : Bool := lows.all (fun l => highs.all (fun h => l.le h))

/-- A parameter rounded to the nearest F32. -/
def Param.toF32 (p : Param) : Nat :=
  let k := bitLen p.den + 64
  let q := p.num.natAbs * 2 ^ k / p.den
  let sticky := if p.num.natAbs * 2 ^ k % p.den = 0 then 0 else 1
  (f32.round .rne false (decide (p.num < 0)) (2 * q + sticky) (p.exp - k - 1)).1

/-- Whether an F32 lies within 2 ulp of a parameter (R324). -/
def Param.near (p : Param) (w : Nat) : Bool :=
  match f32.decode w with
  | .fin n m e =>
    let d := addExact (signedMant n m * p.den) e (-p.num) p.exp
    let top : Int := if p.num = 0 then -149 else
      (Nat.log2 (p.num.natAbs * 2 ^ (bitLen p.den) / p.den) : Int) - bitLen p.den + p.exp
    decide (cmpExact d.1.natAbs d.2 (p.den * 2) (max (top - 23) (-149)) ≤ 0)
  | _ => false

/-- A ray as the engine follows it (R322): the eight F32 words, the flags and the mask. -/
structure RayGeo where
  words : List Word
  flags : Nat
  mask : Nat
  got : Tbl Word
  deriving DecidableEq, Repr

/-- One word of a ray. -/
def RayGeo.word (r : RayGeo) (i : Nat) : Word := (r.words[i]?).getD 0

/-- Whether a ray misses at once (R322). -/
def RayGeo.missesAtOnce (r : RayGeo) : Bool :=
  let v := r.words.map (fun w => f32.decode w.toNat)
  v.any FVal.isNan || ((r.words.drop 3).take 3).all (fun w => w.toNat % 2 ^ 31 == 0) ||
    !((Param.ofWord (r.word 6)).le (Param.ofWord (r.word 7)))

/-- The bounds that an axis of a slab sets on t: lo ≤ o + t d ≤ hi, all in given units; none where no t meets it. -/
def slabBounds (o d lo hi : Int) (exp : Int) : Option (List Param × List Param) :=
  if d = 0 then (if lo ≤ o ∧ o ≤ hi then some ([], []) else none)
  else
    let a := Param.quot (lo - o) d exp
    let b := Param.quot (hi - o) d exp
    if d > 0 then some ([a], [b]) else some ([b], [a])

/-- The box of a child (R321): origin words, exponents and the six bytes lo x, y, z, hi x, y, z. -/
structure BoxGeo where
  origin : List Word
  exps : List Int
  q : List Nat
  deriving DecidableEq, Repr

/-- Whether a ray's segment meets a box exactly; none where a coordinate is not finite. -/
def boxMeets (r : RayGeo) (b : BoxGeo) : Option Bool :=
  let os := (r.words.take 3).filterMap dyadic
  let ds := ((r.words.drop 3).take 3).filterMap dyadic
  let bo := b.origin.filterMap dyadic
  if os.length ≠ 3 ∨ ds.length ≠ 3 ∨ bo.length ≠ 3 then none
  else
    let side : Nat → List (Int × Int) := fun k => (List.range 3).map (fun i =>
      let o := (bo[i]?).getD (0, 0)
      addExact o.1 o.2 (((b.q[k + i]?).getD 0 : Nat) : Int) ((b.exps[i]?).getD 0))
    let (ps, e) := commonUnit (os ++ side 0 ++ side 3)
    let (dv, de) := commonUnit ds
    let at_ : List Int → Nat → Int := fun l i => (l[i]?).getD 0
    let slabs := (List.range 3).map (fun i => slabBounds (at_ ps i) (at_ dv i) (at_ ps (3 + i)) (at_ ps (6 + i)) (e - de))
    if slabs.any (·.isNone) then some false
    else
      let bs := slabs.filterMap id
      some (boundsMeet (Param.ofWord (r.word 6) :: bs.flatMap (·.1)) (Param.ofWord (r.word 7) :: bs.flatMap (·.2)))

/-- Whether the engine visits a child (R321): always where the segment meets its box; elsewhere it may. -/
def boxVisited (r : RayGeo) (b : BoxGeo) : Bool :=
  boxMeets r b == some true ||
    Config.boxVisit (b.origin ++ b.exps.map (fun e => BitVec.ofInt 32 e) ++ b.q.map (BitVec.ofNat 32)) r.words

/-- A triangle that a ray's segment meets: its t, u and v, exact where they are single values, and whether the face is
front before flip_facing (R324). -/
structure TriMeet where
  t : Option Param
  u : Option Param
  v : Option Param
  front : Bool
  deriving DecidableEq, Repr

/-- The greater of two parameters. -/
def Param.max (a b : Param) : Param := if a.le b then b else a

/-- Where a segment in the plane of a triangle meets it, by the bounds on t of the three edges: at its first point (R325), or,
with first-hit, at any. -/
def coplanarMeets (r : RayGeo) (tri : List Word) (o d n v0 v1 v2 : V3) (exp : Int) : Option Param :=
  let edge : V3 → V3 → Option (List Param × List Param) := fun p q =>
    let m := n.cross (q.sub p)
    let c := m.dot (o.sub p)
    let k := m.dot d
    if k = 0 then (if c ≥ 0 then some ([], []) else none)
    else if k > 0 then some ([Param.quot (-c) k exp], []) else some ([], [Param.quot (-c) k exp])
  let bs := [edge v0 v1, edge v1 v2, edge v2 v0]
  if bs.any (·.isNone) then none
  else
    let l := bs.filterMap id
    let lows := l.flatMap (·.1)
    let highs := Param.ofWord (r.word 7) :: l.flatMap (·.2)
    let tmin := Param.ofWord (r.word 6)
    let any := Param.ofWord (Config.rayHit tri r.words 3)
    if !boundsMeet (tmin :: lows) highs then none
    else if bit r.flags 0 && any.side == 0 && boundsMeet (tmin :: lows) [any] && boundsMeet [any] highs then some any
    else some (lows.foldl Param.max tmin)

/-- The u and v of the point at parameter tn ÷ td of a ray (R324), for the triangle at v0 with edges e1 and e2. -/
def hitUV (o d v0 e1 e2 : V3) (tn td : Int) : Param × Param :=
  let n := e1.cross e2
  let q := (V3.mul td (o.sub v0)).add (V3.mul tn d)
  let nn := td * n.dot n
  (Param.quot (n.dot (q.cross e2)) nn 0, Param.quot (n.dot (e1.cross q)) nn 0)

/-- The exact test of a segment against a triangle given by its nine coordinates (R324). Where a coordinate is not finite
the specification states no outcome, and the open constant decides. -/
def triMeets (r : RayGeo) (tri : List Word) : Option TriMeet :=
  let os := (r.words.take 3).filterMap dyadic
  let ds := ((r.words.drop 3).take 3).filterMap dyadic
  let vs := tri.filterMap dyadic
  if os.length ≠ 3 ∨ ds.length ≠ 3 ∨ vs.length ≠ 9 then
    if Config.boxVisit tri r.words then some { t := none, u := none, v := none, front := false } else none
  else
    let (ps, e) := commonUnit (os ++ vs)
    let (dv, de) := commonUnit ds
    match vectors ps, vectors dv with
    | [o, v0, v1, v2], [d] =>
      let e1 := v1.sub v0
      let e2 := v2.sub v0
      let n := e1.cross e2
      let td := n.dot d
      let tn := n.dot (v0.sub o)
      if n.isZero then none
      else if td = 0 then
        match (if tn = 0 then coplanarMeets r tri o d n v0 v1 v2 (e - de) else none) with
        | none => none
        | some t =>
          let k := t.exp - (e - de)
          let (u, v) := hitUV o d v0 e1 e2 (t.num * ((2 ^ k.toNat : Nat) : Int)) ((t.den * 2 ^ (-k).toNat : Nat) : Int)
          some { t := some t, u := some u, v := some v, front := false }
      else
        let (u, v) := hitUV o d v0 e1 e2 tn td
        let t := Param.quot tn td (e - de)
        let one := Param.quot 1 1 0
        let uv : Param := { u with num := u.num + v.num }
        let zero := Param.quot 0 1 0
        if zero.le u && zero.le v && uv.le one && (Param.ofWord (r.word 6)).le t && t.le (Param.ofWord (r.word 7)) then
          some { t := some t, u := some u, v := some v, front := decide (td < 0) }
        else none
    | _, _ => none

/-- One value of a hit as it is returned (R324): the open constant's choice within 2 ulp of the exact value, else the
nearest; unconstrained where there is no single exact value. -/
def hitWord (tri : List Word) (r : RayGeo) (k : Nat) (p : Option Param) : Word :=
  let w := Config.rayHit tri r.words k
  match p with
  | none => w
  | some x => if x.near w.toNat then w else BitVec.ofNat 32 x.toF32

/-- A hit that is not culled. -/
structure HitRec where
  t : Word
  u : Word
  v : Word
  prim : Word
  inst : Word
  group : Nat
  key : Nat
  front : Bool
  instAddr : Nat
  triAddr : Nat
  deriving DecidableEq, Repr

/-- What a traversal has found: hits, errors (cause and address, R328) and misses that must be replayed; and how many nodes it
visited, triangles it tested and instances it entered (R336), and the records it read, address and length. -/
structure Trav where
  hits : List HitRec
  errs : List (Nat × Nat)
  miss : List (Nat × Nat)
  nodes : Nat := 0
  tris : Nat := 0
  insts : Nat := 0
  reads : List (Nat × Nat) := []
  deriving DecidableEq, Repr

/-- Nothing found. -/
def Trav.empty : Trav := { hits := [], errs := [], miss := [] }

/-- What two parts of a traversal have found. -/
def Trav.join (a b : Trav) : Trav :=
  { hits := a.hits ++ b.hits, errs := a.errs ++ b.errs, miss := a.miss ++ b.miss, nodes := a.nodes + b.nodes,
    tris := a.tris + b.tris, insts := a.insts + b.insts, reads := a.reads ++ b.reads }

/-- A part of a traversal with the record that it began with. -/
def Trav.after (t : Trav) (va n : Nat) : Trav := { t with reads := (va, n) :: t.reads }

/-- An error of a traversal. -/
def Trav.error (cause addr : Nat) : Trav := { hits := [], errs := [(cause, addr)], miss := [] }

/-- A record of n bytes read by the ray engine (R327), aligned to m (R328): the words that the ray has read already, and the
others as they stand. -/
def State.rayRead (s : State) (e : Eng) (r : RayGeo) (va n m : Nat) : Except Trav Nat :=
  if va % m ≠ 0 then .error (.error 5 va)
  else match s.engRead e va n with
    | (bs, none) => .ok (ofBytes ((chunks 4 (bs.map (·.1))).zipIdx.flatMap (fun x =>
        match tget r.got (va / 4 + x.2) with
        | some v => toBytes 4 v.toNat
        | none => x.1)))
    | (_, some st) => match st.err with
      | .miss level => .error { hits := [], errs := [], miss := [(st.va, level)] }
      | .cause _ => .error (.error 1 st.va)

/-- The instance that a bottom level is traversed for (R326): id, record address, hit-group offset and its two flags. -/
structure InstGeo where
  id : Word
  addr : Nat
  offset : Nat
  noCull : Bool
  flip : Bool
  deriving DecidableEq, Repr

/-- A triangle record (R324, R326). -/
def State.rayTriangle (s : State) (e : Eng) (r : RayGeo) (i : InstGeo) (va : Nat) : Trav :=
  match s.rayRead e r va 48 16 with
  | .error t => t
  | .ok v => Trav.after (va := va) (n := 48) <|
    if bits v 383 353 ≠ 0 ∨ bits v 335 332 ≠ 0 then .error 2 va
    else
      let tri := (List.range 9).map (fun k => BitVec.ofNat 32 (v / 2 ^ (32 * k)))
      match triMeets r tri with
      | none => { Trav.empty with tris := 1 }
      | some m =>
        let front := m.front != i.flip
        let culled := !(bit v 352 || i.noCull) && ((bit r.flags 1 && !front) || (bit r.flags 2 && front))
        if culled then { Trav.empty with tris := 1 }
        else
          { hits := [{ t := hitWord tri r 0 m.t, u := hitWord tri r 1 m.u, v := hitWord tri r 2 m.v
                       prim := BitVec.ofNat 32 (bits v 319 288), inst := i.id, group := bits v 331 320 + i.offset
                       key := bits v 351 336, front := front, instAddr := i.addr, triAddr := va }]
            errs := [], miss := [], tris := 1 }

/-- A child's meta word: type, count and index (R321). -/
def metaOf (v i : Nat) : Nat × Nat × Nat :=
  let m := bits v (256 + 32 * i + 31) (256 + 32 * i)
  (bits m 31 30, bits m 29 24, bits m 23 0)

/-- A child's box (R321). -/
def boxOf (v i : Nat) : BoxGeo :=
  let b := bits v (512 + 48 * i + 47) (512 + 48 * i)
  { origin := (List.range 3).map (fun k => BitVec.ofNat 32 (v / 2 ^ (32 * k)))
    exps := (List.range 3).map (fun k => sext (v / 2 ^ (96 + 8 * k)) 8)
    q := (List.range 6).map (fun k => b / 2 ^ (8 * k) % 256) }

/-- The nodes of one tree from an address on, at most as many deep as the fuel (R328); `leaf` gives what an instance list's
record yields. -/
def State.rayNode (s : State) (e : Eng) (r : RayGeo) (i : InstGeo) (leaf : Nat → Trav) : Nat → Nat → Trav
  | 0, va => .error 4 va
  | f + 1, va =>
    match s.rayRead e r va 128 128 with
    | .error t => t
    | .ok v => Trav.after (va := va) (n := 128) <|
      let kids := (List.range 8).map (fun k => (k, metaOf v k))
      if bits v 1023 896 ≠ 0 ∨ bits v 127 120 ≠ 0 ∨ kids.any (fun k => decide (k.2.1 ≤ 1) && k.2.2.1 != 0) then .error 2 va
      else
        kids.foldl (fun out k =>
          let (ty, cnt, idx) := k.2
          if ty = 0 || !boxVisited r (boxOf v k.1) then out
          else if ty = 1 then out.join (State.rayNode s e r i leaf f ((bits v 191 128 + 128 * idx) % 2 ^ 64))
          else
            let base := bits v 255 192
            (List.range (cnt + 1)).foldl (fun out j =>
              if ty = 2 then out.join (s.rayTriangle e r i ((base + 48 * (idx + j)) % 2 ^ 64))
              else out.join (leaf ((base + 128 * (idx + j)) % 2 ^ 64))) out) { Trav.empty with nodes := 1 }

/-- One component of a transformed ray (R323): the exact sum of the row's four products, the vector's fourth component being 1
for a point and 0 for a direction, rounded once. -/
def affineRow (m : List Word) (p : List Word) (point : Bool) : Word :=
  let p4 : List Word := p ++ [if point then 0x3F800000 else 0]
  match (m.zip p4).map (fun x => (mulVal (f32.decode x.1.toNat) (f32.decode x.2.toNat)).1) with
  | [] => 0
  | v :: t => BitVec.ofNat 32 (f32.encode .rne (t.foldl (fun a b => (addVal .rne a b).1) v)).1

/-- A ray in an instance's object space (R323). -/
def RayGeo.transform (r : RayGeo) (m : List Word) : RayGeo :=
  let row : Nat → List Word := fun k => (m.drop (4 * k)).take 4
  let o := r.words.take 3
  let d := (r.words.drop 3).take 3
  { r with words := (List.range 3).map (fun k => affineRow (row k) o true) ++
      (List.range 3).map (fun k => affineRow (row k) d false) ++ r.words.drop 6 }

/-- An instance record of the top level (R323). -/
def State.rayInstance (s : State) (e : Eng) (r : RayGeo) (va : Nat) : Trav :=
  match s.rayRead e r va 128 128 with
  | .error t => t
  | .ok v => Trav.after (va := va) (n := 128) <|
    if bits v 1023 886 ≠ 0 then .error 2 va
    else if bits v 871 864 &&& r.mask = 0 then .empty
    else
      let r1 := r.transform ((List.range 12).map (fun k => BitVec.ofNat 32 (v / 2 ^ (32 * k))))
      let i : InstGeo :=
        { id := BitVec.ofNat 32 (bits v 863 832), addr := va, offset := bits v 883 872, noCull := bit v 884,
          flip := bit v 885 }
      Trav.join { Trav.empty with insts := 1 }
        (if r1.words.any (fun w => (f32.decode w.toNat).isNan) then .empty
        else s.rayNode e r1 i (fun x => .error 3 x) 64 (bits v 831 768))

/-- A ray's whole traversal (R320, R322). -/
def State.traverse (s : State) (e : Eng) (r : RayGeo) (root : Nat) : Trav :=
  if r.missesAtOnce then .empty
  else s.rayNode e r { id := 0xFFFFFFFF, addr := 0, offset := 0, noCull := false, flip := false }
    (fun va => s.rayInstance e r va) 64 root

end Sys2Proof.Machine
end

