-- ==== Sys2Proof/Machine/Order.lean ====
section
/-!
DEFINITION. The order in which a wave's accesses and its engines' reads may be performed (R341, R344 to R346, R350, R351).
-/

namespace Sys2Proof.Machine

/-- The fields of a queue control block (R370). -/
structure QBlock where
  base : Nat
  cap : Nat
  esize : Nat
  head : Nat
  tail : Nat
  flags : Nat
  ok : Bool
  deriving DecidableEq, Repr

/-- Reads a queue control block and judges it (R371). -/
def QBlock.of (v : Nat) : QBlock :=
  let cap := bits v 95 64
  let es := bits v 103 96
  let head := bits v 159 128
  let tail := bits v 191 160
  let base := bits v 63 0
  { base := base, cap := cap, esize := es, head := head, tail := tail, flags := bits v 193 192
    ok := bits v 255 194 == 0 && bits v 127 104 == 0 && (es == 4 || es == 8 || es == 12 || es == 16) &&
      (List.range 24).any (fun i => cap == 2 ^ (i + 1)) && base % 4 == 0 &&
      decide ((tail + 2 ^ 32 - head) % 2 ^ 32 ≤ cap) }

/-- The entries that a block holds. -/
def QBlock.count (q : QBlock) : Nat := (q.tail + 2 ^ 32 - q.head) % 2 ^ 32

/-- The address of the entry of an index (R370). -/
def QBlock.entry (q : QBlock) (i : Nat) : Nat := (q.base + i % q.cap * q.esize) % 2 ^ 64

/-- The parts of n bytes from an address on that lie in one line each: their place and number. An entry of a queue, at most 16
bytes, has at most two. -/
def lineParts (va n : Nat) : List (Nat × Nat) :=
  let k := Nat.min n (128 - va % 128)
  if k = n then [(0, n)] else [(0, k), (k, n - k)]

/-- The places of n bytes of scratchpad, from an offset as a wave names it: 3 + the team, the offset there and the bytes. The
fuel bounds the window slots crossed. -/
def State.scratchPlaces (s : State) (w : Wave) : Nat → Nat → Nat → List (Nat × Nat × Nat)
  | 0, _, _ => []
  | f + 1, off, n =>
    if n = 0 then []
    else match s.scratchSpan w off with
      | none => []
      | some (t, o, left) =>
        if n ≤ left then [(3 + t, o, n)] else (3 + t, o, left) :: s.scratchPlaces w f (off + left) (n - left)

/-- The places of an access to memory: its storage location (0) and its virtual address (1). -/
def LaneAcc.places (a : LaneAcc) : List (Nat × Nat × Nat) := [(0, a.key, a.size), (1, a.addr, a.size)]

/-- The places of one access of a pending operation. A queue operation's are its control block and every entry that it may come
to use (R341). -/
def State.accPlaces (s : State) (w : Wave) (k : PendKind) (a : LaneAcc) : List (Nat × Nat × Nat) :=
  match k with
  | .loadScratch _ => s.scratchPlaces w 8 a.key a.size
  | .queueOp _ _ =>
    let q := QBlock.of (s.readNat w.tag a.ver a.key 32)
    a.places ++ (if q.ok then [(1, q.base, q.cap * q.esize)] else [])
  | _ => a.places

/-- The accesses of a pending operation. -/
def PendKind.accs : PendKind → List LaneAcc
  | .load l | .loadScratch l | .store l | .atomic _ _ l _ | .queueOp _ l | .casc l _ _ _ => l
  | .loadK _ a _ => [a]
  | _ => []

/-- The bytes that a pending operation of a wave reads or writes, as kind of place, first place and number. -/
def State.places (s : State) (w : Wave) (k : PendKind) : List (Nat × Nat × Nat) := k.accs.flatMap (s.accPlaces w k)

/-- Whether two sets of byte ranges meet. -/
def rangesMeet (x y : List (Nat × Nat × Nat)) : Bool :=
  x.any (fun a => y.any (fun b => a.1 == b.1 && decide (a.2.1 < b.2.1 + b.2.2) && decide (b.2.1 < a.2.1 + a.2.2)))

/-- Whether an earlier operation of a wave must be performed before a later one, towards every agent (R341, R344, R345). Device
and system scope are one here: the model has one memory (log entry 81). -/
def State.mustPrecede (s : State) (w : Wave) (q p : Pend) : Bool :=
  decide (kindOrder q p ≥ 3) ||
    (q.kind.accesses && p.kind.accesses &&
      ((q.kind.reads && p.kind.writes) || rangesMeet (s.places w q.kind) (s.places w p.kind)))

/-- The context in which a bulk operation acts (R141, R250, R430). -/
def State.bulkEng (s : State) (b : Bulk) (w : Wave) (drop : Bool) : Eng :=
  { dom := s.domainOf b.launch, tag := b.tag, launch := b.launch, writer := s.writerOf w, cancelled := b.cancelled,
    drop := drop }

/-- Where the bytes of a bulk operation come from (R273 to R275, R289, R429), but for a KVLD's, which come from the block store
and meet no other access's place: R290 orders them among the wave's operations there. -/
def State.sources (s : State) (b : Bulk) : List Source :=
  match b.kind with
  | .copyIn va _ n | .digest va n _ => [{ off := 0, len := n, scratch := false, addr := va }]
  | .copyOut _ base n | .kvStore _ _ base n => [{ off := 0, len := n, scratch := true, addr := base }]
  | .gather elems z => elems.zipIdx.map (fun x => { off := x.2 * z, len := z, scratch := false, addr := x.1.1 })
  | .scatter elems z => elems.zipIdx.map (fun x => { off := x.2 * z, len := z, scratch := true, addr := x.1.2 })
  | .ring va n count _ _ => [{ off := 0, len := count * (s.ring b.team n).size, scratch := false, addr := va }]
  | .kvLoad _ _ _ _ => []

/-- The places of some ranges of an operation's bytes. -/
def State.rangePlaces (s : State) (w : Wave) (e : Eng) (xs : List Source) (l : List (Nat × Nat)) : List (Nat × Nat × Nat) :=
  xs.flatMap (fun x => (meetRanges l x.off (x.off + x.len)).flatMap (fun r =>
    let at_ := x.addr + (r.1 - x.off)
    if x.scratch then s.scratchPlaces w 8 at_ (r.2 - r.1) else s.memPlaces e at_ (r.2 - r.1)))

/-- What an engine reads of some ranges of an operation's bytes converts the lines that it reaches (R149). -/
def State.touchRanges (s : State) (w : Wave) (e : Eng) (xs : List Source) (l : List (Nat × Nat)) : State :=
  s.engTouch (s.rangePlaces w e xs l)

/-- The ranges of the bytes that have been taken since an earlier time. -/
def Taken.since (t old : Taken) : List (Nat × Nat) :=
  (t.got.take (t.got.length - old.got.length)).map (fun g => (g.1, g.1 + g.2.length))

/-- The context in which a ray reads (R327). -/
def State.rayEng (s : State) (x : Ray) : Eng :=
  { dom := s.domainOf x.launch, tag := x.tag, launch := x.launch, writer := 0, cancelled := x.cancelled, drop := false }

/-- A ray's geometry, flags and mask (R329), with the words that it has read. -/
def Ray.geo (x : Ray) : RayGeo :=
  { words := x.regs.take 8, flags := ((x.regs[8]?).getD 0).toNat, mask := ((x.regs[9]?).getD 0).toNat % 256, got := x.got }

/-- A ray's traversal as it would go now. -/
def State.rayTrav (s : State) (x : Ray) : Trav := s.traverse (s.rayEng x) x.geo x.root.toNat

/-- The places of the words that a ray has still to read, as its traversal would go now. -/
def State.rayPlaces (s : State) (x : Ray) : List (Nat × Nat × Nat) :=
  (s.rayTrav x).reads.flatMap (fun r =>
    ((List.range (r.2 / 4)).map (fun i => r.1 + 4 * i)).flatMap (fun va =>
      if (tget x.got (va / 4)).isSome then [] else s.memPlaces (s.rayEng x) va 4))

/-- The context in which a CBPUT's move reads (R383). -/
def CbMove.eng_ (x : CbMove) : Eng :=
  { dom := x.domain, tag := x.tag, launch := x.launch, writer := 0, cancelled := x.cancelled, drop := false }

/-- Where the bytes of a CBPUT's move come from. -/
def CbMove.source (x : CbMove) : Source := { off := 0, len := x.len, scratch := x.fromScratch, addr := x.src }

/-- A read of one of a wave's engine operations that is still to be made: the operation, its place in program order, and what it
reads. -/
structure EngRead where
  id : Nat
  before : Nat
  places : List (Nat × Nat × Nat)
  deriving DecidableEq, Repr

/-- What is left to read for a wave's engine operations (R351): copies, gathers, CPYRING, KVLD, KVST, DIGEST, rays and the moves
of CBPUT. -/
def State.engReads (s : State) (w : Wave) : List EngRead :=
  ((tvals s.bulk).filter (fun b => b.wave == w.uid && !b.data.left.isEmpty)).map (fun b =>
      { id := b.id, before := b.before
        places := s.rangePlaces w (s.bulkEng b w false) (s.sources b) b.data.left }) ++
    ((tvals s.rays).filter (fun r => r.wave == w.uid && r.result.isNone)).map (fun r =>
      { id := r.id, before := r.before, places := s.rayPlaces r }) ++
    ((tvals s.moves).filter (fun m => m.wave == w.uid && !m.data.left.isEmpty)).map (fun m =>
      { id := m.id, before := m.before, places := s.rangePlaces w m.eng_ [m.source] m.data.left })

/-- Whether an engine's read that is still to be made holds back a later operation of its wave (R344, R350): a release, a fence,
which orders the reads before it whatever its kind (R345), an access that reads the same bytes, and a write of other bytes; a
write of bytes that it reads may be made before it or after it. -/
def State.readHolds (s : State) (w : Wave) (e : EngRead) (p : Pend) : Bool :=
  match p.kind with
  | .fence _ => true
  | pk => pk.accesses && (p.release || (pk.reads && rangesMeet (s.places w pk) e.places) ||
      (pk.writes && !pk.accs.all (fun a => rangesMeet (s.accPlaces w pk a) e.places)))

/-- Whether a pending operation may be performed now: nothing issued before it that must precede it is left, no read of the wave's
engines holds it back, and no other wave's ordering keeps its wave from memory, or, for a fence that would go ahead of something,
keeps it from owing that: of the waves of an instance one at a time goes ahead, and its own accesses are never kept back for it
(R339). -/
def State.mayPerform (s : State) (w : Wave) (p : Pend) : Bool :=
  !w.pend.any (fun q => decide (q.id < p.id) && s.mustPrecede w q p) &&
    !((p.kind.accesses || !(w.owed p).isEmpty) && s.isBarred w) &&
    !((p.kind.accesses || p.kind.isFence) && (s.engReads w).any (fun e => decide (e.before ≤ p.id) && s.readHolds w e p))

/-- A wave's pending operation that may be performed now. -/
def State.pending? (s : State) (w p : Nat) : Option (Wave × Pend) :=
  match s.wave? w with
  | none => none
  | some x =>
    match x.pend.find? (fun q => q.id == p) with
    | none => none
    | some q => if s.mayPerform x q then some (x, q) else none

/-- Whether an engine may make a read of some places for a wave now (R344, R345, R350): of what the wave issued before the
operation, nothing is left that acquires, no fence that does, no access to the same bytes, and no engine's read of them. -/
def State.mayRead (s : State) (w : Wave) (before id : Nat) (places : List (Nat × Nat × Nat)) : Bool :=
  !s.isBarred w &&
    !w.pend.any (fun q => decide (q.id < before) && (q.acquire || (match q.kind with
      | .fence k => k != 1
      | qk => qk.accesses && rangesMeet (s.places w qk) places))) &&
    !(s.engReads w).any (fun e => decide (e.id < id) && rangesMeet e.places places)

/-- Whether a bulk operation may read all that it has still to read. -/
def State.bulkMayRead (s : State) (b : Bulk) (w : Wave) : Bool :=
  s.mayRead w b.before b.id (s.rangePlaces w (s.bulkEng b w false) (s.sources b) b.data.left)

/-- Whether a ray may make its reads of some places now (R327, R350): those of mayRead, and none before the stores that its wave
issued before it. -/
def State.rayMayRead (s : State) (x : Ray) (places : List (Nat × Nat × Nat)) : Bool :=
  match s.wave? x.wave with
  | some w => s.mayRead w x.before x.id places && !w.pend.any (fun p => decide (p.id < x.before) && p.kind.writes)
  | none => true

/-- Whether a wave, by its number, and its engines make no access now (R339). -/
def State.barredWave (s : State) (uid : Nat) : Bool :=
  match s.wave? uid with
  | some w => s.isBarred w
  | none => false

/-- Whether a store to scratchpad that is performed at issue may go before the engines' reads that are left (R344, R350): it
writes only bytes that each of them reads. -/
def State.mayStore (s : State) (w : Wave) (xs : List (Nat × Nat)) : Bool :=
  (s.engReads w).all (fun e => xs.all (fun x => rangesMeet (s.scratchPlaces w 8 x.1 x.2) e.places))

end Sys2Proof.Machine
end

