-- ==== Sys2Proof/Machine/Loads.lean ====
section
/-!
DEFINITION. Loads and stores of memory, scratchpad and k registers (R265 to R271), and the steps in which they are performed:
VARIABLE_LATENCY_COMPLETE and STORE_PERFORM; LOAD_RETURN stands with CBSTAT (R175, R342).
-/

namespace Sys2Proof.Machine

/-- The access size of format M (R37). -/
def accessSize (f : Nat) : Nat := if f = 19 then 8 else 4

/-- The writes of a load into n registers from d on, with the tags they take (R265, R60, R64); the values come later. -/
def Ctx.loadWrites (c : Ctx) (d f n : Nat) : List RegW :=
  c.act.flatMap (fun l => (List.range n).map (fun j =>
    c.w.put l (d + j) 0 (if f = 19 then (if j % 2 = 0 then mkTag 19 0 else 0) else mkTag f (c.w.keptScale l (d + j) f))))

/-- The rows of n registers of a lane from d on. -/
def Ctx.rowsFrom (c : Ctx) (l d n : Nat) : List Nat := (List.range n).map (fun j => c.w.rowOf l (d + j))

/-- The fields d to d + n − 1. -/
def fieldsFrom (d n : Nat) : List Nat := (List.range n).map (fun j => d + j)

/-- LD (R265). -/
def execLd (d a : BitVec 7) (f : BitVec 5) (ord : BitVec 2) (off : BitVec 5) (s : State) :
    Host.Outcome State Fault Refusal :=
  s.issue (fun c =>
    let size := accessSize f.toNat
    let n := size / 4
    let o : OpSpec := { regs := fieldsFrom d.toNat n ++ [a.toNat, a.toNat + 1],
                        pairs := if f = 19 then [d.toNat] else [], reads := [a.toNat, a.toNat + 1],
                        writes := c.loadWrites d.toNat f.toNat n }
    do
      c.check o
      let xs := c.act.map (fun l => (l, c.addrAt a.toNat (off.toInt * size) l))
      c.checkAlign size xs
      match ← c.translateAll .read xs with
      | .wait t => pure t
      | .go ts =>
        let w ← c.regionOf o
        let (s, w) := c.s.writeTags w o.writes
        let accs := (xs.zip ts).map (fun x =>
          { lane := x.1.1, addr := x.1.2, key := x.2.key, mt := x.2.mt, ver := x.2.ver, det := x.2.det, size := size,
            rows := c.rowsFrom x.1.1 d.toNat n, data := [] : LaneAcc })
        let acq := ord == 1 || ord == 2
        pure (c.done s (c.attach w (.load accs) (some c.sf1) (dedup (o.writes.map (·.row))) acq false (if ord = 2 then 3 else 2))))

/-- A store to memory of one value a lane, at issue: version faults, then the region, then the operation (R266, R137, R140);
`data` gives a lane's words. -/
def Ctx.storeTo (c : Ctx) (o : OpSpec) (size : Nat) (ord : BitVec 2) (xs : List (Nat × Nat)) (one : Bool)
    (data : Nat → List Word) : Except Raise State := do
  c.checkAlign size xs
  match ← c.translateAll .write xs with
  | .wait t => pure t
  | .go ts =>
    match ← c.checkVersions (xs.zip ts) with
    | some t => pure t
    | none =>
      let w ← c.regionOf o
      let accs := (xs.zip ts).map (fun x =>
        { lane := x.1.1, addr := x.1.2, key := x.2.key, mt := x.2.mt, ver := x.2.ver, det := x.2.det, size := size,
          rows := [], data := data x.1.1 : LaneAcc })
      let rel := ord == 1 || ord == 2
      pure (c.doneEffect c.s (c.attach w (.store (if one then accs.take 1 else accs)) none [] false rel (if ord = 2 then 3 else 2)))

/-- ST (R266). -/
def execSt (d a : BitVec 7) (f : BitVec 5) (ord : BitVec 2) (off : BitVec 5) (s : State) :
    Host.Outcome State Fault Refusal :=
  s.issue (fun c =>
    let size := accessSize f.toNat
    let n := size / 4
    let fs := fieldsFrom d.toNat n
    let o : OpSpec := { regs := fs ++ [a.toNat, a.toNat + 1], pairs := if f = 19 then [d.toNat] else [],
                        data := [(d.toNat, [f.toNat])], reads := fs ++ [a.toNat, a.toNat + 1] }
    do
      c.check o
      c.storeTo o size ord (c.act.map (fun l => (l, c.addrAt a.toNat (off.toInt * size) l))) false
        (fun l => fs.map (fun r => c.w.reg l r)))

/-- A lane's scratchpad offset (R265). -/
def Ctx.scratchAt (c : Ctx) (a : Nat) (off : Int) (l : Nat) : Nat := wrap (((c.w.reg l a).toNat : Int) + off) 32

/-- The checks of LDS and STS before the bounds (R267, R268). -/
def Ctx.checkGroup (c : Ctx) (o : OpSpec) (f n d : Nat) : Except Raise Unit := do
  c.checkRegs o.regs
  if f = 19 && n = 1 then throw (c.raiseIn 4 c.act (c.formatInfo c.first d))
  c.check o

/-- The register count of LDS and STS (R37). -/
def groupCount (n : BitVec 2) : Nat := 2 ^ n.toNat

/-- LDS (R265). -/
def execLds (d a : BitVec 7) (f : BitVec 5) (n : BitVec 2) (off : BitVec 5) (s : State) :
    Host.Outcome State Fault Refusal :=
  s.issue (fun c =>
    let m := groupCount n
    let size := 4 * m
    let o : OpSpec := { regs := fieldsFrom d.toNat m ++ [a.toNat], pairs := if f = 19 then [d.toNat] else [],
                        reads := [a.toNat], writes := c.loadWrites d.toNat f.toNat m }
    do
      c.checkGroup o f.toNat m d.toNat
      let xs := c.act.map (fun l => (l, c.scratchAt a.toNat (off.toInt * size) l))
      c.checkAlign (accessSize f.toNat) xs
      c.checkScratch (xs.map (fun x => (x.1, x.2, size)))
      let w ← c.regionOf o
      let (s, w) := c.s.writeTags w o.writes
      let accs := xs.map (fun x =>
        { lane := x.1, addr := x.2, key := x.2, mt := 0, ver := false, det := false, size := size,
          rows := c.rowsFrom x.1 d.toNat m, data := [] : LaneAcc })
      pure (c.done s (c.attach w (.loadScratch accs) (some c.sf1) (dedup (o.writes.map (·.row))) false false 2)))

/-- STS (R266): the lanes' stores are performed at issue, in ascending lane order. -/
def execSts (d a : BitVec 7) (f : BitVec 5) (n : BitVec 2) (off : BitVec 5) (s : State) :
    Host.Outcome State Fault Refusal :=
  s.issue (fun c =>
    let m := groupCount n
    let size := 4 * m
    let fs := fieldsFrom d.toNat m
    let data := if f = 19 then (fs.filter (fun r => (r - d.toNat) % 2 == 0)) else fs
    let o : OpSpec := { regs := fs ++ [a.toNat], pairs := if f = 19 then [d.toNat] else [],
                        data := data.map (fun r => (r, [f.toNat])), reads := fs ++ [a.toNat] }
    do
      c.checkGroup o f.toNat m d.toNat
      let xs := c.act.map (fun l => (l, c.scratchAt a.toNat (off.toInt * size) l))
      c.checkAlign (accessSize f.toNat) xs
      c.checkScratch (xs.map (fun x => (x.1, x.2, size)))
      let w ← c.regionOf o
      let s := xs.foldl (fun (s : State) x =>
        s.scratchWrite c.w x.2 ((fs.flatMap (fun r => toBytes 4 (c.w.reg x.1 r).toNat)).map (fun b => (b, false)))) c.s
      pure (c.done s w))

/-- The address of KLD and KST (R271), for every active lane, so that a fault names them all. -/
def Ctx.uniformAddr (c : Ctx) (a : Nat) (off : Int) : List (Nat × Nat) :=
  c.act.map (fun l => (l, wrap (((c.w.kreg a).toNat : Int) + off) 64))

/-- KLD (R271). -/
def execKld (d a : BitVec 7) (f : BitVec 5) (ord : BitVec 2) (off : BitVec 5) (s : State) :
    Host.Outcome State Fault Refusal :=
  s.issue (fun c =>
    let size := accessSize f.toNat
    let o : OpSpec := { kreads := [a.toNat], kwrites := [d.toNat] }
    do
      c.check o
      let xs := c.uniformAddr a.toNat (off.toInt * size)
      c.checkAlign size xs
      match ← c.translateAll .read xs with
      | .wait t => pure t
      | .go ts =>
        let w ← c.regionOf o
        match xs.zip ts with
        | [] => pure (c.done c.s w)
        | x :: _ =>
          let acc : LaneAcc := { lane := x.1.1, addr := x.1.2, key := x.2.key, mt := x.2.mt, ver := x.2.ver,
                                 det := x.2.det, size := size, rows := [], data := [] }
          let acq := ord == 1 || ord == 2
          pure (c.done c.s (c.attach w (.loadK d.toNat acc (f == 2)) (some c.sf1) [2048 + d.toNat] acq false (if ord = 2 then 3 else 2))))

/-- KST (R271): performed once. -/
def execKst (d a : BitVec 7) (f : BitVec 5) (ord : BitVec 2) (off : BitVec 5) (s : State) :
    Host.Outcome State Fault Refusal :=
  s.issue (fun c =>
    let size := accessSize f.toNat
    let o : OpSpec := { kreads := [a.toNat, d.toNat] }
    let v := c.w.kreg d.toNat
    do
      c.check o
      c.storeTo o size ord (c.uniformAddr a.toNat (off.toInt * size)) true
        (fun _ => if size = 8 then [v.extractLsb' 0 32, v.extractLsb' 32 32] else [v.extractLsb' 0 32]))

/-- Converts the committed versions of the lines that a tag's accesses reach and has no version of (R149). -/
def State.touch (s : State) (tag : BitVec 4) (accs : List LaneAcc) : State :=
  accs.foldl (fun s a =>
    if a.ver && tag != 0 && (s.version? (lineOf a.key) tag).isSome then s else s.convert (lineOf a.key)) s

/-- The element writes of one access whose bytes have come. -/
def LaneAcc.writes (a : LaneAcc) (bytes : List Byte) (pois : Bool) : List LaneWrite :=
  (a.rows.zipIdx).map (fun r =>
    { row := r.1, lane := a.lane, val := BitVec.ofNat 32 (ofBytes ((bytes.drop (4 * r.2)).take 4)), poison := pois })

/-- Whether what a core reads of n bytes at a location comes to it as poison: the core's copy has failed, or their transfer
(R411). -/
def State.badRead (s : State) (core key n : Nat) : Bool := s.badCopy core key n || s.badCopy (coreTransfer core) key n

/-- The results of some accesses of a wave as they come to its core: a failed transfer makes them poison (R411). -/
def State.received (s : State) (w : Wave) (accs : List LaneAcc) (ws : List LaneWrite) : List LaneWrite :=
  let lost : Nat → Bool := fun l => accs.any (fun a => a.lane == l && s.badCopy (coreTransfer w.pcore) a.key a.size)
  ws.map (fun x => { x with poison := x.poison || lost x.lane })

/-- The transfers of the results of some accesses of a wave have come. -/
def State.came (s : State) (w : Wave) (accs : List LaneAcc) : State :=
  s.transferred (coreTransfer w.pcore) (accs.map (fun a => (a.key, a.size)))

/-- The results of a load from memory, through the core's L1 (R411). -/
def State.loadWrites (s : State) (w : Wave) (accs : List LaneAcc) : List LaneWrite :=
  accs.flatMap (fun a => a.writes (s.readBytes w.tag a.ver a.key a.size) (s.anyPoison w.tag a.ver a.key a.size || s.badRead w.pcore a.key a.size))

/-- The results of a load from scratchpad: poison is kept for each word (R414). -/
def State.scratchWrites (s : State) (w : Wave) (accs : List LaneAcc) : List LaneWrite :=
  accs.flatMap (fun a => (a.rows.zipIdx).map (fun r =>
    { row := r.1, lane := a.lane, val := BitVec.ofNat 32 (ofBytes (s.scratchBytes w (a.key + 4 * r.2) 4)),
      poison := s.scratchPoisoned w (a.key + 4 * r.2) }))

/-- The value that KLD writes (R271). -/
def kValue (size v : Nat) (signed : Bool) : DWord :=
  if size = 8 then BitVec.ofNat 64 v else if signed then BitVec.ofInt 64 (sext v 32) else BitVec.ofNat 64 v

/-- Performs a load of a wave (R265, R271). -/
def State.performLoad (s : State) (w : Wave) (p : Pend) : State :=
  match p.kind with
  | .load accs =>
    let s1 := s.touch w.tag accs
    let ws := s1.loadWrites w accs
    (s1.came w accs).setWave (((w.unpend p.id).deliver ws).sawPoison (ws.any (·.poison)))
  | .loadScratch accs =>
    let ws := s.scratchWrites w accs
    s.setWave (((w.unpend p.id).deliver ws).sawPoison (ws.any (·.poison)))
  | .loadK k a signed =>
    let s1 := s.touch w.tag [a]
    let pois := s1.anyPoison w.tag a.ver a.key a.size || s1.badRead w.pcore a.key a.size
    let w1 := (w.unpend p.id).setK k (kValue a.size (s1.readNat w.tag a.ver a.key a.size) signed)
    (s1.came w [a]).setWave ((if pois then { w1 with kpoison := w1.kpoison ||| (1#64 <<< k) } else w1).sawPoison pois)
  | _ => s

/-- Completes an operation of class S2 (R50): its results, its flags and, where enabled, cause 15 (R400). -/
def State.completeRegs (s : State) (w : Wave) (p : Pend) : State :=
  match p.kind with
  | .regs ws fl =>
    let w1 := (w.unpend p.id).deliver ws
    let lanes := maskOf (dedup (ws.map (·.lane)))
    s.setWave (if fl = 0 then w1 else w1.raiseFlags (s.fpTraps w.launch) fl lanes p.offset)
  | _ => s

/-- VARIABLE_LATENCY_COMPLETE (R50). -/
def execVariableLatencyComplete (w p : Nat) (s : State) : Host.Outcome State Fault Refusal :=
  .next (match s.pending? w p with
    | none => s
    | some (x, q) => s.completeRegs x q)

/-- Whether a wave's launch counts order hazards and every one of its waves has executed an SC fence since the last advance
of the epoch (R430): the epoch then advances. -/
def State.advanceEpoch (s : State) (launch : Nat) : State :=
  let mine := (tvals s.waves).filter (fun w => w.launch == launch)
  if s.isDet launch && !mine.isEmpty && mine.all (·.seenSc) then
    mine.foldl (fun s w => s.modWave w.uid (fun w => { w with seenSc := false }))
      (s.modLaunch launch (fun l => { l with epoch := l.epoch + 1 }))
  else s

/-- A fence of a wave is passed; an SC fence of device or system scope counts for the epoch of order hazards from then on, after
the accesses that it orders before it (R344, R430). -/
def State.performFence (s : State) (w : Wave) (p : Pend) (kind : Nat) : State :=
  let sc := kind == 3 && decide (p.scope ≥ 2)
  (s.setWave { w.unpend p.id with seenSc := w.seenSc || sc }).advanceEpoch w.launch

/-- Performs a store of a wave: the lanes in ascending order (R269), each at its home slice (R342). -/
def State.performStore (s : State) (w : Wave) (p : Pend) : State :=
  match p.kind with
  | .store accs =>
    (accs.foldl (fun (s : State) a => s.waveStore w a (a.data.flatMap (fun x => toBytes 4 x.toNat)) false) s).setWave
      (w.unpend p.id)
  | .fence k => s.performFence w p k
  | _ => s

/-- STORE_PERFORM (R342): a store becomes visible; a fence of the wave is passed. -/
def execStorePerform (w p : Nat) (s : State) : Host.Outcome State Fault Refusal :=
  .next (match s.pending? w p with
    | none => s
    | some (x, q) => s.performStore x q)

end Sys2Proof.Machine
end

