-- ==== Sys2Proof/Machine/Pool.lean ====
section
/-!
DEFINITION. The task pool (R115 to R117) and the reads of the task table and the hit-group table (R23).
-/

namespace Sys2Proof.Machine

/-- The distance of two columns (R11). -/
def colDist (a b : Nat) : Nat :=
  let d : Nat → Nat → Nat := fun x y => if x ≤ y then y - x else x - y
  d (a % 4) (b % 4) + d (a / 4) (b / 4)

/-- The columns in order of distance from one, ties in ascending id. -/
def nearest (c : Nat) : List Nat := sortBy (fun a b => decide (colDist c a ≤ colDist c b)) (List.range 16)

/-- The entries of a column's share of the pool. -/
def shareSize : Nat := 16384

/-- The entries of the pool. -/
def poolSize : Nat := 262144

/-- The pool entries reserved for a launch (R117). -/
def Launch.reserve (l : Launch) : Nat := l.field 431 416

/-- The pool entries that a launch's tasks hold. -/
def State.poolHeld (s : State) (launch : Nat) : Nat := (s.pool.filter (fun t => t.launch == launch)).length

/-- The entries that no launch reserves and no task holds. -/
def State.unreservedFree (s : State) : Nat :=
  let reserves := (tvals s.launches).foldl (fun n l => n + l.reserve) 0
  let beyond := (s.pool.filter (fun t => (s.launch? t.launch).isNone)).length +
    (tvals s.launches).foldl (fun n l => n + (s.poolHeld l.uid - l.reserve)) 0
  poolSize - reserves - beyond

/-- The entries that a launch's next tasks may take: its own reserve first, then unreserved ones (R379), as far as entries are
free at all (R115). -/
def State.poolFree (s : State) (launch : Nat) : Nat :=
  Nat.min ((match s.launch? launch with
    | some l => l.reserve - s.poolHeld launch
    | none => 0) + s.unreservedFree) (poolSize - s.pool.length)

/-- The share that a task from a logical column enters: its own, else the nearest with room (R115). Of the sixteen shares the
logical columns of every partition use those of their own numbers (DESIGN CHOICE; log entry 88). -/
def State.shareFor (s : State) (col : Nat) : Nat :=
  ((nearest col).find? (fun c => decide ((s.pool.filter (fun t => t.share == c)).length < shareSize))).getD col

/-- A column. -/
def State.column (s : State) (col : Nat) : Column := tgetD s.columns col Column.reset

/-- Changes a column. -/
def State.modColumn (s : State) (col : Nat) (f : Column → Column) : State :=
  { s with columns := tset s.columns col (f (s.column col)) }

/-- The clk count of a column. -/
def State.colClk (s : State) (col : Nat) : Nat := (s.column col).clk

/-- Gives a task its acceptance number (R119, R379). -/
def State.number (s : State) (t : Task) : State × Task :=
  match s.launch? t.launch with
  | none => (s, t)
  | some l => (s.modLaunch t.launch (fun l => { l with nextAccept := l.nextAccept + 1 }), { t with accept := l.nextAccept })

/-- In deterministic mode an instruction reserves acceptance numbers at issue, one for each active lane in ascending lane order,
so that tasks are numbered in the order in which they were issued (R81, R334). Between waves of different logical cores, which
R165 does not order, that is the order of the issuing steps (DESIGN CHOICE; log entry 87). Answers the first number. -/
def State.reserveNumbers (s : State) (launch n : Nat) : Option Nat × State :=
  match s.launch? launch with
  | none => (none, s)
  | some l =>
    if s.isDet launch then (some l.nextAccept, s.modLaunch launch (fun l => { l with nextAccept := l.nextAccept + n }))
    else (none, s)

/-- As reserveNumbers, for the tasks that the lanes of an AMO.CASC may yet make: the number of a lane that makes none leaves no gap
(R81, R119; DEDUCED, log entry 76). -/
def State.reserveTickets (s : State) (launch n : Nat) : Option Nat × State :=
  match s.reserveNumbers launch n with
  | (some first, s1) => (some first, s1.modLaunch launch (fun l => { l with tickets := l.tickets ++ (List.range n).map (first + ·) }))
  | (none, s1) => (none, s1)

/-- The task that a number was reserved for is made. -/
def State.ticketMade (s : State) (launch n : Nat) : State :=
  s.modLaunch launch (fun l => { l with tickets := l.tickets.erase n })

/-- The acceptance number of a task whose place in the order is n: those before it that made no task do not count (R81). -/
def Launch.numberOf (l : Launch) (n : Nat) : Nat := n - (l.tickets.filter (fun t => decide (t < n))).length

/-- Whether a launch's tasks of earlier numbers than n may still be on their way to the pool: an AMO.CASC lane not yet performed,
a TRACEQ ray not yet ended, or a task that its source holds and the pool has room for. -/
def State.earlierTasks (s : State) (l : Launch) (n : Nat) : Bool :=
  (tvals s.waves).any (fun w => w.launch == l.uid && w.pend.any (fun p => match p.kind with
    | .casc accs arr _ (some first) => accs.any (fun a => decide (first + arr.findIdx (fun e => e.1 == a.lane) < n))
    | _ => false)) ||
  (tvals s.rays).any (fun r => r.launch == l.uid && (match r.accept with
    | some k => decide (k < n)
    | none => false)) ||
  s.heldTasks.any (fun h => h.task.launch == l.uid && h.source != 2 && decide (h.task.accept < n) &&
    decide ((s.heldTasks.filter (fun k => h.source == 3 && k.source == 3 && k.place == h.place)).length ≤ s.poolFree l.uid) &&
    decide (0 < s.poolFree l.uid))

/-- Whether no further task wave of a launch starts, a dispatch having failed (R19). -/
def State.isStopped (s : State) (launch : Nat) : Bool :=
  match s.launch? launch with
  | some l => l.stopDispatch
  | none => false

/-- The clk count of the physical column that hosts a logical column of a launch's partition (R4, R163). -/
def State.hostClk (s : State) (launch col : Nat) : Nat := s.colClk (s.hostColumn (s.partitionOf launch) col)

/-- A task enters the pool (R115); `numbered` says that it has its place in the order already. A task of a launch of which no
further wave starts is discarded (R19). -/
def State.enterPool (s : State) (t : Task) (col : Nat) (numbered : Bool) : State :=
  if s.dropsTag t.tag || s.isStopped t.launch then s else
  let (s1, t1) := if numbered then (s, t) else s.number t
  let share := s1.shareFor col
  let (id, s2) := s1.newId
  { s2 with pool := s2.pool ++ [{ t1 with id := id, share := share, clk := s2.hostClk t.launch share }] }

/-- What a read of a table entry gives (R23). -/
inductive TableRead where
  | entry (off role key : Nat)
  | invalid
  | fault (cause addr : Nat)
  | miss (va level : Nat)
  deriving DecidableEq, Repr

/-- Reads n bytes of a table through the launch's domain as a tag's context sees them, for an access some of whose waits were
cancelled (R250). -/
def State.tableWord (s : State) (l : Launch) (cancelled : List Nat) (tag : BitVec 4) (va n : Nat) : Except TableRead Nat :=
  match s.translateFor cancelled l.domain va .read with
  | .error (.miss level) => .error (.miss va level)
  | .error (.cause c) => .error (.fault c va)
  | .ok x =>
    if s.anyPoison tag x.ver x.key n then .error (.fault 16 va) else .ok (s.readNat tag x.ver x.key n)

/-- The entry at an index of a table whose address is not 0 (R23). -/
def State.tableEntry (s : State) (l : Launch) (cancelled : List Nat) (tag : BitVec 4) (table idx : Nat) : TableRead :=
  if table = 0 then .invalid
  else match s.tableWord l cancelled tag table 8 with
    | .error e => e
    | .ok h =>
      if idx ≥ bits h 31 0 then .invalid
      else match s.tableWord l cancelled tag (table + 8 + 8 * idx) 8 with
        | .error e => e
        | .ok e =>
          if bits e 63 32 = 0xFFFFFFFF then .invalid else .entry (bits e 63 32) (bits e 17 16) (bits e 15 0)

/-- The entry of a task: its index in the task table, or its hit group from 65,536 on (R23). -/
def State.taskEntry (s : State) (l : Launch) (cancelled : List Nat) (tag : BitVec 4) (entry : Nat) : TableRead :=
  if entry < 65536 then s.tableEntry l cancelled tag (l.field 575 512) entry
  else s.tableEntry l cancelled tag (l.field 639 576) (entry - 65536)

/-- The places that the read of a task's entry reaches (R23). -/
def State.tablePlaces (s : State) (l : Launch) (cancelled : List Nat) (entry : Nat) : List (Nat × Nat × Nat) :=
  let table := if entry < 65536 then l.field 575 512 else l.field 639 576
  if table = 0 then []
  else [table, table + 8 + 8 * (entry % 65536)].filterMap (fun va =>
    (s.translateFor cancelled l.domain va .read).toOption.map (fun x => (0, x.key, 8)))

/-- The record of a fault in a table read, which marks the launch faulted (R23). -/
def State.tableFault (s : State) (launch : Nat) (who : Who) (source cause addr gid : Nat) : State :=
  (s.report launch who { kind := 1, source := source, cause := cause, value := 0, writer := gid, addr := addr,
                         detail := 0 }).markFaulted launch

/-- The record of a task: eight words, the first least significant. -/
def recordWords (v : Nat) : List Word := (List.range 8).map (fun i => BitVec.ofNat 32 (v / 2 ^ (32 * i)))

/-- The column of a core. -/
def columnOf (core : Nat) : Nat := core / 16

end Sys2Proof.Machine
end

