-- ==== Sys2Proof/Machine/Atomics.lean ====
section
/-!
DEFINITION. Atomics (R361 to R367), continuations (R368, R369) and memory queues (R370, R371), at issue and when they are
performed.
-/

namespace Sys2Proof.Machine

/-- The integer forms: the new value from the old one and the operand at a width (R362); the operations are numbered in the
order of R48, 0 AMO.ADD to 10 AMO.DECW. -/
def amoInt (op width old y : Nat) : Nat :=
  let s : Nat → Int := fun v => sext v width
  match op with
  | 0 => (old + y) % 2 ^ width
  | 1 => if s old ≤ s y then old else y
  | 2 => if s old ≥ s y then old else y
  | 3 => y
  | 4 => Nat.min old y
  | 5 => Nat.max old y
  | 6 => old &&& y
  | 7 => old ||| y
  | 8 => old ^^^ y
  | 9 => if old ≥ y then 0 else old + 1
  | _ => if old = 0 ∨ old > y then y else old - 1

/-- The rounding of the floating forms: RNE, subnormals kept (R363). -/
def amoFpCtl : FpCtl := { rm := .rne, ftz := false }

/-- One element of a floating form (R363). -/
def amoFloatElem (op : Nat) (F : FFmt) (old y : Nat) : Nat × FFlags :=
  if op = 12 then fAdd amoFpCtl F old y else fMinMax amoFpCtl F (op == 14) false old y

/-- A floating form on a word of a format (R363). -/
def amoFloat (op fmt old y : Nat) : Nat × FFlags :=
  if fmt = 4 ∨ fmt = 5 then
    let F := if fmt = 4 then f16 else bf16
    let lo := amoFloatElem op F (old % 65536) (y % 65536)
    let hi := amoFloatElem op F (old / 65536) (y / 65536)
    (lo.1 + hi.1 * 65536, lo.2 ||| hi.2)
  else amoFloatElem op f32 old y

/-- The number that words spell, first word least significant. -/
def ofWords (ws : List Word) : Nat := ofBytes (ws.flatMap (fun w => toBytes 4 w.toNat))

/-- What an atomic does to a word: the new value, none where nothing is written, and the flags raised (R362, R363). -/
def amoNew (op fmt size old : Nat) (data : List Word) : Option Nat × FFlags :=
  let n := size / 4
  let y := ofWords (data.take n)
  if op = 11 then (if old = y then some (ofWords ((data.drop n).take n)) else none, 0)
  else if op ≥ 12 then
    let r := amoFloat op fmt old y
    (some r.1, r.2)
  else (some (amoInt op (8 * size) old y), 0)

/-- The formats that an atomic accepts (R362); RAW among them for all but the floating forms. -/
def amoFormats (op : Nat) : List Nat :=
  if op ≤ 2 ∨ op = 4 ∨ op = 5 then [2, 3, 19]
  else if op = 9 ∨ op = 10 then [2, 3]
  else if op = 12 ∨ op = 13 ∨ op = 14 then [1, 4, 5]
  else List.range 20

/-- The operand words of an atomic, before its width doubles them (R361): compare and swap take two operands, AMO.CASC
(operation 15) a task word besides. -/
def amoOperands (op wide : Nat) : Nat := if op = 15 then 2 * wide + 1 else if op = 11 then 2 * wide else wide

/-- The result words of an atomic (R361). -/
def amoResults (op wide : Nat) : Nat := if op = 15 then wide + 1 else wide

/-- What an atomic names, and the checks before its addresses (R361, R362, R364). -/
def Ctx.amoSpec (c : Ctx) (op : Nat) (d a b : Nat) : OpSpec :=
  let wide : Nat → Nat := fun l => if c.w.fmtAt l b = 19 then 2 else 1
  let most := maxOf (c.act.map wide)
  let ret := d != 0x7F || op == 15
  { regs := [a, a + 1] ++ fieldsFrom b (amoOperands op most) ++ (if ret then fieldsFrom d (amoResults op most) else [])
    pairs := if most = 2 then b :: (if ret then [d] else []) else []
    data := [(b, amoFormats op)]
    reads := [a, a + 1]
    laneReads := c.act.flatMap (fun l => (fieldsFrom b (amoOperands op (wide l))).map (fun f => (l, f)))
    writes := if !ret then [] else c.act.flatMap (fun l =>
      c.w.put l d 0 (c.w.tagAt l b) ::
        ((if wide l = 2 then [c.w.put l (d + 1) 0 0] else []) ++
         (if op = 15 then [c.w.put l (d + wide l) 0 (mkTag 3 0)] else []))) }

/-- An atomic or continuation at issue (R361 to R368). In deterministic mode an AMO.CASC reserves its lanes' places in
the order of the launch's tasks (R119, R369). With ord = 1 an AMO.CASC has at least device scope, which R355 gives its edge to the continuation. -/
def Ctx.amo (c : Ctx) (op : Nat) (d a b : BitVec 7) (sv : BitVec 2) (ord : BitVec 1) : Except Raise State :=
  let wide : Nat → Nat := fun l => if c.w.fmtAt l b.toNat = 19 then 2 else 1
  let o := c.amoSpec op d.toNat a.toNat b.toNat
  let ret := !o.writes.isEmpty
  let xs := c.act.map (fun l => (l, c.addrAt a.toNat 0 l))
  let raw := if op = 12 ∨ op = 13 ∨ op = 14 then c.act.filter (fun l => c.w.fmtAt l b.toNat == 0) else []
  let mis := xs.filter (fun x => x.2 % (4 * wide x.1) != 0)
  do
    c.checkRegs o.regs
    if !raw.isEmpty then throw (c.raiseIn 4 raw (c.formatInfo (raw.headD 0) b.toNat))
    c.check o
    if !mis.isEmpty then throw (c.raiseIn 3 (mis.map (·.1)) (minOf 0 (mis.map (·.2))))
    match ← c.translateAll .atomic xs with
    | .wait t => pure t
    | .go ts =>
      let far := if op = 15 then (xs.zip ts).filter (fun x => x.2.mt == 4) else []
      if !far.isEmpty then
        throw (c.raiseIn 9 (far.map (fun x => x.1.1)) (faultInfo 2 (minOf 0 (far.map (fun x => x.1.2)))))
      match ← c.checkVersions (xs.zip ts) with
      | some t => pure t
      | none =>
        let w ← c.regionOf o
        let (s, w) := c.s.writeTags w o.writes
        let accs := (xs.zip ts).map (fun x =>
          let k := wide x.1.1
          { lane := x.1.1, addr := x.1.2, key := x.2.key, mt := x.2.mt, ver := x.2.ver, det := x.2.det, size := 4 * k,
            rows := if ret then c.rowsFrom x.1.1 d.toNat (amoResults op k) else []
            data := (fieldsFrom b.toNat (amoOperands op k)).map (fun f => c.w.reg x.1.1 f) : LaneAcc })
        let (id, s) := s.newId
        let (first, s) := if op = 15 then s.reserveTickets c.w.launch c.act.length else (none, s)
        let kind := if op = 15 then
            PendKind.casc accs (accs.map (fun x => (x.lane, s.hostClk c.w.launch (homeSlice x.key / 8)))) id first
          else .atomic op (c.act.map (fun l => c.w.fmtAt l b.toNat)) accs ret
        let sc := ord == 1
        let scope := if op = 15 then Nat.max 2 sv.toNat else sv.toNat
        let w := c.attach w kind (if ret then some c.sf1 else none) (dedup (o.writes.map (·.row))) sc sc scope
        pure (c.doneEffect s w)

/-- AMO.ADD (R362). -/
def execAmoAdd (d a b : BitVec 7) (sv : BitVec 2) (ord : BitVec 1) (s : State) : Host.Outcome State Fault Refusal :=
  s.issue (fun c => c.amo 0 d a b sv ord)

/-- AMO.MIN (R362). -/
def execAmoMin (d a b : BitVec 7) (sv : BitVec 2) (ord : BitVec 1) (s : State) : Host.Outcome State Fault Refusal :=
  s.issue (fun c => c.amo 1 d a b sv ord)

/-- AMO.MAX (R362). -/
def execAmoMax (d a b : BitVec 7) (sv : BitVec 2) (ord : BitVec 1) (s : State) : Host.Outcome State Fault Refusal :=
  s.issue (fun c => c.amo 2 d a b sv ord)

/-- AMO.XCHG (R362). -/
def execAmoXchg (d a b : BitVec 7) (sv : BitVec 2) (ord : BitVec 1) (s : State) : Host.Outcome State Fault Refusal :=
  s.issue (fun c => c.amo 3 d a b sv ord)

/-- AMO.MINU (R362). -/
def execAmoMinu (d a b : BitVec 7) (sv : BitVec 2) (ord : BitVec 1) (s : State) : Host.Outcome State Fault Refusal :=
  s.issue (fun c => c.amo 4 d a b sv ord)

/-- AMO.MAXU (R362). -/
def execAmoMaxu (d a b : BitVec 7) (sv : BitVec 2) (ord : BitVec 1) (s : State) : Host.Outcome State Fault Refusal :=
  s.issue (fun c => c.amo 5 d a b sv ord)

/-- AMO.AND (R362). -/
def execAmoAnd (d a b : BitVec 7) (sv : BitVec 2) (ord : BitVec 1) (s : State) : Host.Outcome State Fault Refusal :=
  s.issue (fun c => c.amo 6 d a b sv ord)

/-- AMO.OR (R362). -/
def execAmoOr (d a b : BitVec 7) (sv : BitVec 2) (ord : BitVec 1) (s : State) : Host.Outcome State Fault Refusal :=
  s.issue (fun c => c.amo 7 d a b sv ord)

/-- AMO.XOR (R362). -/
def execAmoXor (d a b : BitVec 7) (sv : BitVec 2) (ord : BitVec 1) (s : State) : Host.Outcome State Fault Refusal :=
  s.issue (fun c => c.amo 8 d a b sv ord)

/-- AMO.INCW (R362). -/
def execAmoIncw (d a b : BitVec 7) (sv : BitVec 2) (ord : BitVec 1) (s : State) : Host.Outcome State Fault Refusal :=
  s.issue (fun c => c.amo 9 d a b sv ord)

/-- AMO.DECW (R362). -/
def execAmoDecw (d a b : BitVec 7) (sv : BitVec 2) (ord : BitVec 1) (s : State) : Host.Outcome State Fault Refusal :=
  s.issue (fun c => c.amo 10 d a b sv ord)

/-- AMO.CAS (R362). -/
def execAmoCas (d a b : BitVec 7) (sv : BitVec 2) (ord : BitVec 1) (s : State) : Host.Outcome State Fault Refusal :=
  s.issue (fun c => c.amo 11 d a b sv ord)

/-- AMO.FADD (R363). -/
def execAmoFadd (d a b : BitVec 7) (sv : BitVec 2) (ord : BitVec 1) (s : State) : Host.Outcome State Fault Refusal :=
  s.issue (fun c => c.amo 12 d a b sv ord)

/-- AMO.FMIN (R363). -/
def execAmoFmin (d a b : BitVec 7) (sv : BitVec 2) (ord : BitVec 1) (s : State) : Host.Outcome State Fault Refusal :=
  s.issue (fun c => c.amo 13 d a b sv ord)

/-- AMO.FMAX (R363). -/
def execAmoFmax (d a b : BitVec 7) (sv : BitVec 2) (ord : BitVec 1) (s : State) : Host.Outcome State Fault Refusal :=
  s.issue (fun c => c.amo 14 d a b sv ord)

/-- AMO.CASC (R368). -/
def execAmoCasc (d a b : BitVec 7) (sv : BitVec 2) (ord : BitVec 1) (s : State) : Host.Outcome State Fault Refusal :=
  s.issue (fun c => c.amo 15 d a b sv ord)

/-- Adds the flags of a floating atomic to the launch's exception summary, with the address of the first one: the earliest in
device time and, among those of one time, the one of the lowest logical slice (R363). -/
def State.summary (s : State) (launch : Nat) (fl : FFlags) (addr slice : Nat) : State :=
  if fl = 0 then s
  else s.modLaunch launch (fun l =>
    let l1 := { l with excFlags := l.excFlags ||| fl }
    if l.excFlags = 0 ∨ (l.excNs = s.ns ∧ slice < l.excSlice) then
      { l1 with excAddr := BitVec.ofNat 64 addr, excNs := s.ns, excSlice := slice }
    else l1)

/-- The results of one lane of an atomic. -/
def resultWrites (rows : List Nat) (lane : Nat) (vals : List (Word × Bool)) : List LaneWrite :=
  (rows.zip vals).map (fun x => { row := x.1, lane := lane, val := x.2.1, poison := x.2.2 })

/-- The words of a value of 4 or 8 bytes. -/
def wordsOf (size v : Nat) : List Word :=
  if size = 8 then [BitVec.ofNat 32 v, BitVec.ofNat 32 (v / 2 ^ 32)] else [BitVec.ofNat 32 v]

/-- The record of an atomic that met poison, which is not performed (R366, R420). -/
def State.poisonedAtomic (s : State) (w : Wave) (addr : Nat) : State :=
  (s.waveRecord w 4 1 addr []).modWave w.uid (fun w => w.sawPoison true)

/-- One lane's atomic at its home slice (R365, R366). One of a SQUASHED branch on a versioned page is dropped (R141). -/
def State.atomicLane (s : State) (w : Wave) (op fmt : Nat) (a : LaneAcc) : State × List LaneWrite :=
  let s := (s.recall a.key).touch w.tag [a]
  let old := s.readNat w.tag a.ver a.key a.size
  let pois := s.anyPoison w.tag a.ver a.key a.size
  let ws := resultWrites a.rows a.lane ((wordsOf a.size old).map (fun v => (v, pois)))
  if s.dropsTag w.tag && a.ver then (s, ws)
  else if pois then (s.poisonedAtomic w a.addr, ws)
  else
    let r := amoNew op fmt a.size old a.data
    match r.1 with
    | none => (s, ws)
    | some v => ((s.waveStore w a (toBytes a.size v) false).summary w.launch r.2 a.addr (homeSlice a.key), ws)

/-- Performs an atomic: its lanes in ascending order (R365). -/
def State.performAtomic (s : State) (w : Wave) (p : Pend) : State :=
  match p.kind with
  | .atomic op fmts accs _ =>
    let (s1, ws) := (accs.zip fmts).foldl (fun (q : State × List LaneWrite) x =>
      let (t, v) := q.1.atomicLane w op x.2 x.1
      (t, q.2 ++ v)) (s, [])
    let ws := s1.received w accs ws
    (s1.came w accs).modWave w.uid (fun x => ((x.unpend p.id).deliver ws).sawPoison (ws.any (·.poison)))
  | _ => s

/-- ATOMIC_PERFORM (R362). -/
def execAtomicPerform (w p : Nat) (s : State) : Host.Outcome State Fault Refusal :=
  .next (match s.pending? w p with
    | none => s
    | some (x, q) => s.performAtomic x q)

/-- The number of a logical slice's continuation queue among those of all partitions (R163). -/
def State.sliceQueue (s : State) (launch slice : Nat) : Nat := 128 * s.partitionOf launch + slice

/-- The entries of a continuation queue that are taken (R119). -/
def State.queueUsed (s : State) (queue : Nat) : Nat :=
  (s.heldTasks.filter (fun h => h.source == 0 && h.place == queue)).length

/-- Whether an AMO.CASC lane of a SQUASHED branch is dropped unperformed (R141): one on a versioned page, and one held because no
entry of its slice's queue is free. -/
def State.cascDropped (s : State) (w : Wave) (a : LaneAcc) : Bool :=
  s.dropsTag w.tag && (a.ver || decide (s.queueUsed (s.sliceQueue w.launch (homeSlice a.key)) ≥ 64))

/-- The acceptance number that a lane of an AMO.CASC reserved, where it reserved one. -/
def PendKind.reserved (k : PendKind) (lane : Nat) : Option Nat :=
  match k with
  | .casc _ arr _ first => first.map (· + arr.findIdx (fun e => e.1 == lane))
  | _ => none

/-- The record of a continuation's task (R369). -/
def cascRecord (gid slice tag payload addr old : Nat) (wide : Bool) : List Word :=
  recordWords (old % 2 ^ 64 + addr % 2 ^ 64 * 2 ^ 64 + payload % 65536 * 2 ^ 128 + tag % 16 * 2 ^ 144 +
    slice % 128 * 2 ^ 160 + (if wide then 2 ^ 176 else 0) + gid % 2 ^ 32 * 2 ^ 192)

/-- One lane leaves a pending AMO.CASC; the operation completes with its last lane. -/
def Wave.cascLeave (w : Wave) (p : Pend) (lane : Nat) : Wave :=
  match p.kind with
  | .casc accs arr order first =>
    let rest := accs.filter (fun x => x.lane != lane)
    if rest.isEmpty then w.unpend p.id
    else { w with pend := w.pend.map (fun q => if q.id = p.id then { q with kind := .casc rest arr order first } else q) }
  | _ => w

/-- One lane of a pending AMO.CASC gets its old value and status. -/
def Wave.cascDone (w : Wave) (p : Pend) (a : LaneAcc) (old : Nat) (pois : Bool) (status : Nat) : Wave :=
  let ws := resultWrites a.rows a.lane
    ((wordsOf a.size old).map (fun v => (v, pois)) ++ [(BitVec.ofNat 32 status, false)])
  ((w.deliver ws).owe p).cascLeave p a.lane

/-- As cascDone, as the results come to the wave's core: a failed transfer makes the old value poison (R411). -/
def State.cascEnd (s : State) (w : Wave) (p : Pend) (a : LaneAcc) (old : Nat) (pois : Bool) (status : Nat) : State :=
  let lost := s.badCopy (coreTransfer w.pcore) a.key a.size
  (s.came w [a]).modWave w.uid (fun w => (w.cascDone p a old (pois || lost) status).sawPoison lost)

/-- The lane of a pending AMO.CASC that an event names, where no lane of lower number that names the same word is left
(R365). -/
def Pend.cascLane? (p : Pend) (lane : Nat) : Option LaneAcc :=
  match p.kind with
  | .casc accs _ _ _ =>
    match accs.find? (fun a => a.lane == lane) with
    | some a => if accs.any (fun b => decide (b.lane < lane) && b.key == a.key) then none else some a
    | none => none
  | _ => none

/-- Whether an AMO.CASC lane stands first among those held at its slice, in order of arrival (R368). -/
def State.cascFirst (s : State) (queue order lane : Nat) : Bool :=
  (tvals s.waves).all (fun w => w.pend.all (fun q => match q.kind with
    | .casc accs _ o _ => accs.all (fun b => s.sliceQueue w.launch (homeSlice b.key) != queue || decide (o > order) ||
        (o == order && decide (lane ≤ b.lane)))
    | _ => true))

/-- The outcome of a continuation's table read at its slice: the entry, or none for an invalid index, with the record of a
faulting read (R23, R368). -/
def State.cascEntry (s : State) (w : Wave) (l : Launch) (idx gid : Nat) : State × Option Nat :=
  match s.taskEntry l (s.cancelledPages 2 w.uid l.domain) w.tag idx with
  | .entry _ _ key => (s, some key)
  | .fault cause addr => (s.tableFault l.uid (s.whoOf w) 0x29 cause addr gid, none)
  | _ => (s, none)

/-- The AMO.CASC of one lane, performed with an entry of the slice's queue free (R368). -/
def State.cascPerform (s : State) (w : Wave) (p : Pend) (a : LaneAcc) : State :=
  let s := (s.recall a.key).touch w.tag [a]
  let n := a.size / 4
  let old := s.readNat w.tag a.ver a.key a.size
  if s.anyPoison w.tag a.ver a.key a.size then
    (s.poisonedAtomic w a.addr).cascEnd w p a old true 1
  else if old ≠ ofWords (a.data.take n) then s.cascEnd w p a old false 1
  else
    match s.launch? w.launch with
    | none => s
    | some l =>
      let word := ((a.data.drop (2 * n)).headD 0).toNat
      let idx := bits word 15 0
      let gid := s.globalLane w a.lane
      match s.taskEntry l (s.cancelledPages 2 w.uid l.domain) w.tag idx with
      | .miss va level => s.waitOn 2 w.uid l.domain va level (accessBits .read false) l.id (BitVec.ofNat 32 w.lcore)
      | _ =>
        let (s, e) := (s.convertAt (s.tablePlaces l (s.cancelledPages 2 w.uid l.domain) idx)).cascEntry w l idx gid
        let s := s.waveStore w a (toBytes a.size (ofWords ((a.data.drop n).take n))) false
        let slice := homeSlice a.key
        let rec_ := cascRecord gid slice w.tag.toNat (bits word 31 16) a.addr old (n == 2)
        let s := s.goneOn 2 w.uid
        match e, decide (w.depth + 1 > l.field 435 432) with
        | some key, false =>
          let t : Task := { id := 0, launch := w.launch, entry := idx, key := BitVec.ofNat 16 key, tag := w.tag,
                            depth := w.depth + 1, accept := (p.kind.reserved a.lane).getD 0, record := rec_
                            share := slice / 8, clk := 0 }
          let s : State := if s.dropsTag w.tag then s else { s.ticketMade w.launch t.accept with heldTasks := s.heldTasks ++
            [{ source := 0, place := s.sliceQueue w.launch slice, task := t }] }
          s.cascEnd w p a old false 0
        | _, _ =>
          (s.report w.launch (s.whoOf w)
            { kind := 1, source := 0x29, cause := 0, value := old, writer := gid, addr := a.addr
              detail := word + ofBytes (rec_.flatMap (fun x => toBytes 4 x.toNat)) % 2 ^ 224 * 2 ^ 32 }).cascEnd w p a old false 3

/-- CASC_PERFORM (R368): an entry of the slice's queue is free and the lane is the first that waits there. A lane of a SQUASHED
branch is dropped unperformed where R141 says so, and the continuation of another is discarded. -/
def execCascPerform (w p lane : Nat) (s : State) : Host.Outcome State Fault Refusal :=
  .next (match s.pending? w p with
    | none => s
    | some (x, q) =>
      match q.cascLane? lane, q.kind with
      | some a, .casc _ _ order _ =>
        if s.cascDropped x a then s.modWave x.uid (fun w => w.cascLeave q lane) else
        let queue := s.sliceQueue x.launch (homeSlice a.key)
        if decide (s.queueUsed queue < 64) && s.cascFirst queue order lane && !s.isWaiting 2 w then s.cascPerform x q a else s
      | _, _ => s)

/-- CASC_REFUSAL (R368): no entry was free for 65,536 clk of the slice's column; the lane reads and gets status 2, or status 1
and a record where the word is poisoned (R366). -/
def execCascRefusal (w p lane : Nat) (s : State) : Host.Outcome State Fault Refusal :=
  .next (match s.pending? w p with
    | none => s
    | some (x, q) =>
      match q.cascLane? lane, q.kind with
      | some a, .casc _ arr _ _ =>
        if s.cascDropped x a then s.modWave x.uid (fun w => w.cascLeave q lane) else
        let slice := homeSlice a.key
        let since := ((arr.find? (fun e => e.1 == lane)).map (·.2)).getD 0
        if decide (s.queueUsed (s.sliceQueue x.launch slice) ≥ 64) &&
            decide (s.hostClk x.launch (slice / 8) ≥ since + 65536) then
          let s := s.touch x.tag [a]
          let pois := s.anyPoison x.tag a.ver a.key a.size
          (if pois then s.poisonedAtomic x a.addr else s).cascEnd x q a (s.readNat x.tag a.ver a.key a.size) pois
            (if pois then 1 else 2)
        else s
      | _, _ => s)

/-- CONTINUATION_TO_POOL (R119, R163): the oldest entry of a logical slice's queue, 128 of them to a partition, enters the pool,
where there is room. -/
def execContinuationToPool (queue : Nat) (s : State) : Host.Outcome State Fault Refusal :=
  .next (match s.heldTasks.find? (fun h => h.source == 0 && h.place == queue) with
    | none => s
    | some h =>
      if s.poolFree h.task.launch = 0 then s
      else
        let s1 : State := { s with heldTasks := s.heldTasks.erase h }
        s1.enterPool h.task h.task.share (s.isDet h.task.launch))

/-- The status word of a queue operation (R370): the status and the new count modulo 2^24. -/
def queueStatus (status count : Nat) : Word := BitVec.ofNat 32 (status + count % 2 ^ 24 * 256)

/-- The entry that a lane's queue operation would use, after some earlier lanes of its instruction that name the same block
(R370): none where it uses none. -/
def QBlock.entryFor (q : QBlock) (op earlier : Nat) : Option Nat :=
  if !q.ok then none
  else match op with
    | 0 => if q.count + earlier < q.cap then some (q.entry (q.tail + earlier)) else none
    | 1 => if earlier < q.count then some (q.entry (q.head + earlier)) else none
    | _ => if 0 < q.count then some (q.entry q.head) else none

/-- The element fields, at most four, that a queue operation may name from a field on (R370). -/
def Ctx.elemFields (c : Ctx) (f : Nat) : List Nat := (fieldsFrom f 4).filter (fun x => c.w.fieldOk c.act x)

/-- Which of some fields name a row whose tag a write leaves as it is, in trap mode (R394): one bit for each. -/
def Ctx.keepsTag (c : Ctx) (fields : List Nat) : Word :=
  BitVec.ofNat 32 ((fields.zipIdx).foldl (fun n x => if c.w.mode && decide (32 ≤ x.1) then n + 2 ^ x.2 else n) 0)

/-- A queue operation at issue (R370, R371): 0 QPUSH, 1 QPOP, 2 QPEEK. The block as it stands says which element registers are
checked and which entries are translated, each part of one that crosses a line, for every lane; an entry that is only read needs
no room for a version (R140). The operation keeps every element register that a block of another element size may come to name,
and for a pop or peek how many it has given their tags, and which keep theirs. -/
def Ctx.queueOp (c : Ctx) (op : Nat) (d a b : Nat) (sv : BitVec 2) (ord : BitVec 1) : Except Raise State := do
  let xs := c.act.map (fun l => (l, c.addrAt a 0 l))
  let base : OpSpec := { regs := [a, a + 1, d] ++ (if op = 0 then [b] else []), reads := [a, a + 1] ++ (if op = 0 then [b] else [])
                         writes := c.act.map (fun l => c.w.put l d 0 (mkTag 3 0)) }
  c.check base
  c.checkAlign 32 xs
  match ← c.translateAll .atomic xs with
  | .wait t => pure t
  | .go ts =>
    let blocks := (xs.zip ts).map (fun x => (x, QBlock.of (c.s.readNat c.w.tag x.2.ver x.2.key 32)))
    let n : QBlock → Nat := fun q => if q.ok then q.esize / 4 else 0
    let most := maxOf (blocks.map (fun x => n x.2))
    let elems := fieldsFrom (if op = 0 then b else d + 1) most
    let o : OpSpec := { base with
      regs := base.regs ++ elems
      laneReads := if op = 0 then blocks.flatMap (fun x => (fieldsFrom b (n x.2)).map (fun f => (x.1.1.1, f))) else []
      writes := base.writes ++ (if op = 0 then [] else blocks.flatMap (fun x =>
        (fieldsFrom (d + 1) (n x.2)).map (fun f => c.w.put x.1.1.1 f 0 0))) }
    c.check o
    let ents := blocks.zipIdx.filterMap (fun x =>
      let earlier := ((blocks.take x.2).filter (fun y => y.1.2.key == x.1.1.2.key)).length
      (x.1.2.entryFor op earlier).map (fun va => (lineParts va x.1.2.esize).map (fun p => (x.1.1.1.1, (va + p.1) % 2 ^ 64))))
    let ents := ents.flatten
    match ← c.translateAll .atomic ents with
    | .wait t => pure t
    | .go es =>
      let writes := if c.w.tag = 0 ∨ op = 0 then ents.zip es else []
      match ← c.checkVersions ((xs.zip ts) ++ writes) with
      | some t => pure t
      | none =>
        let w ← c.regionOf o
        let (s, w) := c.s.writeTags w o.writes
        let accs := blocks.map (fun x =>
          let l := x.1.1.1
          { lane := l, addr := x.1.1.2, key := x.1.2.key, mt := x.1.2.mt, ver := x.1.2.ver, det := x.1.2.det, size := 32,
            rows := (d :: (if op = 0 then [] else c.elemFields (d + 1))).map (fun f => c.w.rowOf l f)
            data := if op = 0 then (c.elemFields b).map (fun f => c.w.reg l f)
              else [BitVec.ofNat 32 (n x.2), c.keepsTag (c.elemFields (d + 1))] : LaneAcc })
        let sc := ord == 1
        let w := c.attach w (.queueOp op accs) (some c.sf1) (dedup (accs.flatMap (·.rows))) sc sc sv.toNat
        pure (if op = 2 then c.done s w else c.doneEffect s w)

/-- QPUSH (R370). -/
def execQpush (d a b : BitVec 7) (sv : BitVec 2) (ord : BitVec 1) (s : State) : Host.Outcome State Fault Refusal :=
  s.issue (fun c => c.queueOp 0 d.toNat a.toNat b.toNat sv ord)

/-- QPOP (R370). -/
def execQpop (d a : BitVec 7) (sv : BitVec 2) (ord : BitVec 1) (s : State) : Host.Outcome State Fault Refusal :=
  s.issue (fun c => c.queueOp 1 d.toNat a.toNat 0 sv ord)

/-- QPEEK (R370). -/
def execQpeek (d a : BitVec 7) (sv : BitVec 2) (ord : BitVec 1) (s : State) : Host.Outcome State Fault Refusal :=
  s.issue (fun c => c.queueOp 2 d.toNat a.toNat 0 sv ord)

/-- Writes one 32-bit word of a control block. -/
def State.putBlockWord (s : State) (w : Wave) (a : LaneAcc) (off v : Nat) : State :=
  s.waveStore w { a with key := a.key + off, addr := a.addr + off } (toBytes 4 v) false

/-- The words that a push stores for a block's element size: those of its registers, and free values for registers beyond the
window, which only a block that changed since issue names (log entry 82). -/
def State.pushWords (s : State) (a : LaneAcc) (n : Nat) : List Word :=
  (List.range n).map (fun i => (a.data[i]?).getD (Config.freeWord (s.free + i)))

/-- The element registers that a pop or peek of n words writes beyond those whose tags it set at issue take tag RAW (R370). -/
def Wave.retag (w : Wave) (a : LaneAcc) (n : Nat) : Wave :=
  ((((a.rows.drop 1).zipIdx).take n).drop (a.data.headD 0).toNat).foldl (fun (w : Wave) r =>
    if ((a.data[1]?).getD 0).getLsbD r.2 then w else { w with rows := tset w.rows r.1 { w.row r.1 with tag := 0 } }) w

/-- The parts of an entry as they are reached now, each with its place in the entry, or the address and the error at which the
entry's translation stops (R249, R364). -/
def State.entryAccs (s : State) (w : Wave) (a : LaneAcc) (va : Nat) : List (Nat × Nat) → Except (Nat × XErr) (List (Nat × LaneAcc))
  | [] => .ok []
  | (off, n) :: t =>
    let at_ := (va + off) % 2 ^ 64
    match s.xlateFor 2 w.uid (s.domainOf w.launch) at_ .atomic with
    | .error e => .error (at_, e)
    | .ok x => match s.entryAccs w a va t with
      | .error e => .error e
      | .ok l => .ok ((off, { a with addr := at_, key := x.key, mt := x.mt, ver := x.ver, det := x.det, size := n }) :: l)

/-- The element that the parts of an entry hold. -/
def State.readEntry (s : State) (w : Wave) (l : List (Nat × LaneAcc)) : Nat :=
  ofBytes (l.flatMap (fun e => s.readBytes w.tag e.2.ver e.2.key e.2.size))

/-- Writes an element to the parts of an entry. -/
def State.writeEntry (s : State) (w : Wave) (l : List (Nat × LaneAcc)) (bytes : List Byte) : State :=
  l.foldl (fun (s : State) e => s.waveStore w e.2 ((bytes.drop e.1).take e.2.size) false) s

/-- One lane's queue operation at the block's home slice (R370), or the address and error at which the entry's translation
stops. -/
def State.queueLane (s : State) (w : Wave) (op : Nat) (a : LaneAcc) : Except (Nat × XErr) (State × List LaneWrite) :=
  let s := (s.recall a.key).touch w.tag [a]
  let out : List (Word × Bool) → List LaneWrite := fun v => resultWrites a.rows a.lane v
  let v := s.readNat w.tag a.ver a.key 32
  let q := QBlock.of v
  let bad : Nat → List LaneWrite := fun n => out ((a.rows.take (if op = 0 then 1 else 1 + n)).map (fun _ => (0, true)))
  if s.anyPoison w.tag a.ver a.key 32 then .ok (s.poisonedAtomic w a.addr, bad (q.esize / 4))
  else if !q.ok then .ok (s, out [(queueStatus 3 q.count, false)])
  else if op = 0 && q.count = q.cap then
    .ok (s.putBlockWord w a 24 (q.flags ||| 1), out [(queueStatus 1 q.count, false)])
  else if op ≠ 0 && q.count = 0 then
    .ok (s.putBlockWord w a 24 (q.flags ||| 2), out [(queueStatus 2 q.count, false)])
  else
    let va := q.entry (if op = 0 then q.tail else q.head)
    let n := q.esize / 4
    match s.entryAccs w a va (lineParts va q.esize) with
    | .error e => .error e
    | .ok l =>
      if op = 0 then
        let s := ({ s with free := s.free + 4 } : State).writeEntry w l ((s.pushWords a n).flatMap (fun y => toBytes 4 y.toNat))
        .ok (s.putBlockWord w a 20 ((q.tail + 1) % 2 ^ 32), out [(queueStatus 0 (q.count + 1), false)])
      else
        let s := s.touch w.tag (l.map (·.2))
        if l.any (fun e => s.anyPoison w.tag e.2.ver e.2.key e.2.size) then .ok (s.poisonedAtomic w va, bad n)
        else
          let v := s.readEntry w l
          let vals := (List.range n).map (fun i => (BitVec.ofNat 32 (v / 2 ^ (32 * i)), false))
          let s := s.modWave w.uid (fun w => w.retag a n)
          if op = 1 then
            .ok (s.putBlockWord w a 16 ((q.head + 1) % 2 ^ 32), out ((queueStatus 0 (q.count - 1), false) :: vals))
          else .ok (s, out ((queueStatus 0 q.count, false) :: vals))

/-- The lanes of a queue operation in ascending order (R370), or where a translation stops. -/
def State.queueLanes (s : State) (w : Wave) (op : Nat) : List LaneAcc → Except (Nat × XErr) (State × List LaneWrite)
  | [] => .ok (s, [])
  | a :: t =>
    match s.queueLane w op a with
    | .error e => .error e
    | .ok (s1, ws) =>
      match s1.queueLanes w op t with
      | .error e => .error e
      | .ok (s2, vs) => .ok (s2, ws ++ vs)

/-- What a queue operation gives whose entry turns out to fault once it has left the wave, which only a block or a mapping that
changed since issue brings about: nothing is performed in any lane (R364), and each lane gets status 3 (DESIGN CHOICE; log entry
95). -/
def State.queueFaulted (s : State) (w : Wave) (accs : List LaneAcc) : List LaneWrite :=
  accs.flatMap (fun a => resultWrites a.rows a.lane
    [(queueStatus 3 (QBlock.of (s.readNat w.tag a.ver a.key 32)).count, s.anyPoison w.tag a.ver a.key 32)])

/-- A queue operation ends with its results. -/
def State.queueEnd (s : State) (w : Wave) (p : Pend) (accs : List LaneAcc) (ws : List LaneWrite) : State :=
  let ws := s.received w accs ws
  ((s.came w accs).modWave w.uid (fun x => ((x.unpend p.id).deliver ws).sawPoison (ws.any (·.poison)))).goneOn 2 w.uid

/-- Performs a queue operation whole; where an entry's translation waits, it stays pending and the fault is posted. -/
def State.performQueue (s : State) (w : Wave) (p : Pend) : State :=
  match p.kind with
  | .queueOp op accs =>
    if s.isWaiting 2 w.uid then s
    else match s.queueLanes w op accs with
      | .error (va, .miss level) =>
        s.waitOn 2 w.uid (s.domainOf w.launch) va level (accessBits .atomic false) (s.whoOf w).launch
          (BitVec.ofNat 32 w.lcore)
      | .error (_, .cause _) => s.queueEnd w p accs (s.queueFaulted w accs)
      | .ok (s1, ws) => s1.queueEnd w p accs ws
  | _ => s

/-- QUEUE_OP_PERFORM (R370). -/
def execQueueOpPerform (w p : Nat) (s : State) : Host.Outcome State Fault Refusal :=
  .next (match s.pending? w p with
    | none => s
    | some (x, q) => s.performQueue x q)

end Sys2Proof.Machine
end

