-- ==== Sys2Proof/Machine/Barriers.lean ====
section
/-!
DEFINITION. Fences (R372) and barriers (R373 to R377).
-/

namespace Sys2Proof.Machine

/-- FENCE (R372): kind 0 acquire, 1 release, 2 both, 3 SC. -/
def execFence (sv kb : BitVec 2) (s : State) : Host.Outcome State Fault Refusal :=
  s.issue (fun c =>
    pure (c.done c.s (c.attach c.w (.fence kb.toNat) none [] false false sv.toNat)))

/-- A barrier: a named one of a team, or the cluster barrier of a unit (R373, R377). -/
inductive BarSite where
  | named (team n : Nat)
  | cluster (grp : Nat)
  deriving DecidableEq, Repr

/-- A barrier no wave has reached: IDLE, phase 0 (R373). -/
def Barrier.idle : Barrier := { phase := 0, filling := false, expected := 0, arrived := [] }

/-- The state of a barrier. -/
def State.barrier (s : State) : BarSite → Barrier
  | .named t n => match s.team? t with
    | some x => tgetD x.barriers n Barrier.idle
    | none => Barrier.idle
  | .cluster g => match tget s.grps g with
    | some x => x.cbar
    | none => Barrier.idle

/-- Puts a barrier's state back. -/
def State.setBarrier (s : State) (b : Barrier) : BarSite → State
  | .named t n => s.modTeam t (fun x => { x with barriers := tset x.barriers n b })
  | .cluster g => s.modGrp g (fun x => { x with cbar := b })

/-- The waves, not retired, that a barrier may count (R374, R377). -/
def State.barWaves (s : State) : BarSite → List Wave
  | .named t _ => (tvals s.waves).filter (fun w => w.team == t)
  | .cluster g => (tvals s.waves).filter (fun w => match s.team? w.team with
    | some x => x.grp == g
    | none => false)

/-- What a wave that waits at a barrier for a phase waits for. -/
def BarSite.waitFor (site : BarSite) (phase : Nat) : Wait :=
  match site with
  | .named _ n => .barrier n phase
  | .cluster _ => .cbar phase

/-- What a wave that arrived already in a phase waits for (R374). -/
def BarSite.waitAgain (site : BarSite) (phase count : Nat) (block : Bool) : Wait :=
  match site with
  | .named _ n => .barrierAgain n phase count block
  | .cluster _ => .cbarAgain phase

/-- The arrival that a wait makes when a phase of a barrier ends: its count and whether the wave then waits. -/
def BarSite.againOf (site : BarSite) (phase : Nat) (x : Wait) : Option (Nat × Bool) :=
  match site, x with
  | .named _ n, .barrierAgain m p count block => if m = n ∧ p = phase then some (count, block) else none
  | .cluster _, .cbarAgain p => if p = phase then some (0, true) else none
  | _, _ => none

/-- An arrival at a barrier: the wave, the count it names, whether the wave then waits, and whether it is an arrival of the code
that the wave's handler interrupted. -/
structure Arrives where
  wave : Nat
  count : Nat
  block : Bool
  held : Bool
  deriving DecidableEq, Repr

/-- The arrivals that a wave waits to make when a phase ends: that of the code that a handler interrupted, then its own. -/
def BarSite.agains (site : BarSite) (phase : Nat) (w : Wave) : List Arrives :=
  let of_ : Bool → Option Wait → List Arrives := fun held x => ((x.bind (site.againOf phase)).toList).map (fun y =>
    { wave := w.uid, count := y.1, block := y.2, held := held })
  of_ true w.heldWait ++ of_ false (some w.wait)

/-- A wait of a wave, or of the code that its handler interrupted. -/
def Wave.setWait (w : Wave) (held : Bool) (x : Wait) : Wave :=
  if held then { w with frame := w.frame.map (fun g => { g with wait := x }) } else { w with wait := x }

/-- Whether a phase is complete (R375): the expected count is met, or every live wave has arrived. -/
def State.barComplete (s : State) (site : BarSite) (b : Barrier) : Bool :=
  b.filling && (if b.expected = 0 then (s.barWaves site).all (fun w => b.arrived.contains w.uid)
    else b.arrived.length == b.expected)

/-- Makes arrivals at a barrier one after the other (R374, R375): the first of a phase fixes the count, a second one by the
same wave waits for the next phase, and a phase that completes releases its waiters and lets those arrivals be made. -/
def State.barRun (site : BarSite) : Nat → State → List Arrives → State
  | 0, s, _ => s
  | f + 1, s, xs =>
    let b := s.barrier site
    if s.barComplete site b then
      let again := (s.barWaves site).flatMap (site.agains b.phase.toNat)
      State.barRun site f (s.setBarrier { Barrier.idle with phase := b.phase + 1 } site) (again ++ xs)
    else match xs with
      | [] => s
      | a :: rest =>
        let phase := b.phase.toNat
        if b.filling && b.arrived.contains a.wave then
          State.barRun site f (s.modWave a.wave (fun w => w.setWait a.held (site.waitAgain phase a.count a.block))) rest
        else
          let b1 := if b.filling then { b with arrived := b.arrived ++ [a.wave] }
            else { b with filling := true, expected := a.count, arrived := [a.wave] }
          State.barRun site f ((s.setBarrier b1 site).modWave a.wave (fun w =>
            w.setWait a.held (if a.block then site.waitFor phase else .none))) rest

/-- The steps that settling a barrier can take: two for each wave of a unit and one more. -/
def barFuel : Nat := 1100

/-- The number of waves that a barrier instruction expects (R374): 0 for every live wave. -/
def Ctx.barCount (c : Ctx) (cc : BitVec 1) (b : BitVec 7) : Nat :=
  if cc = 1 then (c.w.reg c.first b.toNat).toNat % 128 else 0

/-- BARA and BARW (R374, R375). -/
def Ctx.barrier (c : Ctx) (n : Nat) (cc : BitVec 1) (b : BitVec 7) (block : Bool) : Except Raise State := do
  let fs := if cc = 1 then [b.toNat] else []
  c.checkRegs fs
  c.checkPoison [] fs []
  let w ← c.region (fs.map (fun f => c.w.rowOf c.first f)) []
  let s := c.doneEffect c.s (w.oweAll 1)
  pure ((State.barRun (.named c.w.team n) barFuel s
    [{ wave := c.w.uid, count := c.barCount cc b, block := block, held := false }]).yieldTurn c.w)

/-- BARA (R374): one arrival; the wave continues. -/
def execBara (n : BitVec 7) (cc : BitVec 1) (b : BitVec 7) (s : State) : Host.Outcome State Fault Refusal :=
  s.issue (fun c => c.barrier n.toNat cc b false)

/-- BARW (R375): one arrival; the wave waits for the phase. -/
def execBarw (n : BitVec 7) (cc : BitVec 1) (b : BitVec 7) (s : State) : Host.Outcome State Fault Refusal :=
  s.issue (fun c => c.barrier n.toNat cc b true)

/-- CBAR (R377). -/
def execCbar (s : State) : Host.Outcome State Fault Refusal :=
  s.issue (fun c =>
    let s := c.doneEffect c.s (c.w.oweAll 2)
    let g := match c.s.team? c.w.team with
      | some t => t.grp
      | none => 0
    pure ((State.barRun (.cluster g) barFuel s
      [{ wave := c.w.uid, count := 0, block := true, held := false }]).yieldTurn c.w))

/-- A wave has left: the phases that count every live wave may complete (R376). -/
def State.barLeave (s : State) (team : Nat) : State :=
  match s.team? team with
  | none => s
  | some t =>
    let s1 := (tkeys t.barriers).foldl (fun s n => State.barRun (.named team n) barFuel s []) s
    State.barRun (.cluster t.grp) barFuel s1 []

end Sys2Proof.Machine
end

