-- ==== Sys2Proof/Machine/Copies.lean ====
section
/-!
DEFINITION. Bulk copies (R272 to R280): what they name at issue, and the steps of the copy engine.
-/

namespace Sys2Proof.Machine

/-- The bulk operations in flight on a core (R279). -/
def State.bulkOn (s : State) (core : Nat) : Nat := ((tvals s.bulk).filter (fun b => b.core == core)).length

/-- The waves of a core that hold a run slot in STALL for a bulk operation, in the order in which they stalled, each with its
operation's class (R279). -/
def State.stalledOn (s : State) (core : Nat) : List (Nat × Nat) :=
  let ws := (tvals s.waves).filterMap (fun w => match w.stall with
    | some (k, cls) => if w.pcore = core && decide (cls < 2) then some (k, w.uid, cls) else none
    | none => none)
  (sortBy (fun a b => decide (a.1 ≤ b.1)) ws).map (·.2)

/-- How many of the waves that hold, in their order, a number of free places on their core will admit (R279). -/
def State.admits (s : State) : Nat → List (Nat × Nat) → Nat
  | n, (uid, cls) :: t => if n = 0 || decide (s.engCount uid cls ≥ 255) then 0 else 1 + s.admits (n - 1) t
  | _, [] => 0

/-- Whether a wave may start another bulk operation of a class now (R279): its counter is below 255 and its core has fewer than
128 in flight, those counted whose holding instruction takes a free place first; one that holds is the first that does. -/
def Ctx.mayBulk (c : Ctx) (cls : Nat) : Bool :=
  let used := c.s.bulkOn c.w.pcore
  let held := c.s.stalledOn c.w.pcore
  decide (used < 128) && decide (c.s.engCount c.w.uid cls < 255) &&
    (if c.w.stall.isSome then held.head? == some (c.w.uid, cls)
      else decide (used + c.s.admits (128 - used) held < 128))

/-- Starts a bulk operation: it counts on its class's counter from now on (R279, R280). `reads` and `writes` are the bytes that
it is to read and to write. -/
def Ctx.startBulk (c : Ctx) (w : Wave) (cls major : Nat) (kind : BulkKind) (colPrivate : Bool) (reads writes : Nat) : State :=
  let (eng, s) := c.s.engAdd w.uid cls
  let (id, s) := s.newId
  let b : Bulk :=
    { id := id, wave := w.uid, team := w.team, launch := w.launch, core := w.pcore, tag := w.tag, eng := eng,
      major := major, kind := kind, colPrivate := colPrivate, faultWait := none, cancelled := [],
      serial := c.r.serial, before := c.w.nextPend, data := Taken.ofLength reads, unput := rangeOf 0 writes, carried := false }
  c.doneEffect { s with bulk := tset s.bulk id b } { w with stall := none }

/-- The base and extent that a record names, from the lowest active lane (R272). -/
def Ctx.record (c : Ctx) (e : Nat) : Nat × Nat := ((c.w.reg c.first e).toNat, (c.w.reg c.first (e + 1)).toNat)

/-- The alignment raise of an instruction that acts once for the wave: the lowest of the values that offend (R391). -/
def Ctx.checkOnce (c : Ctx) (bad : List (Bool × Nat)) : Except Raise Unit :=
  let vs := (bad.filter (·.1)).map (·.2)
  if vs.isEmpty then .ok () else .error (c.raiseAll 3 (minOf 0 vs))

/-- The limits of a base-and-extent record (R272). -/
def recordLimits (r : Nat × Nat) : List (Bool × Nat) :=
  [(r.1 % 4 != 0, r.1), (r.2 % 4 != 0 || decide (r.2 > 262144), r.2)]

/-- Whether a page of a range of memory is column-private; `unknown` says what counts for one that is not mapped yet. -/
def State.privateRange (s : State) (dom : Nat) (unknown : Bool) (va n : Nat) : Bool :=
  (List.range (n / 4096 + 2)).any (fun i =>
    match s.translate dom (Nat.min (va + 4096 * i) (va + n - 1)) .write with
    | .ok x => x.mt == 2
    | .error (.miss _) => unknown
    | .error _ => false)

/-- Whether a range of memory that a copy writes holds its region open (R170): a page of it lies in column-private memory, or is
not mapped yet and may (DESIGN CHOICE: what such a page will be is not known when the copy issues; log entry 66). -/
def Ctx.intoPrivate (c : Ctx) (va n : Nat) : Bool := c.s.privateRange c.dom true va n

/-- CPYIN and CPYOUT at issue (R273). The base-and-extent record may stand at an odd register: R272 calls it two consecutive
registers and no pair (DEDUCED from R43 and R272; log entry 68). -/
def Ctx.copy (c : Ctx) (d a : Nat) (out : Bool) : Except Raise State := do
  let fs := [d, d + 1, a, a + 1]
  let va := c.addrAt a 0 c.first
  let r := c.record d
  c.checkRegs fs
  c.checkPoison [] fs []
  c.checkOnce (recordLimits r ++ [(va % 4 != 0, va)])
  c.checkScratch (c.act.map (fun l => (l, r.1, r.2)))
  let w ← c.region (fs.map (fun f => c.w.rowOf c.first f)) []
  if r.2 = 0 then pure (c.doneEffect c.s w)
  else if !c.mayBulk 0 then pure (c.stalled 0)
  else pure (c.startBulk w 0 0x2C (if out then .copyOut va r.1 r.2 else .copyIn va r.1 r.2) (out && c.intoPrivate va r.2) r.2 r.2)

/-- CPYIN (R273). -/
def execCpyin (d a : BitVec 7) (_t : BitVec 1) (s : State) : Host.Outcome State Fault Refusal :=
  s.issue (fun c => c.copy d.toNat a.toNat false)

/-- CPYOUT (R273). -/
def execCpyout (d a : BitVec 7) (_t : BitVec 1) (s : State) : Host.Outcome State Fault Refusal :=
  s.issue (fun c => c.copy d.toNat a.toNat true)

/-- CPYGATH and CPYSCAT at issue (R274): each active lane's address and scratchpad offset. -/
def Ctx.gather (c : Ctx) (d a esize : Nat) (out : Bool) : Except Raise State := do
  let fs := [d, d + 1]
  let r := c.record d
  let stride := r.2
  let xs := c.act.map (fun l => (l, c.addrAt a 0 l, (r.1 + l * stride) % 2 ^ 32))
  c.checkRegs (fs ++ [a, a + 1])
  c.checkPoison [a, a + 1] fs []
  c.checkOnce [(r.1 % 4 != 0, r.1), (stride % 4 != 0 || stride == 0 || stride % esize != 0, stride)]
  c.checkAlign esize (xs.map (fun x => (x.1, x.2.1)))
  c.checkScratch (xs.map (fun x => (x.1, x.2.2, esize)))
  let w ← c.region (fs.map (fun f => c.w.rowOf c.first f) ++ c.rowKeys [a, a + 1]) []
  if !c.mayBulk 1 then pure (c.stalled 1)
  else
    let kind := if out then BulkKind.scatter (xs.map (fun x => (x.2.1, x.2.2))) esize
      else .gather (xs.map (fun x => (x.2.1, x.2.2))) esize
    let n := xs.length * esize
    pure (c.startBulk w 1 0x2C kind (out && xs.any (fun x => c.intoPrivate x.2.1 esize)) n n)

/-- CPYGATH (R274). -/
def execCpygath (d a : BitVec 7) (_t : BitVec 1) (z : BitVec 2) (s : State) : Host.Outcome State Fault Refusal :=
  s.issue (fun c => c.gather d.toNat a.toNat (4 * 2 ^ z.toNat) false)

/-- CPYSCAT (R274). -/
def execCpyscat (d a : BitVec 7) (_t : BitVec 1) (z : BitVec 2) (s : State) : Host.Outcome State Fault Refusal :=
  s.issue (fun c => c.gather d.toNat a.toNat (4 * 2 ^ z.toNat) true)

/-- The slots that the copies and the waves before it on a ring still take (R275, R284). -/
def State.ringAhead (s : State) (team n : Nat) : Nat :=
  (s.ring team n).waiters.foldl (fun t x => t + match x with
    | .racq _ => 1
    | .rget _ => 0
    | .copy id => match tget s.bulk id with
      | some b => (match b.kind with
        | .ring _ _ cnt done slots => cnt - done - slots.length
        | _ => 0)
      | none => 0) 0

/-- CPYRING (R275): the copy joins those that wait for the ring's free slots; the slots that it will take are checked at
issue (R264, R272). -/
def execCpyring (d a r : BitVec 7) (s : State) : Host.Outcome State Fault Refusal :=
  s.issue (fun c =>
    let n := r.toNat
    let fs := [d.toNat, a.toNat, a.toNat + 1]
    let va := c.addrAt a.toNat 0 c.first
    let cnt := (c.w.reg c.first d.toNat).toNat
    do
      c.checkRegs fs
      c.checkPoison [] fs []
      c.checkOnce [(va % 4 != 0, va)]
      let ring ← c.ringReady n
      if cnt = 0 ∨ cnt > ring.count then throw (c.boundsRaise 3 none)
      let from_ := ring.acq.toNat + c.s.ringAhead c.w.team n
      c.checkScratch (c.act.flatMap (fun l => (List.range cnt).map (fun i => (l, ring.offset (from_ + i), ring.size))))
      let w ← c.region (fs.map (fun f => c.w.rowOf c.first f)) []
      if !c.mayBulk 0 then pure (c.stalled 0)
      else
        let s := c.startBulk w 0 0x2C (.ring va n cnt 0 []) false (cnt * ring.size) (cnt * ring.size)
        let id := maxOf (tkeys s.bulk)
        let rg := s.ring c.w.team n
        pure (s.setRing c.w.team n { rg with waiters := rg.waiters ++ [.copy id] }))

/-- PREF (R276): a hint, with the register checks of R200 only. -/
def execPref (a : BitVec 7) (_l : BitVec 1) (s : State) : Host.Outcome State Fault Refusal :=
  s.issue (fun c => do
    c.checkRegs [a.toNat, a.toNat + 1]
    let w ← c.region (c.rowKeys [a.toNat, a.toNat + 1]) []
    pure (c.done c.s w))

/-- One stretch of a copy: its place among the operation's bytes, their number, the address in memory and the offset in
scratchpad. -/
structure Seg where
  off : Nat
  len : Nat
  va : Nat
  scr : Nat
  deriving DecidableEq, Repr

/-- The stretches of a copy in the order of R274; of a CPYRING, those whose slots it has. -/
def State.segs (s : State) (b : Bulk) : List Seg :=
  match b.kind with
  | .copyIn va base n | .copyOut va base n => [{ off := 0, len := n, va := va, scr := base }]
  | .gather elems z | .scatter elems z => elems.zipIdx.map (fun x => { off := x.2 * z, len := z, va := x.1.1, scr := x.1.2 })
  | .ring va n _ done slots =>
    let r := s.ring b.team n
    slots.zipIdx.map (fun x => { off := (done + x.2) * r.size, len := r.size, va := va + (done + x.2) * r.size,
                                 scr := r.base + x.1 * r.size })
  | _ => []

/-- Whether a copy goes from scratchpad to memory. -/
def BulkKind.toMem : BulkKind → Bool
  | .copyOut _ _ _ | .scatter _ _ => true
  | _ => false

/-- A stretch as the source of its copy. -/
def Seg.source (g : Seg) (toMem : Bool) : Source :=
  { off := g.off, len := g.len, scratch := toMem, addr := if toMem then g.scr else g.va }

/-- The parts of some stretches that a copy has still to write between two places, cut at the sectors of memory: the stretch,
the place and the number of bytes. -/
def Bulk.parts (b : Bulk) (gs : List Seg) (lo hi : Nat) : List (Seg × Nat × Nat) :=
  gs.flatMap (fun g => (pieces g.va g.len).flatMap (fun p =>
    (meetRanges (meetRanges b.unput lo hi) (g.off + p.1) (g.off + p.1 + p.2)).map (fun r => (g, r.1, r.2 - r.1))))

/-- One part of a copy is moved: the bytes that it has read, and the others as they stand now, are written. The flag says that
poison was among them (R415). -/
def State.movePart (s : State) (w : Wave) (e : Eng) (b : Bulk) (x : Seg × Nat × Nat) : Except (State × Stop) (State × Bool) :=
  let (g, off, n) := x
  match s.fetch w e b.data (g.source b.kind.toMem) off n with
  | (_, some st) => .error (s, st)
  | (bs, none) =>
    let s := s.touchRanges w e [g.source b.kind.toMem] [(off, off + n)]
    let p := bs.any (·.2)
    if b.kind.toMem then
      match s.writePiece e (g.va + (off - g.off)) bs with
      | .error (s1, x) => .error (s1, { off := off, va := g.va + (off - g.off), err := x })
      | .ok s1 => .ok (s1, p)
    else .ok (s.scratchWrite w (g.scr + (off - g.off)) bs, p)

/-- Parts of a copy are moved in order, up to the first that stops (R277, R278). -/
def State.moveParts (s : State) (w : Wave) (e : Eng) (b : Bulk) :
    List (Seg × Nat × Nat) → Bool → State × Option Stop × Bool
  | [], p => (s, none, p)
  | x :: t, p =>
    match s.movePart w e b x with
    | .error (s1, st) => (s1, some st, p)
    | .ok (s1, q) => State.moveParts s1 w e b t (p || q)

/-- What a copy has still to write is moved, of some of its stretches, up to the first byte that stops it; the flag says that
poison was carried, here or before (R415). -/
def State.runCopy (s : State) (w : Wave) (e : Eng) (b : Bulk) (gs : List Seg) : State × Option Stop × Bool :=
  s.moveParts w e b (b.parts gs 0 (maxOf (b.unput.map (·.2)))) b.carried

/-- The record of event 1 of an operation that carried poison (R415): a memory access of its wave returned or wrote poison
(R420). -/
def State.carriedPoison (s : State) (w : Wave) (source : Nat) (p : Bool) : State :=
  if p then
    let (a, s1) := s.fresh
    (s1.waveRecord w source 1 a.toNat []).modWave w.uid (fun w => w.sawPoison true)
  else s

/-- Whether a copy into column-private memory holds the wave's region open (R170). -/
def State.regionHeld (s : State) (w : Wave) : Bool := (tvals s.bulk).any (fun b => b.wave == w.uid && b.colPrivate)

/-- The entry of the latest region becomes the record once no copy holds an earlier one (R170), in the frame of a handler as
well. -/
def Wave.takeLater (w : Wave) : Wave :=
  let w1 := match w.laterRegion with
    | some x => { w with region := x.1, regionSerial := x.2, laterRegion := none }
    | none => w
  { w1 with frame := w1.frame.map (fun f => match f.later with
      | some x => { f with entry := x.1, serial := x.2, later := none }
      | none => f) }

/-- The region entry record of a wave when one of its bulk operations has ended (R170). -/
def State.freeRegion (s : State) (wave : Nat) : State :=
  match s.wave? wave with
  | some w => if s.regionHeld w then s else s.setWave w.takeLater
  | none => s

/-- A bulk operation leaves its counter and the engine (R280). -/
def State.endBulk (s : State) (b : Bulk) : State :=
  (({ s with bulk := tdel s.bulk b.id } : State).engDone b.eng).freeRegion b.wave

/-- An engine's replayable fault: its operation waits on the record of the page (R250). -/
def State.engMiss (s : State) (launch lcore va level : Nat) (use : Use) : State × Nat :=
  let lid := match s.launch? launch with
    | some l => l.id
    | none => BitVec.allOnes 64
  s.replayMiss (s.domainOf launch) va level (accessBits use true) lid (BitVec.ofNat 32 lcore)

/-- Whether the stops of a bulk operation are reads. -/
def BulkKind.readsMemory : BulkKind → Bool
  | .copyIn _ _ _ | .gather _ _ | .ring _ _ _ _ _ | .digest _ _ _ => true
  | _ => false

/-- A bulk operation waits for a replayable fault (R278). -/
def State.bulkWait (s : State) (b : Bulk) (w : Wave) (st : Stop) (level : Nat) : State :=
  let (s1, id) := s.engMiss b.launch w.lcore st.va level (if b.kind.readsMemory then .read else .write)
  { s1 with bulk := tmod s1.bulk b.id (fun x => { x with faultWait := some id }) }

/-- The record of a bulk operation that a fault stopped, which marks the launch faulted (R278). -/
def State.bulkFault (s : State) (b : Bulk) (w : Wave) (cause off va detail : Nat) : State :=
  (s.report b.launch (s.whoOf w) { kind := 1, source := b.major, cause := cause, value := off, writer := 0, addr := va,
                                   detail := detail }).markFaulted b.launch

/-- The copies whose completion is the copy engine's own (R277). -/
def BulkKind.isCopy : BulkKind → Bool
  | .copyIn _ _ _ | .copyOut _ _ _ | .gather _ _ | .scatter _ _ => true
  | _ => false

/-- An engine reads some of a bulk operation's bytes, between two places, as they stand now (R277, R350): up to the first that
does not translate, and only where the order of its wave's accesses lets it. -/
def State.bulkTake (s : State) (b : Bulk) (w : Wave) (lo hi : Nat) : Taken × Option Stop :=
  let xs := s.sources b
  let e := s.bulkEng b w (s.dropsTag b.tag)
  let l := meetRanges b.data.left lo hi
  if s.mayRead w b.before b.id (s.rangePlaces w e xs l) then s.takeRanges w e xs (splitRanges xs l) b.data else (b.data, none)

/-- Changes a bulk operation. -/
def State.modBulk (s : State) (id : Nat) (f : Bulk → Bulk) : State := { s with bulk := tmod s.bulk id f }

/-- What an engine has read of a bulk operation is kept, and the lines that it read are converted (R149). -/
def State.bulkTook (s : State) (b : Bulk) (w : Wave) (t : Taken) : State :=
  (s.touchRanges w (s.bulkEng b w (s.dropsTag b.tag)) (s.sources b) (t.since b.data)).modBulk b.id (fun x => { x with data := t })

/-- The places that a stretch of a copy is written to. -/
def State.destPlaces (s : State) (w : Wave) (e : Eng) (toMem : Bool) (g : Seg) : List (Nat × Nat × Nat) :=
  if toMem then s.memPlaces e g.va g.len else s.scratchPlaces w 8 g.scr g.len

/-- Some bytes of a copy are written ahead of the rest (R277), between two places: of a gather or scatter only those that no
lower lane has still to write (R274). Where one of them does not translate, nothing is. -/
def State.bulkPut (s : State) (b : Bulk) (w : Wave) (lo hi : Nat) : State :=
  let e := s.bulkEng b w (s.dropsTag b.tag)
  let gs := s.segs b
  let waits : Seg → Bool := fun g => gs.any (fun h => decide (h.off < g.off) && !(meetRanges b.unput h.off (h.off + h.len)).isEmpty &&
    rangesMeet (s.destPlaces w e b.kind.toMem h) (s.destPlaces w e b.kind.toMem g))
  let xs := (b.parts gs lo hi).filter (fun x => !waits x.1)
  if !s.bulkMayRead b w then s
  else match s.moveParts w e b xs b.carried with
    | (s1, none, p) => s1.modBulk b.id (fun x =>
        { x with unput := xs.foldl (fun l y => cutRanges l y.2.1 (y.2.1 + y.2.2)) x.unput, carried := p })
    | (_, some _, _) => s

/-- A copy, gather or scatter completes whole (R277); a replayable miss leaves it waiting. -/
def State.completeCopy (s : State) (b : Bulk) (w : Wave) : State :=
  if !s.bulkMayRead b w then s else
  let (s1, st, p) := s.runCopy w (s.bulkEng b w (s.dropsTag b.tag)) b (s.segs b)
  match st with
  | none => (s1.carriedPoison w 13 p).endBulk b
  | some x => match x.err with
    | .miss level => s.bulkWait b w x level
    | .cause _ => s

/-- The free slots at a ring's acquire index taken in ring order, at most a number of them, and their indices. -/
def Ring.takeFree (r : Ring) : Nat → Ring × List Nat
  | 0 => (r, [])
  | k + 1 =>
    if r.at r.acq.toNat == 0 then
      let out := r.take.takeFree k
      (out.1, (r.acq.toNat % r.count) :: out.2)
    else (r, [])

/-- CPYRING_SLOT_ACQUIRE (R275): the copy, first among those that wait for a free slot of its ring, takes each slot that is
free, in ring order, until it has all it wants. -/
def execCpyringSlotAcquire (b : Nat) (s : State) : Host.Outcome State Fault Refusal :=
  .next (match tget s.bulk b with
    | some x =>
      match x.kind with
      | .ring va n cnt done slots =>
        let r := s.ring x.team n
        let first := (r.waiters.find? RingWaiter.wantsFree) == some (.copy b)
        if first && r.at r.acq.toNat == 0 then
          let (r1, got) := r.takeFree (cnt - done - slots.length)
          let all := done + slots.length + got.length == cnt
          let r2 := { r1 with held := got ++ r.held,
                              waiters := if all then r.waiters.erase (.copy b) else r.waiters }
          let s1 : State := { s with bulk := tset s.bulk b { x with kind := .ring va n cnt done (slots ++ got) } }
          s1.updateRing x.team n r2
        else s
      | _ => s
    | none => s)

/-- CPYRING_SLOT_PUBLISH (R275): the slot's bytes are written and it is published; the copy completes with its last slot. -/
def execCpyringSlotPublish (b : Nat) (s : State) : Host.Outcome State Fault Refusal :=
  .next (match tget s.bulk b with
    | none => s
    | some x =>
      match x.kind, s.wave? x.wave with
      | .ring va n cnt done (slot :: rest), some w =>
        if !s.bulkMayRead x w || x.faultWait.isSome then s else
        let (s1, st, p) := s.runCopy w (s.bulkEng x w (s.dropsTag x.tag)) x ((s.segs x).take 1)
        match st with
        | some e => (match e.err with
          | .miss level => s.bulkWait x w e level
          | .cause _ => s)
        | none =>
          let r := s1.ring x.team n
          let gone := (s.segs x).take 1
          let s3 := if done + 1 = cnt then (s1.carriedPoison w 13 p).endBulk x
            else s1.modBulk b (fun y => { y with
              kind := .ring va n cnt (done + 1) rest, carried := p
              data := { y.data with left := gone.foldl (fun l g => cutRanges l g.off (g.off + g.len)) y.data.left }
              unput := gone.foldl (fun l g => cutRanges l g.off (g.off + g.len)) y.unput })
          s3.updateRing x.team n { r.put slot 2 with held := r.held.erase slot }
      | _, _ => s)

/-- A bulk copy stops at a non-replayable or version fault (R278): the bytes before it stay written, its counter falls and a
record goes to the launch's fault queue. A CPYRING stops in the first slot that it has not published (R275), and its slots stay
PRODUCING and are no longer held. -/
def State.stopCopy (s : State) (b : Bulk) (w : Wave) : State :=
  let gs := match b.kind with
    | .ring .. => (s.segs b).take 1
    | _ => s.segs b
  let (s1, st, p) := s.runCopy w (s.bulkEng b w (s.dropsTag b.tag)) b gs
  match st with
  | none => s
  | some e => match e.err with
    | .miss _ => s
    | .cause k =>
      let s2 := s1.carriedPoison w 13 p
      match b.kind with
      | .ring _ n _ _ (slot :: rest) =>
        let r := s2.ring b.team n
        let r1 := { r with held := r.held.filter (fun i => !(slot :: rest).contains i),
                           waiters := r.waiters.erase (.copy b.id) }
        let s3 := s2.updateRing b.team n r1
        (s3.bulkFault b w k e.off e.va (r.base + slot * r.size)).endBulk b
      | _ => (s2.bulkFault b w k e.off e.va 0).endBulk b

end Sys2Proof.Machine
end

