-- ==== Sys2Proof/Machine/BlockStore.lean ====
section
/-!
DEFINITION. The block store (R141, R142, R262, R263, R287 to R291).
-/

namespace Sys2Proof.Machine

/-- Whether the block store is enabled (R263). -/
def State.kvOn (s : State) : Bool := s.regs.kvcfg.getLsbD 16

/-- The block size in bytes (R263). -/
def State.kvBlockSize (s : State) : Nat := 2 ^ (14 + bits s.regs.kvcfg.toNat 1 0)

/-- The blocks the store holds (R263). -/
def State.kvTotal (s : State) : Nat := bits s.regs.kvcfg.toNat 15 8 * 2 ^ 28 / s.kvBlockSize

/-- The blocks that a column still has room for (R263): none where its stack is offline (R261). -/
def State.kvRoom (s : State) (col : Nat) : Nat :=
  if (tgetD s.columns col Column.reset).offline then 0
  else s.kvTotal / 16 - ((tvals s.kvBlocks).filter (fun b => b.column == col)).length

/-- The free blocks. -/
def State.kvFreeBlocks (s : State) : Nat := (List.range 16).foldl (fun n c => n + s.kvRoom c) 0

/-- The free names: the tables hold twice as many names as blocks (R263). -/
def State.kvFreeNames (s : State) : Nat := 2 * s.kvTotal - s.kvNames.length

/-- The names that resolve to a block: its reference count (R262). -/
def State.kvRefs (s : State) (block : Nat) : Nat := (s.kvNames.filter (fun n => n.block == block)).length

/-- The binding of a name that a tag's caller sees: its own, else the committed one, of a block that no other branch owns
(R142). -/
def State.kvBinding (s : State) (dom name : Nat) (tag : BitVec 4) : Option KvName :=
  let seen : KvName → Bool := fun n => match tget s.kvBlocks n.block with
    | some b => b.owner == tag || b.owner == 0
    | none => false
  match s.kvNames.find? (fun n => n.domain == dom && n.name == name && n.tag == tag && seen n) with
  | some n => some n
  | none => s.kvNames.find? (fun n => n.domain == dom && n.name == name && n.tag == 0 && seen n)

/-- Whether a name's reserved bits are set (R287). -/
def badName (name : DWord) : Bool := name.extractLsb' 44 20 != 0

/-- The status common to the forms that need a block: 8, 7, 2 or 5, or the binding (R287). -/
def State.kvFind (s : State) (dom : Nat) (name : DWord) (tag : BitVec 4) : Except Nat (KvName × KvBlock) :=
  if !s.kvOn then .error 8
  else if badName name then .error 7
  else match s.kvBinding dom name.toNat tag with
    | none => .error 2
    | some n => match tget s.kvBlocks n.block with
      | none => .error 2
      | some b => if b.lost then .error 5 else .ok (n, b)

/-- A new block, its bytes reading as zero (R288), in a column with room, which is the device's choice (R263). -/
def State.kvNewBlock (s : State) (tag : BitVec 4) : Nat × State :=
  let (id, s1) := s.newId
  (id, { s1 with kvBlocks := tset s1.kvBlocks id
                  { bytes := [], poison := [], lost := false, owner := tag
                    column := choose id 0 ((List.range 16).filter (fun c => decide (0 < s.kvRoom c))) } })

/-- KVALLOC at the store (R288). -/
def State.kvAlloc (s : State) (dom : Nat) (name : DWord) (tag : BitVec 4) : State × Nat :=
  if !s.kvOn then (s, 8)
  else if badName name then (s, 7)
  else if (s.kvBinding dom name.toNat tag).isSome then (s, 1)
  else if s.kvFreeBlocks = 0 ∨ s.kvFreeNames = 0 then (s, 3)
  else
    let (id, s1) := s.kvNewBlock tag
    ({ s1 with kvNames := s1.kvNames ++ [{ domain := dom, name := name.toNat, tag := tag, block := id }] }, 0)

/-- Drops a binding; a block without one is freed (R288). -/
def State.kvUnbind (s : State) (n : KvName) : State :=
  let s1 := { s with kvNames := s.kvNames.erase n }
  if s1.kvRefs n.block = 0 then { s1 with kvBlocks := tdel s1.kvBlocks n.block } else s1

/-- KVFREE at the store (R288). -/
def State.kvFree (s : State) (dom : Nat) (name : DWord) (tag : BitVec 4) : State × Nat :=
  match s.kvFind dom name tag with
  | .error k => (s, k)
  | .ok (n, _) => (s.kvUnbind n, 0)

/-- KVSHARE at the store (R288). -/
def State.kvShare (s : State) (dom : Nat) (name new : DWord) (tag : BitVec 4) : State × Nat :=
  match s.kvFind dom name tag with
  | .error k => (s, k)
  | .ok (n, _) =>
    if badName new then (s, 7)
    else if (s.kvBinding dom new.toNat tag).isSome then (s, 1)
    else if s.kvRefs n.block ≥ 65535 then (s, 4)
    else if s.kvFreeNames = 0 then (s, 3)
    else ({ s with kvNames := s.kvNames ++ [{ domain := dom, name := new.toNat, tag := tag, block := n.block }] }, 0)

/-- A lane's 64-bit name (R287). -/
def Ctx.nameAt (c : Ctx) (a l : Nat) : DWord := BitVec.ofNat 64 (c.w.pair l a)

/-- KVALLOC, KVFREE and KVSHARE at issue (R287, R288): the wave's next run waits for the status. -/
def Ctx.kvName (c : Ctx) (op d a : Nat) (b : Option Nat) : Except Raise State := do
  let fs := [a, a + 1] ++ (match b with | some r => [r, r + 1] | none => [])
  let o : OpSpec := { regs := d :: fs, pairs := a :: b.toList, first := fs
                      writes := c.act.map (fun l => c.w.put l d 0 (mkTag 3 0)) }
  c.check o
  let w ← c.regionOf o
  let (s, w) := c.s.writeTags w o.writes
  let n2 : DWord := match b with
    | some r => c.nameAt r c.first
    | none => 0
  let w := c.attach w (.kvName op (c.nameAt a c.first) n2 (c.act.map (fun l => (c.w.rowOf l d, l)))) none
    (dedup (o.writes.map (·.row))) false false 2
  pure (c.doneEffect s { w with wait := .ops })

/-- KVALLOC (R288). -/
def execKvalloc (d a : BitVec 7) (s : State) : Host.Outcome State Fault Refusal :=
  s.issue (fun c => c.kvName 0 d.toNat a.toNat none)

/-- KVFREE (R288). -/
def execKvfree (d a : BitVec 7) (s : State) : Host.Outcome State Fault Refusal :=
  s.issue (fun c => c.kvName 1 d.toNat a.toNat none)

/-- KVSHARE (R288). -/
def execKvshare (d a b : BitVec 7) (s : State) : Host.Outcome State Fault Refusal :=
  s.issue (fun c => c.kvName 2 d.toNat a.toNat (some b.toNat))

/-- KVLD and KVST at issue (R289). -/
def Ctx.kvCopy (c : Ctx) (d a b : Nat) (store : Bool) : Except Raise State := do
  let fs := [d, d + 1, a, a + 1, b]
  let r := c.record d
  let off := (c.w.reg c.first b).toNat
  c.checkRegs (pairFields fs [a])
  c.checkFormat [a] [] true
  c.checkPoison [] fs []
  c.checkOnce (recordLimits r ++ [(off % 4 != 0, off)])
  c.checkScratch (c.act.map (fun l => (l, r.1, r.2)))
  let w ← c.region (fs.map (fun f => c.w.rowOf c.first f)) []
  let name := c.nameAt a c.first
  if !c.mayBulk 0 then pure (c.stalled 0)
  else pure (c.startBulk w 0 0x2E (if store then .kvStore name off r.1 r.2 else .kvLoad name off r.1 r.2) false
    r.2 (if store then 0 else r.2))

/-- KVLD (R289). -/
def execKvld (d a b : BitVec 7) (s : State) : Host.Outcome State Fault Refusal :=
  s.issue (fun c => c.kvCopy d.toNat a.toNat b.toNat false)

/-- KVST (R289). -/
def execKvst (d a b : BitVec 7) (s : State) : Host.Outcome State Fault Refusal :=
  s.issue (fun c => c.kvCopy d.toNat a.toNat b.toNat true)

/-- KVMAP at issue (R291): each active lane's own name. -/
def execKvmap (d a : BitVec 7) (s : State) : Host.Outcome State Fault Refusal :=
  s.issue (fun c =>
    let f := d.toNat
    let o : OpSpec := { regs := [f, a.toNat, a.toNat + 1], pairs := [a.toNat], reads := [a.toNat, a.toNat + 1]
                        writes := c.act.map (fun l => c.w.put l f 0 (mkTag 3 0)) }
    do
      c.check o
      let w ← c.regionOf o
      let (s, w) := c.s.writeTags w o.writes
      let w := c.attach w (.kvMap (c.act.map (fun l => (c.w.rowOf l f, l, c.nameAt a.toNat l)))) (some c.sf1)
        (dedup (o.writes.map (·.row))) false false 2
      pure (c.done s w))

/-- KVSTAT at issue (R291): the wave waits for its earlier name operations. -/
def execKvstat (d : BitVec 7) (s : State) : Host.Outcome State Fault Refusal :=
  s.issue (fun c =>
    let f := d.toNat
    let o : OpSpec := { regs := [f, f + 1], pairs := [f]
                        writes := c.act.flatMap (fun l => [c.w.put l f 0 (mkTag 3 0), c.w.put l (f + 1) 0 (mkTag 3 0)]) }
    do
      c.check o
      let w ← c.regionOf o
      let (s, w) := c.s.writeTags w o.writes
      pure (s.setWave ({ w with wait := .kvstat f (maskOf c.act), target := [] }.advance c.r)))

/-- The counts that KVSTAT writes when its wait ends (R291). -/
def State.kvstatEnd (s : State) (w : Wave) (d : Nat) (lanes : BitVec 64) : State :=
  let ls := (lanesOf lanes).filter w.isLive
  s.setWave { ls.foldl (fun w l => (w.writeElem (w.rowOf l d) l (BitVec.ofNat 32 s.kvFreeBlocks) false).writeElem
    (w.rowOf l (d + 1)) l (BitVec.ofNat 32 s.kvFreeNames) false) w with wait := .none }

/-- Whether a pending operation of a wave is a block-store operation. -/
def Pend.isKv (p : Pend) : Bool :=
  match p.kind with
  | .kvName _ _ _ _ | .kvMap _ => true
  | _ => false

/-- Whether a bulk operation goes to the block store. -/
def Bulk.isKv (b : Bulk) : Bool :=
  match b.kind with
  | .kvLoad _ _ _ _ | .kvStore _ _ _ _ => true
  | _ => false

/-- Whether every block-store operation that a wave issued before one has been performed (R290): those with a number below
`pend`, and the bulk operations below `bulk`. -/
def State.kvInOrder (s : State) (w : Wave) (pend bulk : Nat) : Bool :=
  !w.pend.any (fun p => p.isKv && decide (p.id < pend)) &&
    !(tvals s.bulk).any (fun b => b.wave == w.uid && b.isKv && decide (b.before ≤ pend) && decide (b.id < bulk))

/-- The word that KVMAP writes for a name (R291). -/
def State.kvQuery (s : State) (dom : Nat) (name : DWord) (tag : BitVec 4) : Word :=
  match s.kvFind dom name tag with
  | .error k => BitVec.ofNat 32 k
  | .ok (n, b) => BitVec.ofNat 32 (b.owner.toNat * 2 ^ 12 + s.kvRefs n.block * 2 ^ 16)

/-- Performs a name operation or a query at the block store. -/
def State.performKv (s : State) (w : Wave) (p : Pend) : State :=
  let dom := s.domainOf w.launch
  match p.kind with
  | .kvName op name name2 rows =>
    let (s1, st) := if op = 0 then s.kvAlloc dom name w.tag
      else if op = 1 then s.kvFree dom name w.tag else s.kvShare dom name name2 w.tag
    let ws : List LaneWrite := rows.map (fun r =>
      { row := r.1, lane := r.2, val := BitVec.ofNat 32 st, poison := false })
    s1.setWave ((w.unpend p.id).deliver ws)
  | .kvMap qs =>
    let ws : List LaneWrite := qs.map (fun q =>
      { row := q.1, lane := q.2.1, val := s.kvQuery dom q.2.2 w.tag, poison := false })
    s.setWave ((w.unpend p.id).deliver ws)
  | _ => s

/-- BLOCK_STORE_NAME_OP_PERFORM (R288, R290, R291). -/
def execBlockStoreNameOpPerform (w p : Nat) (s : State) : Host.Outcome State Fault Refusal :=
  .next (match s.pending? w p with
    | none => s
    | some (x, q) => if q.isKv && s.kvInOrder x q.id s.nextId then s.performKv x q else s)

/-- The block that a KVST writes (R262, R289): the name's own when the writer owns it alone, else a new copy bound to that
name alone; a block whose last reference the writer's own name was is freed (R288). -/
def State.kvOwnBlock (s : State) (n : KvName) (b : KvBlock) (tag : BitVec 4) : Except Nat (State × Nat) :=
  if s.kvRefs n.block ≤ 1 && b.owner == tag then .ok (s, n.block)
  else if s.kvFreeBlocks = 0 ∨ (n.tag ≠ tag ∧ s.kvFreeNames = 0) then .error 3
  else
    let (id, s1) := s.kvNewBlock tag
    let s2 := { s1 with kvBlocks := tmod s1.kvBlocks id (fun c => { c with bytes := b.bytes, poison := b.poison }) }
    let own : KvName := { n with tag := tag, block := id }
    let s3 := if n.tag = tag then s2.kvUnbind n else s2
    .ok ({ s3 with kvNames := s3.kvNames ++ [own] }, id)

/-- Writes bytes of a block with their poison, kept for each 32-byte sector (R414, R415). -/
def KvBlock.write (b : KvBlock) (off : Nat) (bytes : List (Byte × Bool)) : KvBlock :=
  let put : Tbl Byte → Nat → Byte → Tbl Byte := fun t i v => if v = 0 then tdel t i else tset t i v
  { b with
    bytes := (bytes.zipIdx).foldl (fun t x => put t (off + x.2) x.1.1) b.bytes
    poison := (pieces off bytes.length).foldl (fun p x =>
      if ((bytes.drop x.1).take x.2).any (·.2) then setPoison p ((off + x.1) / 32) true
      else if x.2 = 32 then setPoison p ((off + x.1) / 32) false else p) b.poison }

/-- The bytes of a block with their poison. -/
def KvBlock.read (b : KvBlock) (off n : Nat) : List (Byte × Bool) :=
  (List.range n).map (fun i => (tgetD b.bytes (off + i) 0, b.poison.contains ((off + i) / 32)))

/-- What a KVLD reads at the block store: the bytes, or the status that moves none (R289). -/
def State.kvRead (s : State) (b : Bulk) (name : DWord) (off n : Nat) : Except Nat (List (Byte × Bool)) :=
  match s.kvFind (s.domainOf b.launch) name b.tag with
  | .error k => .error k
  | .ok (m, blk) =>
    if off + n > s.kvBlockSize then .error 6
    else .ok (((blk.read off n).zipIdx).map (fun x => (x.1.1, x.1.2 || s.badCopy (blockTransfer m.block) (off + x.2) 1)))

/-- The transfers of what a KVLD reads from its block have come (R411). -/
def State.kvCame (s : State) (b : Bulk) (name : DWord) (off n : Nat) : State :=
  match s.kvFind (s.domainOf b.launch) name b.tag with
  | .error _ => s
  | .ok (m, _) => s.transferred (blockTransfer m.block) [(off, n)]

/-- A KVLD is performed at the block store, in the order of R290 and where the order of its wave's accesses lets it read (R344,
R350), ahead of its writes to scratchpad. -/
def State.kvTake (s : State) (b : Bulk) (w : Wave) : State :=
  match b.kind with
  | .kvLoad name off _ n =>
    if !b.data.got.isEmpty || !s.kvInOrder w b.before b.id || !s.mayRead w b.before b.id [] then s
    else match s.kvRead b name off n with
      | .ok bs => (s.kvCame b name off n).modBulk b.id (fun x => { x with data := x.data.add 0 bs })
      | .error _ => s
  | _ => s

/-- The bytes that a KVLD has read and has still to write, between two places, are written to scratchpad (R277). -/
def State.kvPut (s : State) (b : Bulk) (w : Wave) (lo hi : Nat) : State :=
  match b.kind with
  | .kvLoad _ _ base _ =>
    if b.data.got.isEmpty || s.isBarred w then s
    else (meetRanges b.unput lo hi).foldl (fun (s : State) r =>
      let bs := (List.range (r.2 - r.1)).filterMap (fun i => b.data.at (r.1 + i))
      (s.scratchWrite w (base + r.1) bs).modBulk b.id (fun x =>
        { x with unput := cutRanges x.unput r.1 r.2, carried := x.carried || bs.any (·.2) })) s
  | _ => s

/-- A KVST performed: the new state and its status, and whether it carried poison (R289). -/
def State.kvStored (s : State) (b : Bulk) (w : Wave) : State × Nat × Bool :=
  match b.kind with
  | .kvStore name off base n =>
    (match s.kvFind (s.domainOf b.launch) name b.tag with
      | .error k => (s, k, false)
      | .ok (nm, blk) =>
        if off + n > s.kvBlockSize then (s, 6, false)
        else match s.kvOwnBlock nm blk b.tag with
          | .error k => (s, k, false)
          | .ok (s1, id) =>
            let bs := (s.fetch w (s.bulkEng b w false) b.data { off := 0, len := n, scratch := true, addr := base } 0 n).1
            ({ s1 with kvBlocks := tmod s1.kvBlocks id (fun x => x.write off bs) }, 0, bs.any (·.2)))
  | _ => (s, 0, false)

/-- A KVLD or KVST completes, in the order of R290; a status other than 0 moves nothing and is recorded (R289). A KVLD that has
been performed only has its writes left. -/
def State.completeKv (s : State) (b : Bulk) (w : Wave) : State :=
  if !s.kvInOrder w b.before b.id || !s.bulkMayRead b w then s
  else match b.kind with
    | .kvLoad name off _ n =>
      let s1 := s.kvTake b w
      (match tget s1.bulk b.id with
        | none => s
        | some b1 =>
          if b1.data.got.isEmpty then
            let st := match s.kvRead b name off n with
              | .error k => k
              | .ok _ => 0
            (s.bulkFault b w st 0 0 0).endBulk b
          else
            let s2 := s1.kvPut b1 w 0 n
            (s2.carriedPoison w 13 (((tget s2.bulk b.id).map (·.carried)).getD false)).endBulk b)
    | _ =>
      let (s1, st, p) := s.kvStored b w
      if st = 0 then (s1.carriedPoison w 13 p).endBulk b else (s.bulkFault b w st 0 0 0).endBulk b

end Sys2Proof.Machine
end

