-- ==== Sys2Proof/Machine/Heads.lean ====
section
/-!
DEFINITION. The timing of a display head (R445) and its registers' fields (R446).
-/

namespace Sys2Proof.Machine

/-- A display head. -/
def State.head (s : State) (h : Nat) : Head := tgetD s.heads h Head.reset

/-- Puts a head back. -/
def State.setHead (s : State) (h : Nat) (x : Head) : State := { s with heads := tset s.heads h x }

/-- HEADMODE's refresh rate in units of 0.01 Hz. -/
def Head.refresh (h : Head) : Nat := bits h.mode.toNat 15 0

/-- HEADMODE's lines per frame. -/
def Head.vtotal (h : Head) : Nat := bits h.mode.toNat 31 16

/-- HEADCTL's active lines. -/
def Head.height (h : Head) : Nat := bits h.ctl.toNat 47 32

/-- HEADDOM's domain. -/
def Head.domain (h : Head) : Nat := bits h.dom.toNat 15 0

/-- A quotient rounded to the nearest whole number, ties upwards (R445). -/
def roundDiv (n d : Nat) : Nat := (2 * n + d) / (2 * d)

/-- The start of the vertical blank of frame k (R445): E + k × P + A, in ns. -/
def Head.blankAt (h : Head) (k : Nat) : Nat :=
  h.enabledAt + roundDiv (10 ^ 11 * (k * h.vtotal + h.height)) (h.refresh * h.vtotal)

/-- The number of the first frame, from one on, whose blank starts after a time. -/
def Head.frameAfter (h : Head) (now : Nat) : Nat → Nat → Nat
  | 0, k => k
  | f + 1, k => if h.blankAt k > now then k else Head.frameAfter h now f (k + 1)

/-- The start of the head's first vertical blank after a time (R108): frames before the one that the time falls in are
passed over. -/
def Head.nextBlank (h : Head) (now : Nat) : Nat :=
  let k := (now - h.enabledAt) * h.refresh / 10 ^ 11
  h.blankAt (h.frameAfter now 4 (k - 1))

end Sys2Proof.Machine
end

