-- ==== Sys2Proof/Machine/Sha.lean ====
section
/-!
DEFINITION. SHA-256 (FIPS 180-4), the function that R424, R429, R442 and R443 name, over lists of bytes.
-/

namespace Sys2Proof.Machine

/-- The greatest r below 2^n, from a start on whose lower bits are 0, with r^k at most x: its bits from the highest down. -/
def rootBits (k x : Nat) : Nat → Nat → Nat
  | 0, r => r
  | i + 1, r => rootBits k x i (if (r + 2 ^ i) ^ k ≤ x then r + 2 ^ i else r)

/-- The first 32 bits of the fraction of the k-th root of p, from which FIPS 180-4 takes the constants of SHA-256. -/
def fracRoot (k p : Nat) : Word := BitVec.ofNat 32 (rootBits k (p * 2 ^ (32 * k)) 37 0)

/-- The primes up to 311, which are the first 64: a composite number below 361 has a prime divisor of at most 17. -/
def shaPrimes : List Nat :=
  (List.range 312).filter (fun n => decide (2 ≤ n) && [2, 3, 5, 7, 11, 13, 17].all (fun d => n == d || n % d != 0))

/-- The 64 round constants: of the cube roots of the first 64 primes. -/
def shaK : List Word := shaPrimes.map (fracRoot 3)

/-- The eight working words of the hash. -/
structure Sha where
  a : Word
  b : Word
  c : Word
  d : Word
  e : Word
  f : Word
  g : Word
  h : Word
  deriving DecidableEq, Repr

/-- The initial hash value: of the square roots of the first 8 primes. -/
def Sha.init : Sha :=
  { a := fracRoot 2 2, b := fracRoot 2 3, c := fracRoot 2 5, d := fracRoot 2 7, e := fracRoot 2 11, f := fracRoot 2 13,
    g := fracRoot 2 17, h := fracRoot 2 19 }

/-- One round. -/
def Sha.round (s : Sha) (k w : Word) : Sha :=
  let s1 := s.e.rotateRight 6 ^^^ s.e.rotateRight 11 ^^^ s.e.rotateRight 25
  let ch := (s.e &&& s.f) ^^^ (~~~s.e &&& s.g)
  let t1 := s.h + s1 + ch + k + w
  let s0 := s.a.rotateRight 2 ^^^ s.a.rotateRight 13 ^^^ s.a.rotateRight 22
  let maj := (s.a &&& s.b) ^^^ (s.a &&& s.c) ^^^ (s.b &&& s.c)
  { a := t1 + (s0 + maj), b := s.a, c := s.b, d := s.c, e := s.d + t1, f := s.e, g := s.f, h := s.g }

/-- The 16 newest schedule words, oldest first, moved on by one. -/
def shaNext (w : List Word) : Word :=
  let at_ : Nat → Word := fun i => (w[i]?).getD 0
  let g0 := (at_ 1).rotateRight 7 ^^^ (at_ 1).rotateRight 18 ^^^ ((at_ 1) >>> 3)
  let g1 := (at_ 14).rotateRight 17 ^^^ (at_ 14).rotateRight 19 ^^^ ((at_ 14) >>> 10)
  g1 + at_ 9 + g0 + at_ 0

/-- The rounds of one block, over a sliding window of the message schedule. -/
def Sha.rounds : List Word → List Word → Sha → Sha
  | [], _, s => s
  | k :: ks, w, s => Sha.rounds ks (w.drop 1 ++ [shaNext w]) (s.round k (w.headD 0))

/-- One 64-byte block. -/
def Sha.block (s : Sha) (bytes : List Byte) : Sha :=
  let w := (chunks 4 bytes).map (fun q => BitVec.ofNat 32 (ofBytes q.reverse))
  let t := Sha.rounds shaK w s
  { a := s.a + t.a, b := s.b + t.b, c := s.c + t.c, d := s.d + t.d, e := s.e + t.e, f := s.f + t.f, g := s.g + t.g,
    h := s.h + t.h }

/-- The padded message. -/
def shaPad (m : List Byte) : List Byte :=
  let n := m.length
  m ++ [0x80] ++ List.replicate ((119 - n % 64) % 64) 0 ++ (toBytes 8 (8 * n)).reverse

/-- The 32 bytes of the digest, in the order in which SHA-256 prints them. -/
def sha256 (m : List Byte) : List Byte :=
  let s := (chunks 64 (shaPad m)).foldl Sha.block Sha.init
  [s.a, s.b, s.c, s.d, s.e, s.f, s.g, s.h].flatMap (fun w => (toBytes 4 w.toNat).reverse)

/-- A digest as a 256-bit number whose byte i is the digest's byte i. -/
def shaNat (m : List Byte) : BitVec 256 := BitVec.ofNat 256 (ofBytes (sha256 m))

end Sys2Proof.Machine
end

