-- ==== Sys2Proof/Machine/Digest.lean ====
section
/-!
DEFINITION. Digests of byte ranges (R425, R428) and the instruction DIGEST (R429).
-/

namespace Sys2Proof.Machine

/-- The digest of a range: SHA-256 of the concatenated SHA-256 of its 4,096-byte chunks (R425). -/
def rangeDigest (bytes : List Byte) : List Byte := sha256 ((chunks 4096 bytes).flatMap sha256)

/-- What reading a range for a digest gives: the 32 bytes to write and the failure to record, its cause and address
(R428); or the address and level of the miss to wait for. -/
inductive DigestRead where
  | bytes (d : List Byte) (bad : Option (Nat × Nat))
  | miss (va level : Nat)

/-- The first poisoned byte of a range that was read. -/
def firstPoison (bs : List (Byte × Bool)) : Option Nat := bs.findIdx? (·.2)

/-- The digest of the bytes read from an address on, up to what stopped the read (R425, R428). -/
def digestOf (va : Nat) (bs : List (Byte × Bool)) (st : Option Stop) : DigestRead :=
  match st with
  | some { err := .miss level, va := at_, .. } => .miss at_ level
  | _ => match firstPoison bs, st with
    | some i, _ => .bytes (List.replicate 32 0xFF) (some (16, va + i))
    | none, some { err := .cause c, va := at_, .. } => .bytes (List.replicate 32 0) (some (c, at_))
    | none, _ => .bytes (rangeDigest (bs.map (·.1))) none

/-- Reads a range and computes its digest (R425, R428). -/
def State.digestRange (s : State) (e : Eng) (va n : Nat) : DigestRead :=
  let (bs, st) := s.engRead e va n
  digestOf va bs st

/-- The record of a digest failure, which sets the launch's digest_flagged and does not mark it faulted (R428). -/
def State.digestFault (s : State) (launch : Nat) (who : Who) (source index cause addr : Nat) : State :=
  (s.report launch who { kind := 5, source := source, cause := cause, value := 0, writer := 0, addr := addr,
                         detail := index % 2 ^ 32 }).modLaunch launch (fun l => { l with digestFlagged := true })

/-- A DIGEST completes: the range is read in the wave's view and the digest written (R429). -/
def State.completeDigest (s : State) (b : Bulk) (w : Wave) : State :=
  match b.kind with
  | .digest va n dst =>
    if !s.bulkMayRead b w then s
    else
      let e := s.bulkEng b w (s.dropsTag b.tag)
      let (bs, stop) := s.fetch w e b.data { off := 0, len := n, scratch := false, addr := va } 0 n
      let s := s.engTouch (s.memPlaces e va bs.length)
      (match digestOf va bs stop with
        | .miss at_ level =>
          let (s1, id) := s.engMiss b.launch w.lcore at_ level .read
          s1.modBulk b.id (fun x => { x with faultWait := some id })
        | .bytes d bad =>
          let fail := fun (s : State) (x : Nat × Nat) => s.digestFault b.launch (s.whoOf w) b.major 0 x.1 x.2
          match s.engWrite e dst (d.map (fun x => (x, false))) with
          | (s1, some st) => (match st.err with
            | .miss level =>
              let (s2, id) := s1.engMiss b.launch w.lcore st.va level .write
              s2.modBulk b.id (fun x => { x with faultWait := some id })
            | .cause c =>
              let s2 := match bad with
                | some x => fail s1 x
                | none => s1
              (fail s2 (c, st.va)).endBulk b)
          | (s1, none) => (match bad with
            | some x => fail s1 x
            | none => s1).endBulk b)
  | _ => s

/-- DIGEST at issue (R429): the descriptor is read, and the digest computed as a bulk operation on the copy counter. -/
def execDigest (a : BitVec 7) (s : State) : Host.Outcome State Fault Refusal :=
  s.issue (fun c =>
    let fs := [a.toNat, a.toNat + 1]
    let va := c.addrAt a.toNat 0 c.first
    do
      c.checkRegs fs
      c.checkFormat [a.toNat] [] true
      c.checkPoison [] fs []
      c.checkOnce [(va % 8 != 0, va)]
      let words := (List.range 4).map (fun i => (c.first, (va + 8 * i) % 2 ^ 64))
      match c.translateAll .read words with
      | .error e => throw { e with lanes := maskOf c.act }
      | .ok (.wait t) => pure t
      | .ok (.go xs) =>
        let v := xs.map (fun x => c.s.readNat c.w.tag x.ver x.key 8)
        let at_ := fun (i : Nat) => (v[i]?).getD 0
        c.checkOnce [(decide (at_ 1 ≥ 2 ^ 40), at_ 1), (at_ 2 % 32 != 0, at_ 2), (at_ 3 != 0, at_ 3)]
        let w ← c.region (fs.map (fun f => c.w.rowOf c.first f)) []
        if !c.mayBulk 0 then pure (c.stalled 0)
        else pure (Ctx.startBulk { c with s := c.s.convertAt (xs.map (fun x => (0, x.key, 8))) } w 0 0x35
          (.digest (at_ 0) (at_ 1) (at_ 2)) false (at_ 1) 0))

end Sys2Proof.Machine
end

