-- ==== Sys2Proof/Machine/Combine.lean ====
section
/-!
DEFINITION. The combine buffer (R381 to R390): groups, arrivals, folds in expert order, deadlines and releases.
-/

namespace Sys2Proof.Machine

/-- A field of a group's header (R381). -/
def CbGroup.field (g : CbGroup) (hi lo : Nat) : Nat := bits g.header.toNat hi lo

/-- A field of a token's entry (R381). -/
def Token.field (t : Token) (hi lo : Nat) : Nat := bits t.entry.toNat hi lo

/-- The expected experts of a token entry: position and index. -/
def entryExperts (v : Nat) : List (Nat × Nat) :=
  (List.range (bits v 67 64)).map (fun j => (j, bits v (128 + 8 * j + 7) (128 + 8 * j)))

/-- The positions of a token's experts in ascending expert index (R385). -/
def Token.order (t : Token) : List Nat :=
  (sortBy (fun a b => decide (a.2 ≤ b.2)) (entryExperts t.entry.toNat)).map (·.1)

/-- The element size of an efmt code (R381). -/
def efmtSize (f : Nat) : Nat := if f = 0 then 4 else 2

/-- The layout of an efmt code. -/
def efmtOf (f : Nat) : FFmt := if f = 0 then f32 else if f = 1 then f16 else bf16

/-- The units that a token entry takes (R381). -/
def entryUnits (header entry : Nat) : Nat := (bits header 47 32 + 511) / 512 * bits entry 67 64

/-- Whether a header is valid by itself (R381, R382). -/
def headerOk (h : Nat) : Bool :=
  bits h 511 320 == 0 && bits h 255 241 == 0 && bits h 239 224 == 0 && bits h 127 96 == 0 && bits h 63 56 == 0 &&
    bits h 53 53 == 0 && bits h 51 50 == 0 && bits h 31 13 == 0 && bits h 55 54 != 3 && bits h 49 48 != 3 &&
    decide (1 ≤ bits h 47 32) && decide (bits h 47 32 ≤ 8192) && decide (1 ≤ bits h 12 0) &&
    decide (bits h 12 0 ≤ 4096) && bits h 319 256 % 16 == 0 && bits h 191 128 % 4 == 0

/-- Whether a token entry is valid under a header (R381, R382). -/
def entryOk (h v : Nat) : Bool :=
  let e := bits v 67 64
  bits v 511 448 == 0 && bits v 127 68 == 0 && decide (1 ≤ e) && decide (e ≤ 8) &&
    (dedup ((entryExperts v).map (·.2))).length == e &&
    (List.range 8).all (fun j => decide (j < e) ||
      (bits v (128 + 8 * j + 7) (128 + 8 * j) == 0 && bits v (192 + 32 * j + 31) (192 + 32 * j) == 0)) &&
    bits v 63 0 % efmtSize (bits h 49 48) == 0

/-- The units of the region (R254, R381). -/
def State.cbRegion (s : State) : Nat := 4096 * bits s.regs.sramcfg.toNat 3 0

/-- The units that a group takes. -/
def groupUnits (header : BitVec 512) (entries : List (BitVec 512)) : Nat :=
  entries.foldl (fun n e => n + entryUnits header.toNat e.toNat) 0

/-- The units that open groups hold. -/
def State.cbUsed (s : State) : Nat :=
  (tvals s.groups).foldl (fun n g => n + groupUnits g.header (g.tokens.map (fun t => t.2.entry))) 0

/-- The group numbers that are free. -/
def State.cbNumbers (s : State) : List Nat := (List.range 4096).filter (fun n => (tget s.groups n).isNone)

/-- Whether a group fits now. -/
def State.cbFits (s : State) (header : BitVec 512) (entries : List (BitVec 512)) : Bool :=
  decide (s.cbUsed + groupUnits header entries ≤ s.cbRegion) && decide (s.groups.length < 4096)

/-- Opens a group for a wave (R381, R382): the new state and the handle. What the last run of a SQUASHED branch opens is
discarded at once (R141, R148). -/
def State.cbOpen (s : State) (w : Wave) (header : BitVec 512) (entries : List (BitVec 512)) : State × Nat :=
  let n := choose s.nextId 0 s.cbNumbers
  let gen := tgetD s.generations n 0 + 1
  let dl := bits header.toNat 95 64
  let col := columnOf w.pcore
  let g : CbGroup :=
    { num := n, gen := gen, launch := w.launch, domain := s.domainOf w.launch, tag := w.tag, depth := w.depth,
      column := col, lcore := w.lcore, waveIdx := w.idx, writer := s.writerOf w, header := header
      tokens := (entries.zipIdx).map (fun e =>
        (e.2, { entry := e.1, st := 1, next := 0, arrived := 0, subst := 0, sums := [], bad := [], parked := [] }))
      late := 0, deadline := if dl = 0 then none else some (s.colClk col + dl), seq := 0, faultWait := none,
      cancelled := [] }
  (if s.dropsTag w.tag then s
    else { s with groups := tset s.groups n g, generations := tset s.generations n gen }, n + gen.toNat * 65536)

/-- Writes one word to a register in some lanes. -/
def Wave.writeLanes (w : Wave) (d : Nat) (lanes : List Nat) (v : Nat) : Wave :=
  lanes.foldl (fun w l => w.writeElem (w.rowOf l d) l (BitVec.ofNat 32 v) false) w

/-- The translation of one access of an instruction that acts once for its wave: a fault strikes every active lane. -/
def Ctx.onceXlate (c : Ctx) (use : Use) (vas : List Nat) : Except Raise Reached :=
  match c.translateAll use (vas.map (fun va => (c.first, va))) with
  | .error e => .error { e with lanes := maskOf c.act }
  | r => r

/-- A 64-byte record at a storage location, as a wave reads it. -/
def State.record64 (s : State) (w : Wave) (x : Xlat) : BitVec 512 := BitVec.ofNat 512 (s.readNat w.tag x.ver x.key 64)

/-- What CBOPEN does once its record has been read (R382). -/
def Ctx.cbOpened (c : Ctx) (d : Nat) (wait : Bool) (o : OpSpec) (header : BitVec 512) (entries : List (BitVec 512))
    (code : Option Nat) : Except Raise State := do
  let w ← c.regionOf o
  let (s, w) := c.s.writeTags w o.writes
  match code with
  | some v => pure (c.doneEffect s (w.writeLanes d c.act v))
  | none =>
    if s.cbWaiters.isEmpty && s.cbFits header entries then
      let (s, handle) := s.cbOpen w header entries
      pure (c.doneEffect s (w.writeLanes d c.act handle))
    else if !wait then pure (c.doneEffect s (w.writeLanes d c.act 0xFFFFFFFF))
    else
      let s := c.doneEffect s { w with wait := .cbopen d (maskOf c.act) header entries }
      pure { s with cbWaiters := s.cbWaiters ++ [c.w.uid] }

/-- CBOPEN (R382). -/
def execCbopen (d a : BitVec 7) (wt : BitVec 1) (s : State) : Host.Outcome State Fault Refusal :=
  s.issue (fun c =>
    let fs := [a.toNat, a.toNat + 1]
    let va := c.addrAt a.toNat 0 c.first
    let o : OpSpec := { regs := d.toNat :: fs, first := fs
                        writes := c.act.map (fun l => c.w.put l d.toNat 0 (mkTag 3 0)) }
    let finish : List Xlat → BitVec 512 → List (BitVec 512) → Option Nat → Except Raise State := fun xs =>
      Ctx.cbOpened { c with s := c.s.convertAt (xs.map (fun x => (0, x.key, 64))) } d.toNat (wt == 1) o
    do
      c.check o
      c.checkOnce [(va % 64 != 0, va)]
      match ← c.onceXlate .read [va] with
      | .wait t => pure t
      | .go xs =>
        let header := match xs with
          | x :: _ => c.s.record64 c.w x
          | [] => 0
        if c.s.cbRegion = 0 then finish xs header [] (some 0xFFFFFFFD)
        else if !headerOk header.toNat then finish xs header [] (some 0xFFFFFFFE)
        else
          let n := bits header.toNat 12 0
          match ← c.onceXlate .read ((List.range n).map (fun t => (va + 64 + 64 * t) % 2 ^ 64)) with
          | .wait t => pure t
          | .go es =>
            let entries := es.map (c.s.record64 c.w)
            let ok := entries.all (fun e => entryOk header.toNat e.toNat) &&
              decide (groupUnits header entries ≤ c.s.cbRegion)
            finish (xs ++ es) header entries (if ok then none else some 0xFFFFFFFE))

/-- The destination, lanes, header and entries of a wave that waits in CBOPEN. -/
def Wait.cbopen? : Wait → Option (Nat × BitVec 64 × BitVec 512 × List (BitVec 512))
  | .cbopen d lanes header entries => some (d, lanes, header, entries)
  | _ => Option.none

/-- A CBOPEN that waited ends with its result (R382). -/
def State.endCbopenWave (s : State) (w result : Nat) : State :=
  s.modWave w (fun v => v.endWaitFor Wait.cbopen? (fun v x => v.writeLanes x.1 ((lanesOf x.2.1).filter v.isLive) result))

/-- CBOPEN_WAIT_GRANT (R382): the CBOPEN that has waited longest finds room, or the region absent or too small for its record. -/
def execCbopenWaitGrant (w : Nat) (s : State) : Host.Outcome State Fault Refusal :=
  .next (match s.cbWaiters, s.wave? w with
    | first :: rest, some x =>
      (match x.waitsFor Wait.cbopen? with
        | some (_, _, header, entries) =>
          if first = w && s.cbRegion == 0 then
            ({ s with cbWaiters := rest } : State).endCbopenWave w 0xFFFFFFFD
          else if first = w && decide (s.cbRegion < groupUnits header entries) then
            ({ s with cbWaiters := rest } : State).endCbopenWave w 0xFFFFFFFE
          else if first = w && s.cbFits header entries then
            let (s1, handle) := s.cbOpen x header entries
            ({ s1 with cbWaiters := rest } : State).endCbopenWave w handle
          else s
        | none => s)
    | _, _ => s)

/-- The group that a handle names for a domain (R381). -/
def State.cbGroup? (s : State) (dom : Nat) (handle : Word) : Option CbGroup :=
  let h := handle.toNat
  match tget s.groups (bits h 11 0) with
  | some g => if g.gen.toNat = bits h 31 16 && bits h 15 12 == 0 && g.domain == dom then some g else none
  | none => none

/-- Counts a late arrival (R384): in its group, where there is one, and in the issuing launch's summary. -/
def State.cbLate (s : State) (group : Option Nat) (launch : Nat) : State :=
  let s1 : State := match group with
    | some n => { s with groups := tmod s.groups n (fun g => { g with late := g.late + 1 }) }
    | none => s
  s1.modLaunch launch (fun l => { l with late := satInc l.late })

/-- CBPUT (R383): one move for each active lane whose handle is valid. -/
def execCbput (d a : BitVec 7) (sv : BitVec 1) (s : State) : Host.Outcome State Fault Refusal :=
  s.issue (fun c =>
    let fromScratch := sv == 1
    let fs := [d.toNat, d.toNat + 1, a.toNat] ++ (if fromScratch then [] else [a.toNat + 1])
    let lanes := c.act.map (fun l => (l, c.s.cbGroup? c.dom (c.w.reg l d.toNat)))
    let live := lanes.filterMap (fun x => x.2.map (fun g => (x.1, g)))
    let src := fun (l : Nat) => if fromScratch then (c.w.reg l a.toNat).toNat else c.addrAt a.toNat 0 l
    let len := fun (g : CbGroup) => g.field 47 32 * efmtSize (g.field 49 48)
    do
      c.check { regs := fs, reads := fs }
      let bad := live.filter (fun x => !fromScratch && src x.1 % efmtSize (x.2.field 49 48) != 0)
      if !bad.isEmpty then throw (c.raiseIn 3 (bad.map (·.1)) (minOf 0 (bad.map (fun x => src x.1))))
      if fromScratch then c.checkScratch (live.map (fun x => (x.1, src x.1, len x.2)))
      let w ← c.region (c.rowKeys fs) []
      if c.s.engCount c.w.uid 4 ≥ 255 then pure c.s
      else
        let (eng, s) := c.s.engAdd w.uid 4
        let s := live.foldl (fun (s : State) x =>
          let (id, s) := s.newId
          let v := (c.w.reg x.1 (d.toNat + 1)).toNat
          let m : CbMove :=
            { id := id, wave := w.uid, team := w.team, launch := w.launch, domain := c.dom, tag := w.tag, eng := eng,
              handle := c.w.reg x.1 d.toNat, token := bits v 11 0, expert := bits v 23 16, gid := c.s.globalLane c.w x.1,
              fromScratch := fromScratch,
              src := src x.1, len := len x.2, esize := efmtSize (x.2.field 49 48),
              before := c.w.nextPend, data := Taken.ofLength (len x.2), carried := false, faultWait := none, cancelled := [] }
          { s with moves := tset s.moves id m }) s
        let s := (lanes.filter (fun x => x.2.isNone)).foldl (fun (s : State) _ => s.cbLate none c.w.launch) s
        pure (c.doneEffect (if live.isEmpty then s.engDone eng else s) w))

/-- One fold of an expert's elements (R385). -/
def Token.fold (t : Token) (efmt j : Nat) (elems : List Word) : Token :=
  let g := f32.decode (t.field (192 + 32 * j + 31) (192 + 32 * j))
  { t with
    next := t.next + 1
    sums := (elems.zipIdx).foldl (fun m x =>
      let p := toA36 (mulVal g ((efmtOf efmt).decode x.1.toNat)).1
      let old := (tgetD m x.2 0).toNat
      tset m x.2 (BitVec.ofNat 36 (toA36 (addVal .rne (a36.decode old) (a36.decode p)).1))) t.sums }

/-- Folds the parked arrivals that have become next (R385). -/
def Token.run (efmt : Nat) : Nat → Token → Token
  | 0, t => t
  | f + 1, t =>
    match t.order[t.next]? with
    | none => t
    | some j =>
      match t.parked.find? (fun p => p.1 == j) with
      | none => t
      | some p => Token.run efmt f ({ t with parked := t.parked.filter (fun q => q.1 != j) }.fold efmt j p.2)

/-- An arrival at a token (R385): its bit is set, it is parked and folded in its turn; the token is COMPLETE when every
expected expert has been folded. -/
def Token.arrive (t : Token) (efmt j : Nat) (elems : List Word) : Token :=
  let t1 := Token.run efmt 9
    { t with arrived := t.arrived ||| (1#8 <<< j), parked := t.parked ++ [(j, elems)] }
  if t1.next = t1.order.length then { t1 with st := 2 } else t1

/-- The quotient of two A36 values (R386). -/
def divA36 (x y : Nat) : Nat :=
  match a36.decode x, a36.decode y with
  | .nan _, _ => a36.canon
  | _, .nan _ => a36.canon
  | .inf a, .inf _ => let _ := a; a36.canon
  | .inf a, .fin b _ _ => a36.infinity (a != b)
  | .fin a _ _, .inf b => a36.signed (a != b) 0
  | .fin a m e, .fin b n f =>
    if n = 0 then (if m = 0 then a36.canon else a36.infinity (a != b))
    else
      let q := m * 2 ^ 128 / n
      let sticky := if m * 2 ^ 128 % n = 0 then 0 else 1
      (a36.round .rne false (a != b) (2 * q + sticky) (e - f - 129)).1

/-- A token still COLLECTING is completed with its missing experts substituted (R386): policy 0 ZERO, 1 RENORM, 2 FAULT. -/
def Token.substitute (t : Token) (policy efmt n : Nat) : Token :=
  if t.st ≠ 1 then t
  else
    let expected := (List.range t.order.length).foldl (fun (m : BitVec 8) j => m ||| (1#8 <<< j)) 0
    let subst := expected &&& ~~~t.arrived
    let t1 := { t with st := 2, subst := subst }
    if policy = 2 then t1
    else
      let folds := t1.order.filterMap (fun j => t1.parked.find? (fun p => p.1 == j))
      let t2 := folds.foldl (fun (t : Token) p => t.fold efmt p.1 p.2) { t1 with parked := [] }
      let here := t.order.filter (fun j => t.arrived.getLsbD j)
      if policy = 1 && !here.isEmpty then
        let g := here.foldl (fun (sum : Nat) j =>
          toA36 (addVal .rne (a36.decode sum) (f32.decode (t.field (192 + 32 * j + 31) (192 + 32 * j)))).1) 0
        { t2 with sums := (List.range n).map (fun i => (i, BitVec.ofNat 36 (divA36 (tgetD t2.sums i 0).toNat g))) }
      else t2

/-- Where a release stands: done, or waiting for a miss of an access of some use. -/
inductive RelStep where
  | ok (s : State)
  | miss (va level : Nat) (use : Use)

/-- The context in which a group's writes are made (R142, R387, R430). -/
def CbGroup.eng (g : CbGroup) : Eng :=
  { dom := g.domain, tag := g.tag, launch := g.launch, writer := g.writer, cancelled := g.cancelled, drop := false }

/-- How a group's records name the wave that opened it. -/
def State.cbWho (s : State) (g : CbGroup) : Who :=
  { launch := (match s.launch? g.launch with | some l => l.id | none => BitVec.allOnes 64), lcore := g.lcore
    wave := g.waveIdx }

/-- The combine handle of a group. -/
def CbGroup.handle (g : CbGroup) : Nat := g.num + g.gen.toNat * 65536

/-- A fault record of a group, which marks its launch faulted (R386, R387). -/
def State.cbFault (s : State) (g : CbGroup) (cause value addr token : Nat) : State :=
  (s.report g.launch (s.cbWho g)
    { kind := 1, source := 0x2F, cause := cause, value := value, writer := 0, addr := addr,
      detail := g.handle + token * 2 ^ 32 }).markFaulted g.launch

/-- One write of a release; a fault is recorded and the release goes on (R387). -/
def State.cbWrite (s : State) (g : CbGroup) (token value va : Nat) (bytes : List Byte) : RelStep :=
  match s.engWrite g.eng va (bytes.map (fun b => (b, false))) with
  | (s1, none) => .ok s1
  | (s1, some st) => match st.err with
    | .miss level => .miss st.va level .write
    | .cause k => .ok (s1.cbFault g k value st.va token)

/-- The element stores of a token, up to the first fault, which gives the element reached (R387); a poisoned sum poisons what it
is stored to (R414). -/
def State.cbStores (s : State) (g : CbGroup) (token dest : Nat) (t : Token) : List Nat → RelStep
  | [] => .ok s
  | i :: rest =>
    let f := g.field 49 48
    let z := efmtSize f
    let v := ((efmtOf f).encode .rne (a36.decode (tgetD t.sums i 0).toNat)).1
    let va := (dest + i * z) % 2 ^ 64
    match s.engWrite g.eng va ((toBytes z v).map (fun b => (b, t.bad.contains i))) with
    | (s1, none) => State.cbStores s1 g token dest t rest
    | (s1, some st) => match st.err with
      | .miss level => .miss st.va level .write
      | .cause k => .ok (s1.cbFault g k i st.va token)

/-- The release record of a token (R387). -/
def releaseRecord (t : Token) (seq outcome : Nat) : Nat :=
  t.arrived.toNat + t.subst.toNat * 2 ^ 8 + outcome * 2 ^ 16 + seq % 2 ^ 32 * 2 ^ 32

/-- The decrement of the release counter, saturating at 0 (R387). -/
def State.cbDecrement (s : State) (g : CbGroup) (token : Nat) : RelStep :=
  let va := g.field 191 128
  if va = 0 then .ok s
  else match s.engXlate g.eng .write va with
    | .error (.miss level) => .miss va level .write
    | .error (.cause k) => .ok (s.cbFault g k 0 va token)
    | .ok x =>
      let v := s.readNat g.tag x.ver x.key 4
      s.cbWrite g token 0 va (toBytes 4 (v - 1))

/-- The release task of a token, or the record in its place (R387). -/
def State.cbTask (s : State) (g : CbGroup) (token : Nat) (t : Token) : RelStep :=
  if g.field 240 240 = 0 then .ok s
  else match s.launch? g.launch with
    | none => .ok s
    | some l =>
      let idx := g.field 207 192
      let refuse : State → State := fun s => s.report g.launch (s.cbWho g)
        { kind := 1, source := 0x2F, cause := 0, value := 0, writer := 0, addr := t.field 63 0,
          detail := g.handle + token * 2 ^ 32 }
      let read := s.taskEntry l g.cancelled g.tag idx
      let s := s.convertAt (s.tablePlaces l g.cancelled idx)
      match read with
      | .miss va level => .miss va level .read
      | .fault cause addr => .ok (refuse (s.tableFault l.uid (s.cbWho g) 0x2F cause addr 0))
      | .invalid => .ok (refuse s)
      | .entry _ _ key =>
        if g.depth + 1 > l.field 435 432 then .ok (refuse s)
        else
          let k := g.field 223 208
          let rec_ := recordWords (t.field 63 0 + g.handle * 2 ^ 64 + token * 2 ^ 96 + t.arrived.toNat * 2 ^ 112 +
            t.subst.toNat * 2 ^ 120)
          let task : Task :=
            { id := 0, launch := g.launch, entry := idx, key := BitVec.ofNat 16 (if k = 0 then key else k), tag := g.tag,
              depth := g.depth + 1, accept := 0, record := rec_, share := g.lcore / 16, clk := 0 }
          if s.poolFree g.launch = 0 ∨ s.heldTasks.any (fun h => h.source == 2 && h.place == g.num) = true then
            .ok { s with heldTasks := s.heldTasks ++ [{ source := 2, place := g.num, task := task }] }
          else .ok (s.enterPool task task.share false)

/-- Puts a token of a group back. -/
def State.setToken (s : State) (num n : Nat) (t : Token) : State :=
  { s with groups := tmod s.groups num (fun g => { g with tokens := tset g.tokens n t }) }

/-- The steps of one token's release (R387), one after the other. -/
def RelStep.andThen (r : RelStep) (f : State → RelStep) : RelStep :=
  match r with
  | .ok s => f s
  | m => m

/-- Releases or ends a COMPLETE token (R387). -/
def State.cbReleaseToken (s : State) (g : CbGroup) (n : Nat) (t : Token) : RelStep :=
  let ended := g.field 55 54 == 2 && t.subst != 0
  let outcome := if ended then 2 else if t.subst = 0 then 0 else 1
  let stores := if ended then RelStep.ok s else s.cbStores g n (t.field 63 0) t (List.range (g.field 47 32))
  let rec_ := g.field 319 256
  ((stores.andThen (fun s =>
    if rec_ = 0 then .ok s else s.cbWrite g n 0 (rec_ + 16 * n) (toBytes 16 (releaseRecord t g.seq outcome)))).andThen
      (fun s => s.cbDecrement g n)).andThen (fun s =>
    let after : RelStep := if ended then .ok s else s.cbTask g n t
    after.andThen (fun s =>
      let s1 := s.setToken g.num n { t with st := if ended then 4 else 3, sums := [], bad := [], parked := [] }
      .ok { s1 with groups := tmod s1.groups g.num (fun g => { g with seq := g.seq + 1 }) }))

/-- The token of a group that is released next (R387): in ORDERED mode the first not released, when it is COMPLETE; else the
lowest COMPLETE one. -/
def CbGroup.nextToken (g : CbGroup) : Option (Nat × Token) :=
  if g.field 52 52 = 1 then
    match g.tokens.find? (fun t => decide (t.2.st < 3)) with
    | some t => if t.2.st = 2 then some t else none
    | none => none
  else g.tokens.find? (fun t => t.2.st == 2)

/-- Releases every token whose turn has come; a group whose last token has released or ended is freed, and a replayable
fault of a release leaves the group waiting (R387, R250). -/
def State.cbRelease (num : Nat) : Nat → State → State
  | 0, s => s
  | f + 1, s =>
    match tget s.groups num with
    | none => s
    | some g =>
      if g.faultWait.isSome then s
      else match g.nextToken with
        | none => if g.tokens.all (fun t => decide (t.2.st ≥ 3)) then { s with groups := tdel s.groups num } else s
        | some (n, t) =>
          match s.cbReleaseToken g n t with
          | .miss va level use =>
            let (s1, id) := s.engMiss g.launch g.lcore va level use
            { s1 with groups := tmod s1.groups num (fun g => { g with faultWait := some id }) }
          | .ok s1 =>
            State.cbRelease num f { s1 with groups := tmod s1.groups num (fun g => { g with cancelled := [] }) }

/-- The steps that releasing a group can take. -/
def cbFuel : Nat := 4098

/-- The substitution of the deadline step (R386): every token of a group still COLLECTING is completed, or ends under FAULT. -/
def State.cbSubstitute (s : State) (g : CbGroup) : State :=
  let policy := g.field 55 54
  let toks := g.tokens.map (fun t => (t.1, t.2.substitute policy (g.field 49 48) (g.field 47 32)))
  let s1 : State := { s with groups := tmod s.groups g.num (fun x => { x with tokens := toks, deadline := none }) }
  if policy ≠ 2 then s1
  else (g.tokens.filter (fun t => t.2.st == 1)).foldl (fun (s : State) t => s.cbFault g 0 0 (t.2.field 63 0) t.1) s1

/-- The deadline step of a group (R386): the substitution, and the releases in ascending token index. -/
def State.cbExpire (s : State) (g : CbGroup) : State := State.cbRelease g.num cbFuel (s.cbSubstitute g)

/-- CB_DEADLINE (R386, R387): a group whose deadline has passed takes the deadline step; of another, the releases that a CBCLOSE
did not wait for (R388) are made. -/
def execCbDeadline (g : Nat) (s : State) : Host.Outcome State Fault Refusal :=
  .next (match tget s.groups g with
    | none => s
    | some x =>
      if x.deadline.any (fun t => decide (t ≤ s.colClk x.column)) then s.cbExpire x else State.cbRelease g cbFuel s)

/-- CBCLOSE (R388): the substitution of the deadline step; the releases follow, and an arrival that completes before its group's
last release still counts in the group (R384, R465). -/
def execCbclose (a : BitVec 7) (s : State) : Host.Outcome State Fault Refusal :=
  s.issue (fun c => do
    c.checkRegs [a.toNat]
    c.checkPoison [] [a.toNat] []
    let w ← c.region [c.w.rowOf c.first a.toNat] []
    let s := c.doneEffect c.s w
    match c.s.cbGroup? c.dom (c.w.reg c.first a.toNat) with
    | none => pure s
    | some g => pure (s.cbSubstitute g))

/-- CBSTAT at issue (R389). -/
def execCbstat (d a : BitVec 7) (s : State) : Host.Outcome State Fault Refusal :=
  s.issue (fun c =>
    let fs := [a.toNat, a.toNat + 1]
    let o : OpSpec := { regs := d.toNat :: fs, pairs := [a.toNat], reads := fs
                        writes := c.act.map (fun l => c.w.put l d.toNat 0 (mkTag 3 0)) }
    do
      c.check o
      let w ← c.regionOf o
      let (s, w) := c.s.writeTags w o.writes
      let qs := c.act.map (fun l => (c.w.rowOf l d.toNat, l, c.w.reg l a.toNat, c.w.reg l (a.toNat + 1)))
      pure (c.done s (c.attach w (.cbStat qs) (some c.sf1) (dedup (o.writes.map (·.row))) false false 2)))

/-- The word that CBSTAT writes (R389). -/
def State.cbQuery (s : State) (dom : Nat) (handle token : Word) : Word :=
  match s.cbGroup? dom handle with
  | none => 0
  | some g =>
    let late := Nat.min g.late 8191 * 2 ^ 19
    match tget g.tokens token.toNat with
    | none => BitVec.ofNat 32 late
    | some t => BitVec.ofNat 32 (t.arrived.toNat + t.subst.toNat * 2 ^ 8 + t.st * 2 ^ 16 + late)

/-- Performs a CBSTAT (R389). -/
def State.performCbstat (s : State) (w : Wave) (p : Pend) : State :=
  match p.kind with
  | .cbStat qs =>
    let dom := s.domainOf w.launch
    let ws : List LaneWrite := qs.map (fun q =>
      { row := q.1, lane := q.2.1, val := s.cbQuery dom q.2.2.1 q.2.2.2, poison := false })
    s.setWave ((w.unpend p.id).deliver ws)
  | _ => s.performLoad w p

/-- LOAD_RETURN (R265, R389): load data or a query's result returns, registers are written and the flag may clear (R175). -/
def execLoadReturn (w p : Nat) (s : State) : Host.Outcome State Fault Refusal :=
  .next (match s.pending? w p with
    | none => s
    | some (x, q) => s.performCbstat x q)

/-- A duplicate arrival's record (R384). -/
def State.cbDuplicate (s : State) (m : CbMove) (who : Who) : State :=
  s.report m.launch who
    { kind := 3, source := 0x2F, cause := 0, value := 0, writer := m.gid, addr := 0,
      detail := m.handle.toNat + m.token * 2 ^ 32 + m.expert * 2 ^ 48 }

/-- An arrival whose bytes have come (R384, R385). -/
def State.cbArrive (s : State) (m : CbMove) (who : Who) (bytes : List (Byte × Bool)) : State :=
  match s.cbGroup? m.domain m.handle with
  | none => s.cbLate none m.launch
  | some g =>
    match tget g.tokens m.token with
    | none => s.cbDuplicate m who
    | some t =>
      match (entryExperts t.entry.toNat).find? (fun x => x.2 == m.expert) with
      | none => if t.st ≥ 3 then s.cbLate (some g.num) m.launch else s.cbDuplicate m who
      | some (j, _) =>
        if t.st ≥ 3 ∨ t.subst.getLsbD j = true then s.cbLate (some g.num) m.launch
        else if t.arrived.getLsbD j ∨ m.tag ≠ g.tag then s.cbDuplicate m who
        else
          let parts := chunks m.esize bytes
          let elems := parts.map (fun b => BitVec.ofNat 32 (ofBytes (b.map (·.1))))
          let bad := (parts.zipIdx).filterMap (fun b => if b.1.any (·.2) then some b.2 else none)
          let t1 := { t with bad := dedup (t.bad ++ bad) }
          State.cbRelease g.num cbFuel (s.setToken g.num m.token (t1.arrive (g.field 49 48) j elems))

/-- Ends a move; its CBPUT completes with the last one (R383), with one record where any of its moves carried poison (R415). -/
def State.cbMoveEnd (s : State) (m : CbMove) (pois : Bool) : State :=
  let s1 : State := { s with moves := tdel s.moves m.id }
  let p := pois || m.carried
  if (tvals s1.moves).any (fun x => x.eng == m.eng) then
    { s1 with moves := s1.moves.map (fun e => (e.1, if e.2.eng = m.eng then { e.2 with carried := e.2.carried || p } else e.2)) }
  else match s1.wave? m.wave with
    | some w => (s1.carriedPoison w 13 p).engDone m.eng
    | none => s1.engDone m.eng

/-- An arrival's move reads some of its source, between two places, ahead of the rest (R350). -/
def State.moveTake (s : State) (x : CbMove) (w : Wave) (lo hi : Nat) : State :=
  let l := meetRanges x.data.left lo hi
  if x.faultWait.isSome || !s.mayRead w x.before x.id (s.rangePlaces w x.eng_ [x.source] l) then s
  else
    let t := (s.takeRanges w x.eng_ [x.source] l x.data).1
    let s := s.touchRanges w x.eng_ [x.source] (t.since x.data)
    { s with moves := tset s.moves x.id { x with data := t } }

/-- CB_MOVE_COMPLETE (R383 to R387): an arrival's move reads its source and the arrival is made; a fault is recorded and the
arrival counts as missing. -/
def execCbMoveComplete (m : Nat) (s : State) : Host.Outcome State Fault Refusal :=
  .next (match tget s.moves m with
    | none => s
    | some x =>
      match s.wave? x.wave with
      | none => s.cbMoveEnd x false
      | some w =>
        if x.faultWait.isSome || !s.mayRead w x.before x.id (s.rangePlaces w x.eng_ [x.source] x.data.left) then s
        else match s.fetch w x.eng_ x.data x.source 0 x.len with
          | (bs, none) =>
            ((s.touchRanges w x.eng_ [x.source] [(0, x.len)]).cbArrive x (s.whoOf w) bs).cbMoveEnd x (bs.any (·.2))
          | (_, some st) => match st.err with
            | .miss level =>
              let (s1, id) := s.engMiss x.launch w.lcore st.va level .read
              { s1 with moves := tset s1.moves m { x with faultWait := some id } }
            | .cause k =>
              ((s.report x.launch (s.whoOf w)
                { kind := 1, source := 0x2F, cause := k, value := st.off, writer := x.gid, addr := st.va,
                  detail := 0 }).markFaulted x.launch).cbMoveEnd x false)

/-- CB_RELEASE_TASK_HANDOFF (R387): the oldest release task that a group's number holds enters the pool. -/
def execCbReleaseTaskHandoff (g : Nat) (s : State) : Host.Outcome State Fault Refusal :=
  .next (match s.heldTasks.find? (fun h => h.source == 2 && h.place == g) with
    | none => s
    | some h =>
      if s.poolFree h.task.launch = 0 then s
      else
        let s1 : State := { s with heldTasks := s.heldTasks.erase h }
        s1.enterPool h.task h.task.share false)

end Sys2Proof.Machine
end

