-- ==== Sys2Proof/Machine/Matrix.lean ====
section
/-!
DEFINITION. The matrix engine (R292 to R319): gangs and their rendezvous, passes, operand streams and the accumulator
instructions. Products and sums are those of R74, R84 and R85.
-/

namespace Sys2Proof.Machine

/-- The class of a format as a matrix operand (R84): 0 F32, 1 16-bit floats, 2 8-bit floats, 3 logarithmic, 4 integer. -/
def matClass (fmt : Nat) : Nat :=
  if fmt = 1 then 0 else if fmt = 4 ∨ fmt = 5 then 1 else if fmt = 8 ∨ fmt = 9 then 2
  else if fmt = 12 ∨ fmt = 13 ∨ fmt = 14 then 3 else 4

/-- Whether a format may be a matrix operand (R300): 1 or 4 to 18. -/
def isMatFmt (fmt : Nat) : Bool := fmt == 1 || (decide (4 ≤ fmt) && decide (fmt ≤ 18))

/-- The group size of a format (R84). -/
def groupSize (fmt : Nat) : Nat :=
  if fmt = 1 then 1 else if fmt ≤ 7 then 8 else if fmt ≤ 11 then 16 else 32

/-- The K of a format (R297). -/
def shapeK (fmt : Nat) : Nat := if fmt = 1 then 8 else if fmt ≤ 7 then 32 else if fmt ≤ 12 then 64 else 128

/-- The K of a pair (R297). -/
def pairK (f g : Nat) : Nat := Nat.min (shapeK f) (shapeK g)

/-- The registers of an A fragment (R298). -/
def fragRegs (k e width : Nat) : Nat := (64 * k + width * e - 1) / (width * e)

/-- The bytes of a B fragment (R299). -/
def fragBytes (k e : Nat) : Nat := 4 * ((64 * k + e - 1) / e)

/-- A tile as a team starts with it (R292). -/
def Tile.empty : Tile := { tag := 0xA000, sticky := false, elems := [], poison := [] }

/-- A tile of a team. -/
def State.tile (s : State) (team n : Nat) : Tile :=
  match s.team? team with
  | some t => tgetD t.tiles n Tile.empty
  | none => Tile.empty

/-- Puts a tile back. -/
def State.setTile (s : State) (team n : Nat) (x : Tile) : State :=
  s.modTeam team (fun t => { t with tiles := tset t.tiles n x })

/-- An empty gang register (R294). -/
def Gang.empty : Gang := { members := [], latch := [], complete := false, reuse := [], retired := false, waited := 0 }

/-- A CLOSED stream (R309). -/
def Stream.closed : Stream := { st := 0, team := 0, ring := 0, fmt := 0, scale := 0, subs := [], taken := [], freed := 0 }

/-- The unit of a team. -/
def State.grpOf (s : State) (team : Nat) : Nat :=
  match s.team? team with
  | some t => t.grp
  | none => 0

/-- A gang register of a unit. -/
def State.gang (s : State) (g n : Nat) : Gang :=
  match tget s.grps g with
  | some x => tgetD x.gangs n Gang.empty
  | none => Gang.empty

/-- Puts a gang register back. -/
def State.setGang (s : State) (g n : Nat) (x : Gang) : State := s.modGrp g (fun u => { u with gangs := tset u.gangs n x })

/-- An operand stream of a unit. -/
def State.stream (s : State) (g n : Nat) : Stream :=
  match tget s.grps g with
  | some x => tgetD x.streams n Stream.closed
  | none => Stream.closed

/-- Puts a stream back. -/
def State.setStream (s : State) (g n : Nat) (x : Stream) : State :=
  s.modGrp g (fun u => { u with streams := tset u.streams n x })

/-- The unit of the wave that issues. -/
def Ctx.grp (c : Ctx) : Nat := c.s.grpOf c.w.team

/-- The members of a member word (R295). -/
def memberList (m : Nat) : List (Nat × Nat) :=
  (List.range (bits m 63 56)).map (fun i => (bits m (8 * i + 7) (8 * i + 6), bits m (8 * i + 5) (8 * i)))

/-- Whether a member of a launch's unit exists (R296). -/
def State.memberExists (s : State) (g : Nat) (waves : Nat) (m : Nat × Nat) : Bool :=
  match tget s.grps g with
  | some x => decide (m.1 < x.teams.length) && decide (m.2 < waves)
  | none => false

/-- GANG (R295, R296). -/
def execGang (d a : BitVec 7) (s : State) : Host.Outcome State Fault Refusal :=
  s.issue (fun c =>
    let fs := [a.toNat, a.toNat + 1]
    let m := c.w.pair c.first a.toNat
    let n := bits m 63 56
    let ms := memberList m
    let waves := match c.s.team? c.w.team with
      | some t => t.waves
      | none => 0
    do
      c.check { regs := fs, pairs := [a.toNat], first := fs }
      let high := m % 2 ^ 48 / 2 ^ (8 * Nat.min n 6)
      if n < 2 ∨ n > 6 ∨ high ≠ 0 ∨ bits m 55 48 ≠ 0 ∨ (dedup ms).length ≠ ms.length ∨
          ms.all (c.s.memberExists c.grp waves) = false then
        throw (c.raiseAll 12 1)
      if !(c.s.gang c.grp d.toNat).latch.isEmpty then throw (c.raiseAll 12 2)
      let w ← c.region (fs.map (fun f => c.w.rowOf c.first f)) []
      pure (c.done (c.s.setGang c.grp d.toNat { Gang.empty with members := ms }) w))

/-- The registers that an A fragment of a format occupies (R298): with the stream's K, where one is given, else with its own
(R300). -/
def Ctx.fragSize (c : Ctx) (f : Nat) (sfmt : Option Nat) : Nat :=
  fragRegs (match sfmt with
    | some g => pairK f g
    | none => shapeK f) (elemCount f) c.w.width

/-- The format that a fragment in registers from a on has, with whether its tagged registers agree (R298, R300): that of the
first tagged register, in any lane, among those that the stream's format would occupy, else the stream's with scale 0; F32
stands for the format of a stream that is not OPEN. A field beyond the window is no register, and check 1 stops the
instruction for it. -/
def Ctx.fragTag (c : Ctx) (a : Nat) (stream : Option Nat) : BitVec 16 × Bool :=
  let sfmt := stream.getD 1
  let lanes := List.range c.w.width
  let tagsOf : Nat → List (BitVec 16) := fun n =>
    ((fieldsFrom a n).filter (c.w.fieldOk c.act)).flatMap (fun i =>
      (lanes.map (fun l => c.w.tagAt l i)).filter (fun t => tagFmt t != 0))
  let n0 := fragRegs (shapeK sfmt) (elemCount sfmt) c.w.width
  match tagsOf n0 with
  | [] => (mkTag sfmt 0, true)
  | t :: _ =>
    let f := tagFmt t
    let n := if isMatFmt f then c.fragSize f stream else n0
    (t, (tagsOf n).all (fun u => u == t))

/-- An A fragment as registers from a on hold it, in every lane of the wave (R298). -/
def Wave.frag (w : Wave) (a n : Nat) (tag : BitVec 16) : Frag :=
  let at_ := (List.range n).flatMap (fun i => (List.range w.width).map (fun l => (i, l)))
  { tag := tag
    words := at_.map (fun x => (64 * x.1 + x.2, w.reg x.2 (a + x.1)))
    poison := (at_.filter (fun x => w.regPoison x.2 (a + x.1))).map (fun x => 64 * x.1 + x.2) }

/-- Whether a tile's format suits a fragment's class, where the stream gives no format to compare (R300). -/
def tileSuits (op f : Nat) (tile : BitVec 16) : Bool :=
  op == 2 || tagFmt tile == (if matClass f < 4 then 20 else 21)

/-- The format checks of a matrix operation on a tile (R300, R76). -/
def matFormatOk (op : Nat) (ftag sfmt : Nat × Int) (tile : BitVec 16) : Bool :=
  let cls := matClass ftag.1
  let sum := ftag.2 + sfmt.2
  cls == matClass sfmt.1 &&
    (if cls < 4 then op == 2 || tagFmt tile == 20
     else if op = 2 then decide (-128 ≤ sum) && decide (sum ≤ 127)
     else tagFmt tile == 21 && decide (tagScale tile = sum))

/-- A tag's format and the scale that it gives its elements (R60). -/
def tagParts (t : BitVec 16) : Nat × Int := (tagFmt t, if isNarrow (tagFmt t) then tagScale t else 0)

/-- The format and scale of a stream's B fragments. -/
def Stream.parts (x : Stream) : Nat × Int := (x.fmt, sext x.scale.toNat 8)

/-- A member's arrival at the latch (R301 to R303, R306); the latch is COMPLETE when every listed member has arrived (R305). -/
def Ctx.arrive (c : Ctx) (w : Wave) (op d st g member : Nat) (reuse : Bool) (frag : Frag) : State :=
  let gg := c.s.gang c.grp g
  let x := c.s.stream c.grp st
  let (eng, s) := c.s.engAdd w.uid 2
  let tile := s.tile c.w.team d
  let a : Arrival :=
    { member := member, wave := w.uid, team := w.team, op := op, stream := st, tile := d, oldTag := tile.tag,
      frag := frag, offset := c.w.pc, run := c.r, before := c.w.snapshot, eng := eng, oldReuse := tget gg.reuse member }
  let latch := gg.latch ++ [a]
  let gg1 := { gg with latch := latch, complete := (List.range gg.members.length).all (fun m => latch.any (·.member == m))
                       reuse := if reuse then tset gg.reuse member frag else tdel gg.reuse member }
  let sum := (tagParts frag.tag).2 + x.parts.2
  let newTag : BitVec 16 := if matClass (tagFmt frag.tag) < 4 then mkTag 20 0 else mkTag 21 sum
  let s1 := if op = 2 then s.setTile c.w.team d { tile with tag := newTag } else s
  let s2 := c.doneEffect (s1.setGang c.grp g gg1) { w with wait := .gang g }
  let clash := gg.latch.any (fun b => b.op != op || b.stream != st)
  let same := gg.latch.any (fun b => b.team == c.w.team && b.tile == d)
  if clash then s2.withdraw c.grp g 12 (fun _ => 3)
  else if same then s2.withdraw c.grp g 12 (fun _ => 4)
  else if gg1.complete then s2 else s2.yieldTurn c.w

/-- A matrix operation at issue (R300, R301): op 0 MMA, 1 MMAN, 2 MMAS. -/
def Ctx.mma (c : Ctx) (op d a g st : Nat) (reuse : Bool) : Except Raise State := do
  let team := c.s.team? c.w.team
  let tiles := match team with
    | some t => t.accTiles
    | none => 0
  let rank := match team with
    | some t => t.rank
    | none => 0
  let gg := c.s.gang c.grp g
  let x := c.s.stream c.grp st
  let isOpen := x.st == 1
  let sfmt := if isOpen then some x.fmt else none
  let member := gg.members.findIdx? (fun m => m == (rank, c.w.idx))
  let held := member.bind (fun m => tget gg.reuse m)
  let (tag, same) := match held with
    | some f => (f.tag, true)
    | none => c.fragTag a sfmt
  let f := tagFmt tag
  let n := if isMatFmt f then c.fragSize f sfmt else 1
  if d ≥ tiles then throw (c.raiseAll 2 d)
  if held.isNone then c.checkRegs (fieldsFrom a n)
  let tile := c.s.tile c.w.team d
  let fmtOk := same && isMatFmt f && (if isOpen then matFormatOk op (tagParts tag) x.parts tile.tag else tileSuits op f tile.tag)
  if !fmtOk then throw (c.raiseAll 4 ((Config.operandPos (BitVec.ofNat 32 c.w.pc) a).toNat + tag.toNat * 2 ^ 16))
  match member with
  | none => throw (c.raiseAll 12 0)
  | some m =>
    if !isOpen || !(x.subs.any (fun y => y.gang == g)) then throw (c.raiseAll 12 5)
    if gg.retired then throw (c.raiseAll 12 6)
    let rows := if held.isSome then [] else
      (List.range c.w.width).flatMap (fun l => (fieldsFrom a n).map (fun i => c.w.rowOf l i))
    let w ← c.region (dedup rows) []
    if gg.complete || decide (c.s.engCount c.w.uid 2 ≥ 255) then pure c.s
    else pure (c.arrive w op d st g m reuse (held.getD (c.w.frag a n tag)))

/-- MMA (R301). -/
def execMma (d : BitVec 6) (a : BitVec 7) (g : BitVec 4) (sv : BitVec 3) (r : BitVec 1) (s : State) :
    Host.Outcome State Fault Refusal :=
  s.issue (fun c => c.mma 0 d.toNat a.toNat g.toNat sv.toNat (r == 1))

/-- MMAN (R301). -/
def execMman (d : BitVec 6) (a : BitVec 7) (g : BitVec 4) (sv : BitVec 3) (r : BitVec 1) (s : State) :
    Host.Outcome State Fault Refusal :=
  s.issue (fun c => c.mma 1 d.toNat a.toNat g.toNat sv.toNat (r == 1))

/-- MMAS (R301). -/
def execMmas (d : BitVec 6) (a : BitVec 7) (g : BitVec 4) (sv : BitVec 3) (r : BitVec 1) (s : State) :
    Host.Outcome State Fault Refusal :=
  s.issue (fun c => c.mma 2 d.toNat a.toNat g.toNat sv.toNat (r == 1))

/-- The entries of a cluster's reservation table (R306). -/
def State.resvOn (s : State) (cluster : Nat) : List Resv := (tvals s.resv).filter (fun e => e.cluster == cluster)

/-- The cluster of a unit. -/
def State.clusterOf (s : State) (g : Nat) : Nat :=
  match tget s.grps g with
  | some x => x.cluster
  | none => 0

/-- Whether a wait is for a gang's rendezvous. -/
def Wait.gang? (g : Nat) : Wait → Option Unit
  | .gang h => if h = g then some () else Option.none
  | _ => Option.none

/-- Whether a unit is on its cores: it is not saved (R402). -/
def State.isResident (s : State) (g : Nat) : Bool :=
  match tget s.grps g with
  | some x => decide (x.status < 2)
  | none => false

/-- JOINT_OP_RESERVE (R306): a COMPLETE operation takes a table entry, its latch becomes EMPTY and its members' waits
end. -/
def execJointOpReserve (g gang : Nat) (s : State) : Host.Outcome State Fault Refusal :=
  let gg := s.gang g gang
  let cl := s.clusterOf g
  .next (if !gg.complete || !s.isResident g || decide ((s.resvOn cl).length ≥ 32) then s
  else
    let arr := sortBy (fun x y => decide (x.member ≤ y.member)) gg.latch
    let (id, s1) := s.newId
    let prios := arr.map (fun a => match s.wave? a.wave with
      | some w => w.prio
      | none => 0)
    let e : Resv :=
      { id := id, cluster := cl, team := (arr.map (·.team)).headD 0, wave := (arr.map (·.wave)).headD 0, eng := 0,
        prio := maxOf prios, tiles := arr.map (fun a => (a.team, a.tile))
        kind := .joint g gang ((arr.map (·.stream)).headD 0) ((arr.map (·.op)).headD 0) arr 0
        granted := false, raised := false, readyAt := none }
    let s2 : State := { s1 with resv := tset s1.resv id e }
    let s3 := s2.setGang g gang { gg with latch := [], complete := false, waited := 0 }
    arr.foldl (fun s a => s.modWave a.wave (fun w => w.endWaitFor (Wait.gang? gang) (fun w _ => w))) s3)

/-- GANG_WATCHDOG (R304). -/
def execGangWatchdog (g gang : Nat) (s : State) : Host.Outcome State Fault Refusal :=
  let gg := s.gang g gang
  .next (if gg.latch.isEmpty || gg.complete || !s.isResident g || decide (gg.waited < 1048576) then s
  else s.withdraw g gang 13 (fun _ => BitVec.ofNat 64 gang))

/-- The stream position that a subscriber's next operation uses (R311). -/
def Stream.posOf (x : Stream) (gang : Nat) : Nat :=
  match x.subs.find? (fun y => y.gang == gang) with
  | some y => y.pos
  | none => 0

/-- Whether a stream can supply a gang's current slot (R311): it holds the slot, or the next one is FILLED. -/
def State.supplies (s : State) (x : Stream) (gang : Nat) : Bool :=
  let i := x.posOf gang - x.freed
  let r := s.ring x.team x.ring
  decide (i < x.taken.length) || (decide (i = x.taken.length) && r.at r.get.toNat == 3)

/-- The gang register of a joint entry. -/
def Resv.gang? (e : Resv) : Option (Nat × Nat) :=
  match e.kind with
  | .joint g n _ _ _ _ => some (g, n)
  | _ => none

/-- Whether an entry is ready (R307). -/
def State.resvReady (s : State) (e : Resv) : Bool :=
  let earlier := (s.resvOn e.cluster).filter (fun o => decide (o.id < e.id) && !o.granted)
  !e.granted && !(earlier.any (fun o => o.tiles.any (fun t => e.tiles.contains t))) &&
    (match e.kind with
      | .joint g n st _ _ _ => !(earlier.any (fun o => o.gang? == some (g, n))) && s.supplies (s.stream g st) n
      | _ => true)

/-- The clk count of a cluster's column. -/
def State.clusterClk (s : State) (cluster : Nat) : Nat := s.colClk (cluster / 4)

/-- The clk at which a ready entry became ready: now, where no time has passed since. -/
def State.readySince (s : State) (e : Resv) : Nat := e.readyAt.getD (s.clusterClk e.cluster)

/-- Whether one entry is older than another (R307). -/
def State.resvOlder (s : State) (a b : Resv) : Bool :=
  decide (s.readySince a < s.readySince b) || (s.readySince a == s.readySince b && decide (a.id ≤ b.id))

/-- The entry that the arbiter of a cluster grants next (R307). -/
def State.arbiterPick (s : State) (cluster : Nat) : Option Resv :=
  let ready := (s.resvOn cluster).filter s.resvReady
  let raised := ready.filter (fun e => e.raised || decide (s.clusterClk cluster ≥ s.readySince e + 65536))
  if !raised.isEmpty then (sortBy s.resvOlder raised).head?
  else
    let top := maxOf (ready.map (·.prio))
    (sortBy s.resvOlder (ready.filter (fun e => e.prio == top))).head?

/-- A joint operation takes its slot of the stream (R311): the slot, the stream and the ring as they stand after. -/
def State.takeSlot (s : State) (g gang st : Nat) : State × Nat :=
  let x := s.stream g st
  let i := x.posOf gang - x.freed
  let r := s.ring x.team x.ring
  let fresh := decide (i ≥ x.taken.length)
  let slot := if fresh then r.get.toNat % r.count else (x.taken[i]?).getD 0
  let s1 := if fresh then s.setRing x.team x.ring r.consume else s
  let subs := x.subs.map (fun y => if y.gang = gang then
      (if y.used + 1 = y.window then { y with pos := y.pos + 1, used := 0 } else { y with used := y.used + 1 }) else y)
  (s1.setStream g st { x with subs := subs, taken := if fresh then x.taken ++ [slot] else x.taken }, slot)

/-- A tile read from scratchpad (R316, R414): the low 36 bits of each 8 bytes. -/
def State.loadTile (s : State) (w : Wave) (base : Nat) (t : Tile) : Tile :=
  (List.range 4096).foldl (fun (x : Tile) p =>
    let v := ofBytes (s.scratchBytes w (base + 8 * p) 8) % 2 ^ 36
    { x with elems := if v = 0 then tdel x.elems p else tset x.elems p (BitVec.ofNat 36 v)
             poison := setPoison x.poison p (s.scratchPoisoned w (base + 8 * p) || s.scratchPoisoned w (base + 8 * p + 4)) })
    { t with sticky := false }

/-- MATRIX_GRANT (R307): the engine is free and the arbiter picks the entry. An ACCLD reads its scratchpad now, as a read that its
wave makes after all that it has issued (R316, R351): it waits for what acquires, and for accesses to the same bytes (R341,
R344). No other operation meets its tile until it completes. -/
def execMatrixGrant (e : Nat) (s : State) : Host.Outcome State Fault Refusal :=
  .next (match tget s.resv e with
    | none => s
    | some x =>
      if (s.resvOn x.cluster).any (·.granted) || s.arbiterPick x.cluster != some x || s.barredWave x.wave then s
      else match x.kind with
        | .joint g n st op arr _ =>
          let (s1, slot) := s.takeSlot g n st
          { s1 with resv := tset s1.resv e { x with granted := true, kind := .joint g n st op arr slot } }
        | .accld n _ base _ =>
          let taken := fun (t : State) => ({ t with resv := tset t.resv e { x with granted := true } } : State)
          (match s.wave? x.wave with
            | some w =>
              if s.mayRead w w.nextPend s.nextId (s.scratchPlaces w 8 base 32768) then
                taken (s.setTile x.team n (s.loadTile w base (s.tile x.team n)))
              else s
            | none => taken s)
        | _ => { s with resv := tset s.resv e { x with granted := true } })

/-- MATRIX_ENTRY_RAISE (R307): an entry has been ready for 65,536 clk. -/
def execMatrixEntryRaise (e : Nat) (s : State) : Host.Outcome State Fault Refusal :=
  .next (match tget s.resv e with
    | none => s
    | some x =>
      if s.resvReady x && decide (s.clusterClk x.cluster ≥ s.readySince x + 65536) then
        { s with resv := tset s.resv e { x with raised := true } }
      else s)

/-- Before time passes, the entries that have become ready take the clk they did so at (R307), and the gangs whose first
arrival waits are counted on by the clk of their column (R304). -/
def State.noteReady (s : State) : State :=
  { s with resv := s.resv.map (fun e => if e.2.readyAt.isNone && s.resvReady e.2 then
      (e.1, { e.2 with readyAt := some (s.clusterClk e.2.cluster) }) else e) }

/-- The watchdogs of the resident units counted on (R304). -/
def State.noteGangs (s : State) (clk : Nat → Nat) : State :=
  { s with grps := s.grps.map (fun u => (u.1,
      if u.2.status > 1 then u.2
      else { u.2 with gangs := u.2.gangs.map (fun g => (g.1,
        if g.2.latch.isEmpty then g.2 else { g.2 with waited := g.2.waited + clk (u.2.cluster / 4) })) })) }

/-- One element of an A fragment with whether it is poisoned (R298). -/
def Frag.elem (f : Frag) (k width row i : Nat) : Nat × Bool :=
  let fmt := tagFmt f.tag
  let e := elemCount fmt
  let p := k * row + i
  let key := 64 * (p / (width * e)) + p % (width * e) / e
  (elemAt fmt (tgetD f.words key 0) (p % e), f.poison.contains key)

/-- One element of a B fragment whose words are given with their poison (R299). -/
def bElem (words : List (Word × Bool)) (fmt k col i : Nat) : Nat × Bool :=
  let e := elemCount fmt
  let p := k * col + i
  let w := (words[p / e]?).getD (0, false)
  (elemAt fmt w.1 (p % e), w.2)

/-- The exact product of an A and a B element with both scales (R74, R85, R297). -/
def matProduct (fa fb : Nat) (scale : Int) (x y : Nat) : FVal :=
  if matClass fa = 3 then
    let (sx, cx) := lnsParts fa x
    let (sy, cy) := lnsParts fb y
    if cx = 0 ∨ cy = 0 then .fin false 0 0
    else let (m, e) := linOf (lnsE fa cx + lnsE fb cy + 8 * scale); .fin (sx != sy) m e
  else (mulVal (valueOf fa x) (valueOf fb y)).1.scale scale

/-- The exact sum of a group, the first product first (R85). -/
def sumVals : List FVal → FVal
  | [] => .fin false 0 0
  | v :: t => t.foldl (fun a b => (addVal .rne a b).1) v

/-- Adds one group to a floating tile element (R85). -/
def addGroupF (c : Nat) (ps : List FVal) : Nat :=
  toA36 (addVal .rne (a36.decode c) (a36.decode (toA36 (sumVals ps)))).1

/-- A finite value that is an integer, as an integer. -/
def FVal.toInt : FVal → Int
  | .fin n m e => signedMant n (m * 2 ^ e.toNat)
  | _ => 0

/-- Adds an integer to an I36 element (R76): the result and whether it saturated. -/
def addGroupI (c : Int) (x : Int) : Int × Bool :=
  let s := c + x
  let top : Int := 2 ^ 35 - 1
  if s > top then (top, true) else if s < -top then (-top, true) else (s, false)

/-- One element of a pass (R297): its new bits, whether it saturated, and whether a product was poisoned. -/
def passElem (op : Nat) (f : Frag) (width : Nat) (bw : List (Word × Bool)) (fb : Nat) (sb : Int) (old : Nat) (row col : Nat) :
    Nat × Bool × Bool :=
  let fa := tagFmt f.tag
  let k := pairK fa fb
  let gs := Nat.min (groupSize fa) (groupSize fb)
  let xs := (List.range k).map (fun i => (f.elem k width row i, bElem bw fb k col i))
  let pois := xs.any (fun x => x.1.2 || x.2.2)
  if matClass fa = 4 then
    let ps := xs.map (fun x => let p := (matProduct fa fb 0 x.1.1 x.2.1).toInt; if op = 1 then -p else p)
    let c0 : Int := if op = 2 then 0 else sext old 36
    let r := (chunks gs ps).foldl (fun (a : Int × Bool) g =>
      let (c, sat) := addGroupI a.1 (g.foldl (fun x y => x + y) 0)
      (c, a.2 || sat)) (c0, false)
    (wrap r.1 36, r.2, pois)
  else
    let sa := (tagParts f.tag).2
    let ps := xs.map (fun x => let p := matProduct fa fb (sa + sb) x.1.1 x.2.1; if op = 1 then p.negate else p)
    ((chunks gs ps).foldl addGroupF (if op = 2 then 0 else old), false, pois)

/-- A pass over a member's tile (R297, R415). -/
def passTile (op : Nat) (f : Frag) (width : Nat) (bw : List (Word × Bool)) (fb : Nat) (sb : Int) (t : Tile) : Tile :=
  (List.range 4096).foldl (fun (x : Tile) p =>
    let r := passElem op f width bw fb sb (tgetD t.elems p 0).toNat (p / 64) (p % 64)
    { x with
      elems := if r.1 = 0 then tdel x.elems p else tset x.elems p (BitVec.ofNat 36 r.1)
      sticky := x.sticky || r.2.1
      poison := setPoison x.poison p (r.2.2 || (op != 2 && t.poison.contains p)) })
    { t with sticky := if op = 2 then false else t.sticky }

/-- The words of a B fragment in a slot of a ring, with their poison (R299); a ring may lie in the cluster window (R159). -/
def State.bWords (s : State) (x : Stream) (slot n : Nat) : List (Word × Bool) :=
  match s.team? x.team with
  | none => []
  | some t =>
    let r := tgetD t.rings x.ring Ring.empty
    (List.range n).map (fun i =>
      match s.teamSpan t (r.base + slot * r.size + 4 * i) with
      | none => (0, false)
      | some (u, o, _) => match s.team? u with
        | none => (0, false)
        | some v => (BitVec.ofNat 32 (ofBytes ((List.range 4).map (fun j => tgetD v.scratch (o + j) 0))),
            v.scratchPoison.contains (o / 4)))

/-- Whether a joint entry of the table names a stream. -/
def Resv.names (e : Resv) (g st : Nat) : Bool :=
  match e.kind with
  | .joint g' _ st' _ _ _ => g' == g && st' == st
  | _ => false

/-- The stream whose closing a wave waits for. -/
def Wait.strmClose? (st : Nat) : Wait → Option Unit
  | .strmClose i => if i = st then some () else Option.none
  | _ => Option.none

/-- A stream of a unit becomes CLOSED, and the waits for it end (R313). -/
def State.closeStream (s : State) (g st : Nat) : State :=
  let closers := (tvals s.waves).filter (fun w => s.grpOf w.team == g && (w.waitsFor (Wait.strmClose? st)).isSome)
  closers.foldl (fun s w => s.modWave w.uid (fun v =>
      (v.endWaitFor (Wait.strmClose? st) (fun v _ => v)).endWaitFor (Wait.strmClose? st) (fun v _ => v)))
    (s.setStream g st Stream.closed)

/-- Releases the slots that every subscriber has passed and no granted operation reads, in order (R311); in state CLOSING
with no operation left, every slot, and the stream becomes CLOSED (R313). -/
def State.releaseSlots (s : State) (g st : Nat) : Nat → State
  | 0 => s
  | f + 1 =>
    let x := s.stream g st
    let users := (tvals s.resv).filter (fun e => e.names g st)
    let done := x.st == 2 && users.isEmpty
    match x.taken with
    | [] => if done then s.closeStream g st else s
    | slot :: rest =>
      let reading := users.any (fun e => e.granted && (match e.kind with
        | .joint _ _ _ _ _ k => k == slot
        | _ => false))
      if done || (!reading && x.subs.all (fun y => decide (y.pos > x.freed))) then
        let s1 := s.setStream g st { x with taken := rest, freed := x.freed + 1 }
        State.releaseSlots (s1.updateRing x.team x.ring ((s1.ring x.team x.ring).put slot 5)) g st f
      else s

/-- MATRIX_PASS_COMPLETE (R297): the pass of the lowest member left writes its tile and its counter falls; the last pass
ends the operation. -/
def execMatrixPassComplete (e : Nat) (s : State) : Host.Outcome State Fault Refusal :=
  .next (match tget s.resv e with
    | none => s
    | some x =>
      match x.kind, x.granted with
      | .joint g n st op (a :: rest) slot, true =>
        if s.barredWave a.wave then s else
        let sm := s.stream g st
        let width := match s.launch? (match s.team? a.team with | some t => t.launch | none => 0) with
          | some l => 16 * 2 ^ l.field 113 112
          | none => 64
        let fa := tagFmt a.frag.tag
        let words := fragBytes (pairK fa sm.fmt) (elemCount sm.fmt) / 4
        let t1 := passTile op a.frag width (s.bWords sm slot words) sm.fmt sm.parts.2 (s.tile a.team a.tile)
        let s1 := (s.setTile a.team a.tile t1).engDone a.eng
        if rest.isEmpty then
          let s2 : State := { s1 with resv := tdel s1.resv e }
          s2.releaseSlots g st 65
        else { s1 with resv := tset s1.resv e { x with kind := .joint g n st op rest slot } }
      | _, _ => s)

/-- The check of a tile's number at issue (R293). -/
def Ctx.checkTile (c : Ctx) (n : Nat) : Except Raise Unit :=
  let tiles := match c.s.team? c.w.team with
    | some t => t.accTiles
    | none => 0
  if n < tiles then .ok () else .error (c.raiseAll 2 n)

/-- Whether an accumulator instruction must stall (R306, R279). -/
def Ctx.accStalls (c : Ctx) (counted : Bool) : Bool :=
  decide ((c.s.resvOn (c.s.clusterOf c.grp)).length ≥ 32) || (counted && decide (c.s.engCount c.w.uid 2 ≥ 255))

/-- An accumulator operation takes its table entry (R306) and, where it is counted, its place on the matrix counter. -/
def State.reserveAcc (s : State) (c : Ctx) (tile : Nat) (counted : Bool) (kind : ResvKind) : State :=
  let (eng, s1) := if counted then s.engAdd c.w.uid 2 else (0, s)
  let (id, s2) := s1.newId
  let e : Resv :=
    { id := id, cluster := c.s.clusterOf c.grp, team := c.w.team, wave := c.w.uid, eng := eng, prio := c.w.prio,
      tiles := [(c.w.team, tile)], kind := kind, granted := false, raised := false, readyAt := none }
  { s2 with resv := tset s2.resv id e }

/-- Writes a tile's tag at issue (R292). -/
def State.tileTag (s : State) (c : Ctx) (n : Nat) (tag : BitVec 16) : State :=
  s.setTile c.w.team n { s.tile c.w.team n with tag := tag }

/-- ACCZ (R315). -/
def execAccz (d : BitVec 7) (f : BitVec 5) (sv : BitVec 8) (s : State) : Host.Outcome State Fault Refusal :=
  s.issue (fun c => do
    c.checkTile d.toNat
    if c.accStalls false then pure c.s
    else
      let tag := mkTag f.toNat sv.toInt
      pure (c.done ((c.s.tileTag c d.toNat tag).reserveAcc c d.toNat false (.accz d.toNat tag)) c.w))

/-- The checks of ACCLD and ACCST on their record (R316). -/
def Ctx.checkAcc (c : Ctx) (tile e : Nat) : Except Raise Wave := do
  let fs := [e, e + 1]
  let r := c.record e
  c.checkTile tile
  c.checkRegs fs
  c.checkPoison [] fs []
  c.checkOnce [(r.1 % 8 != 0, r.1), (r.2 != 32768, r.2)]
  c.checkScratch (c.act.map (fun l => (l, r.1, r.2)))
  c.region (fs.map (fun f => c.w.rowOf c.first f)) []

/-- ACCLD (R316). -/
def execAccld (d a : BitVec 7) (f : BitVec 5) (s : State) : Host.Outcome State Fault Refusal :=
  s.issue (fun c => do
    let w ← c.checkAcc d.toNat a.toNat
    if c.accStalls true then pure c.s
    else
      let tag := mkTag f.toNat (if f = 20 then 0 else tagScale (c.s.tile c.w.team d.toNat).tag)
      pure (c.done ((c.s.tileTag c d.toNat tag).reserveAcc c d.toNat true
        (.accld d.toNat f.toNat (c.record a.toNat).1 tag)) w))

/-- ACCST (R316). -/
def execAccst (d a : BitVec 7) (s : State) : Host.Outcome State Fault Refusal :=
  s.issue (fun c => do
    let w ← c.checkAcc d.toNat a.toNat
    if c.accStalls true then pure c.s
    else pure (c.doneEffect (c.s.reserveAcc c d.toNat true (.accst d.toNat (c.record a.toNat).1)) w))

/-- ACCRD (R317). -/
def execAccrd (d a : BitVec 7) (t sv : BitVec 1) (ch : BitVec 5) (s : State) : Host.Outcome State Fault Refusal :=
  s.issue (fun c =>
    let stat := sv == 1
    let n := if stat then 1 else 8
    let fs := (List.range n).map (fun j => d.toNat + j)
    let tag := (c.s.tile c.w.team a.toNat).tag
    let fmt := if stat then 3 else if tagFmt tag = 20 || t == 1 then 1 else 2
    let o : OpSpec := { regs := fs, writes := c.act.flatMap (fun l => fs.map (fun f => c.w.put l f 0 (mkTag fmt 0))) }
    do
      c.checkTile a.toNat
      if !stat && decide (ch.toNat ≥ 4096 / (8 * c.w.width)) then throw (c.raiseAll 2 ch.toNat)
      c.check o
      let w ← c.regionOf o
      if c.accStalls true then pure c.s
      else
        let (s, w) := c.s.writeTags w o.writes
        let rows := c.act.map (fun l => (l, fs.map (fun f => c.w.rowOf l f)))
        pure (c.done (s.reserveAcc c a.toNat true (.accrd a.toNat ch.toNat tag stat (t == 1) rows)) w))

/-- An element of a tile as ACCRD writes it (R317). -/
def accValue (tag : BitVec 16) (toF32 : Bool) (x : BitVec 36) : Word :=
  if tagFmt tag = 20 then BitVec.ofNat 32 (f32.encode .rne (a36.decode x.toNat)).1
  else
    let i := sext x.toNat 36
    if toF32 then BitVec.ofNat 32 (f32.encode .rne ((FVal.ofInt i).scale (tagScale tag))).1
    else BitVec.ofInt 32 (max (-2147483648) (min 2147483647 i))

/-- The register writes of an ACCRD whose tile is read (R317, R415). -/
def accWrites (t : Tile) (width chunk : Nat) (tag : BitVec 16) (stat toF32 : Bool) (rows : List (Nat × List Nat)) :
    List LaneWrite :=
  rows.flatMap (fun r => (r.2.zipIdx).map (fun x =>
    let p := (8 * chunk + x.2) * width + r.1
    if stat then
      { row := x.1, lane := r.1, val := BitVec.ofNat 32 (tag.toNat + if t.sticky then 65536 else 0), poison := false }
    else
      { row := x.1, lane := r.1, val := accValue tag toF32 (tgetD t.elems p 0), poison := t.poison.contains p }))

/-- A tile written to scratchpad (R316, R415). -/
def State.storeTile (s : State) (w : Wave) (base : Nat) (t : Tile) : State :=
  (List.range 4096).foldl (fun (s : State) p =>
    s.scratchWrite w (base + 8 * p) ((toBytes 8 (tgetD t.elems p 0).toNat).map (fun b => (b, t.poison.contains p)))) s

/-- ACC_OP_COMPLETE (R308, R315 to R317): a granted accumulator operation is performed and leaves the table. -/
def execAccOpComplete (e : Nat) (s : State) : Host.Outcome State Fault Refusal :=
  .next (match tget s.resv e with
    | none => s
    | some x =>
      let s1 : State := ({ s with resv := tdel s.resv e } : State).engDone x.eng
      if !x.granted || s.barredWave x.wave then s
      else match x.kind, s.wave? x.wave with
        | .joint _ _ _ _ _ _, _ => s
        | .accz n _, _ => s1.setTile x.team n { Tile.empty with tag := (s.tile x.team n).tag }
        | .accld _ _ _ _, _ => s1
        | .accst n base, some w => (s1.storeTile w base (s.tile x.team n)).modWave x.wave (fun v =>
            v.sawPoison (!(s.tile x.team n).poison.isEmpty))
        | .accrd n chunk tag stat toF32 rows, some w =>
          s1.modWave x.wave (fun v => v.deliver (accWrites (s.tile x.team n) w.width chunk tag stat toF32 rows))
        | _, none => s1)

/-- The subscribers of a subscriber word (R309). -/
def subsOf (v : Nat) : List Sub :=
  ((List.range 4).map (fun j => ({ gang := bits v (8 * j + 3) (8 * j), window := bits v (8 * j + 7) (8 * j + 4), pos := 0,
                                   used := 0 } : Sub))).filter (fun x => x.window != 0)

/-- STRMOPEN (R309, R310). -/
def execStrmopen (d a : BitVec 7) (s : State) : Host.Outcome State Fault Refusal :=
  s.issue (fun c =>
    let fs := [a.toNat, a.toNat + 1]
    let v := (c.w.reg c.first a.toNat).toNat
    let fmt := bits v 12 8
    let scale := bits v 23 16
    let ring := bits v 3 0
    let subs := subsOf (c.w.reg c.first (a.toNat + 1)).toNat
    let r := c.s.ring c.w.team ring
    do
      c.checkRegs fs
      if bits v 31 24 ≠ 0 ∨ bits v 15 13 ≠ 0 ∨ bits v 7 4 ≠ 0 ∨ isMatFmt fmt = false ∨
          (isNarrow fmt = false ∧ scale ≠ 0) then
        throw (c.raiseAll 4 (c.formatInfo c.first a.toNat))
      c.checkPoison [] fs []
      if !r.init then throw (c.boundsRaise 1 none)
      if r.size < fragBytes (shapeK fmt) (elemCount fmt) then throw (c.boundsRaise 3 none)
      c.checkScratch (c.act.map (fun l => (l, r.base, r.count * r.size)))
      if (c.s.stream c.grp d.toNat).st ≠ 0 ∨ c.s.ringStreamed c.w.team ring = true ∨ subs.isEmpty = true ∨
          (dedup (subs.map (·.gang))).length ≠ subs.length then
        throw (c.raiseAll 12 7)
      let w ← c.region (fs.map (fun f => c.w.rowOf c.first f)) []
      let x : Stream :=
        { st := 1, team := c.w.team, ring := ring, fmt := fmt, scale := BitVec.ofNat 8 scale, subs := subs, taken := [],
          freed := 0 }
      pure ((c.doneEffect c.s w).setStream c.grp d.toNat x))

/-- STRMCLOSE (R313). -/
def execStrmclose (d : BitVec 7) (s : State) : Host.Outcome State Fault Refusal :=
  s.issue (fun c =>
    let x := c.s.stream c.grp d.toNat
    if x.st = 0 then pure (c.doneEffect c.s c.w)
    else
      let s1 := (c.doneEffect c.s { c.w with wait := .strmClose d.toNat }).setStream c.grp d.toNat { x with st := 2 }
      let gangs : List Nat := match tget s1.grps c.grp with
        | some g => (g.gangs.filter (fun e => e.2.latch.any (fun b => b.stream == d.toNat))).map (·.1)
        | none => []
      pure ((gangs.foldl (fun (s : State) n => s.withdraw c.grp n 12 (fun _ => 5)) s1).releaseSlots c.grp d.toNat 65))

/-- STRMSTAT (R314). -/
def execStrmstat (d : BitVec 7) (sv : BitVec 3) (s : State) : Host.Outcome State Fault Refusal :=
  s.issue (fun c =>
    let x := c.s.stream c.grp sv.toNat
    let v := if x.st = 0 then 0 else
      (if x.st = 1 then 1 else 2) + x.ring * 4 + x.subs.length * 256 + x.taken.length * 65536
    c.vector { regs := [d.toNat], writes := c.act.map (fun l => c.w.put l d.toNat (BitVec.ofNat 32 v) (mkTag 3 0)) } 0 id)

end Sys2Proof.Machine
end

