-- ==== Sys2Proof/Machine/Rays.lean ====
section
/-!
DEFINITION. The ray engine (R322, R325 to R336): outcomes, tasks and counts.
-/

namespace Sys2Proof.Machine

/-- Whether one hit comes before another (R325). -/
def HitRec.before (a b : HitRec) : Bool :=
  let c := cmpVal (f32.decode a.t.toNat) (f32.decode b.t.toNat)
  decide (c < 0) || (c == 0 && (decide (a.instAddr < b.instAddr) ||
    (a.instAddr == b.instAddr && decide (a.triAddr ≤ b.triAddr))))

/-- The outcome of a ray: six result words and, for a hit, its sort key; an error with its cause and address. -/
inductive RayOut where
  | hit (h : HitRec)
  | miss
  | error (cause addr : Nat)
  | wait (va level : Nat)
  deriving DecidableEq, Repr

/-- The outcome that a traversal gives (R325, R328). The order in which the engine reads is its own: an error ends the ray
whether or not a miss of another read is still to be replayed, and with first-hit any hit may. -/
def Trav.outcome (t : Trav) (firstHit : Bool) (key : Nat) : RayOut :=
  let errs := t.errs.map (fun x => RayOut.error x.1 x.2)
  let waits := t.miss.map (fun x => RayOut.wait x.1 x.2)
  if firstHit then choose key .miss (t.hits.map RayOut.hit ++ errs ++ waits)
  else match errs, waits with
    | [], [] => (match sortBy HitRec.before t.hits with
      | [] => .miss
      | h :: _ => .hit h)
    | [], w :: _ => w
    | _, _ => choose key .miss (errs ++ waits)

/-- The six result words (R330). -/
def RayOut.words : RayOut → List Word
  | .hit h => [h.t, h.prim, h.inst, h.u, h.v, BitVec.ofNat 32 (h.group * 65536 + if h.front then 1 else 2)]
  | .error c _ => [0x7F800000, 0xFFFFFFFF, 0xFFFFFFFF, 0, 0, BitVec.ofNat 32 (c * 256 + 3)]
  | _ => [0x7F800000, 0xFFFFFFFF, 0xFFFFFFFF, 0, 0, 0]

/-- The rays in flight in a core's engine. -/
def State.raysOn (s : State) (core : Nat) : Nat :=
  ((tvals s.rays).filter (fun r => r.core == core && r.result.isNone)).length

/-- The tags of TRACE's six results (R330). -/
def traceTag (j : Nat) : BitVec 16 := mkTag (if j = 0 ∨ j = 3 ∨ j = 4 then 1 else 3) 0

/-- The fields that a ray instruction names from its first ray register on. -/
def rayFields (a : Nat) : List Nat := (List.range 10).map (fun i => a + i)

/-- A ray of one lane (R329). -/
def Ctx.newRay (c : Ctx) (a b l : Nat) (eng : Option Nat) (rows : List Nat) (payload : List Word) (accept : Option Nat) :
    Ray :=
  { id := 0, wave := c.w.uid, team := c.w.team, launch := c.w.launch, core := c.w.pcore, tag := c.w.tag, depth := c.w.depth
    eng := eng, lane := l, regs := (rayFields a).map (fun f => c.w.reg l f), root := c.w.kreg b, rows := rows
    payload := payload, accept := accept, result := none, serial := c.r.serial, before := c.w.nextPend
    lcore := c.w.lcore, waveIdx := c.w.idx, gid := c.s.globalLane c.w l, faultWait := none, cancelled := [], got := [], bad := false }

/-- Adds rays to the engine. -/
def State.addRays (s : State) (rs : List Ray) : State :=
  rs.foldl (fun s r => let (id, s1) := s.newId; { s1 with rays := tset s1.rays id { r with id := id } }) s

/-- The operands of a ray instruction. -/
def raySpec (a b : Nat) (more : List Nat) (writes : List RegW) (reads : List Nat) : OpSpec :=
  { regs := rayFields a ++ more, data := ((rayFields a).take 8).map (fun f => (f, [1])), reads := rayFields a ++ reads,
    kreads := [b], writes := writes }

/-- The alignment check of the root (R329). -/
def Ctx.checkRoot (c : Ctx) (b : Nat) : Except Raise Unit :=
  let v := (c.w.kreg b).toNat
  if v % 128 = 0 then .ok () else .error (c.raiseAll 3 v)

/-- TRACE (R330, R331). -/
def execTrace (d a b : BitVec 7) (s : State) : Host.Outcome State Fault Refusal :=
  s.issue (fun c =>
    let fs := (List.range 6).map (fun j => d.toNat + j)
    let o := raySpec a.toNat b.toNat fs
      (c.act.flatMap (fun l => (List.range 6).map (fun j => c.w.put l (d.toNat + j) 0 (traceTag j)))) []
    do
      c.check o
      c.checkRoot b.toNat
      let w ← c.regionOf o
      if c.s.raysOn c.w.pcore + c.act.length > 2048 ∨ c.s.engCount c.w.uid 3 ≥ 255 then pure c.s
      else
        let (s, w) := c.s.writeTags w o.writes
        let (eng, s) := s.engAdd w.uid 3
        let rays := c.act.map (fun l => c.newRay a.toNat b.toNat l (some eng) (fs.map (fun f => c.w.rowOf l f)) [] none)
        pure (c.done (s.addRays rays) w))

/-- TRACEQ (R333, R334). -/
def execTraceq (d a b : BitVec 7) (s : State) : Host.Outcome State Fault Refusal :=
  s.issue (fun c =>
    let fs := [d.toNat, d.toNat + 1]
    let o := raySpec a.toNat b.toNat fs [] fs
    do
      c.check o
      c.checkRoot b.toNat
      let w ← c.regionOf o
      if c.s.raysOn c.w.pcore + c.act.length > 2048 then pure c.s
      else
        let (first, s) := c.s.reserveNumbers c.w.launch c.act.length
        let rays := (c.act.zipIdx).map (fun x =>
          c.newRay a.toNat b.toNat x.1 none [] (fs.map (fun f => c.w.reg x.1 f)) (first.map (· + x.2)))
        pure (c.doneEffect (s.addRays rays) w))

/-- RQUERY (R336). -/
def execRquery (d imm : BitVec 7) (s : State) : Host.Outcome State Fault Refusal :=
  s.issue (fun c =>
    let item := imm.toNat
    let v := if item = 0 then
        c.s.engCount c.w.uid 3 + c.s.raysOn c.w.pcore % 4096 * 256 +
          (if c.s.heldTasks.any (fun h => h.source == 1 && h.place == c.w.pcore) then 2 ^ 20 else 0)
      else ((tgetD c.s.rayCounts c.w.pcore [])[item - 1]?.getD 0).toNat
    c.vector { regs := [d.toNat], writes := c.act.map (fun l => c.w.put l d.toNat (BitVec.ofNat 32 v) (mkTag 3 0)) } 0 id)

/-- How a ray's records name its wave. -/
def State.rayWho (s : State) (r : Ray) : Who :=
  { launch := (match s.launch? r.launch with | some l => l.id | none => BitVec.allOnes 64), lcore := r.lcore
    wave := r.waveIdx }

/-- A fault record of a ray (R328, R333). -/
def State.rayRecord (s : State) (r : Ray) (cause addr : Nat) : State :=
  s.report r.launch (s.rayWho r) { kind := 1, source := 0x31, cause := cause, value := 0, writer := r.gid, addr := addr,
                                   detail := 0 }

/-- The nodes, triangles and instances that a ray has certainly met when it ends (R336): all, where it ran to its end; the root,
where it was read, with a hit's triangle and its instance, with that one's root, where an error or a first hit cut it short. -/
def Trav.least (t : Trav) (firstHit : Bool) (o : RayOut) : Nat × Nat × Nat :=
  match o with
  | .hit h =>
    let k := if h.instAddr = 0 then 0 else 1
    if firstHit then (1 + k, 1, k) else (t.nodes, t.tris, t.insts)
  | .error _ _ => (Nat.min 1 t.nodes, 0, 0)
  | _ => (t.nodes, t.tris, t.insts)

/-- The engine's counts after one more ray (R336): rays ended, nodes visited, triangles tested and instances entered. A ray that
an error or a first hit ends may have left some of its nodes and records unread. -/
def State.countRay (s : State) (core : Nat) (t : Trav) (firstHit : Bool) (o : RayOut) : State :=
  let lo := t.least firstHit o
  let upTo : Nat → Nat → Nat → Nat := fun i m n => m + (Config.timing i s.free).toNat % (n - m + 1)
  let old := tgetD s.rayCounts core [0, 0, 0, 0]
  let add := [1, upTo 100 lo.1 t.nodes, upTo 101 lo.2.1 t.tris, upTo 102 lo.2.2 t.insts]
  { s with rayCounts := tset s.rayCounts core ((old.zip add).map (fun x => x.1 + BitVec.ofNat 32 x.2))
           free := s.free + 1 }

/-- A TRACEQ task goes to the pool, or is held by the engine, in order, while the pool has no entry (R334). -/
def State.handTask (s : State) (r : Ray) (t : Task) : State :=
  let held := s.heldTasks.any (fun h => h.source == 1 && h.place == r.core)
  if held || s.poolFree t.launch == 0 then
    { s with heldTasks := s.heldTasks ++ [{ source := 1, place := r.core, task := t }] }
  else s.enterPool t t.share r.accept.isSome

/-- A TRACEQ ray has ended: its task, or the record of why it makes none (R333); none while a table read waits. -/
def State.rayTask (s : State) (r : Ray) (o : RayOut) : Except (Nat × Nat) State :=
  let faulted : State → State := fun s => s.markFaulted r.launch
  match o with
  | .error c addr => .ok (faulted (s.rayRecord r c addr))
  | _ =>
    let (h, key) := match o with
      | .hit x => (x.group, x.key)
      | _ => (0, 0)
    match s.launch? r.launch with
    | none => .ok s
    | some l =>
      let read := s.taskEntry l r.cancelled r.tag (65536 + h)
      let s := s.convertAt (s.tablePlaces l r.cancelled (65536 + h))
      match read with
      | .miss va level => .error (va, level)
      | .fault cause addr =>
        .ok (faulted ((s.tableFault l.uid (s.rayWho r) 0x31 cause addr r.gid).rayRecord r 0 r.root.toNat))
      | .invalid => .ok (faulted (s.rayRecord r 0 r.root.toNat))
      | .entry _ _ k =>
        if r.depth + 1 > l.field 435 432 then .ok (s.rayRecord r 0 r.root.toNat)
        else .ok (s.handTask r
          { id := 0, launch := r.launch, entry := 65536 + h, key := BitVec.ofNat 16 (if key = 0 then k else key),
            tag := r.tag, depth := r.depth + 1, accept := r.accept.getD 0, record := o.words ++ r.payload,
            share := columnOf r.lcore, clk := 0 })

/-- The results of a TRACE whose rays have all ended are written and its counter falls (R330). -/
def State.finishTrace (s : State) (eng : Nat) : State :=
  let mine := (tvals s.rays).filter (fun r => r.eng == some eng)
  if mine.any (fun r => r.result.isNone) then s
  else
    let ws := mine.flatMap (fun r => (r.rows.zip (r.result.getD [])).map (fun x =>
      ({ row := x.1, lane := r.lane, val := x.2, poison := r.bad } : LaneWrite)))
    let s1 := mine.foldl (fun (s : State) r => { s with rays := tdel s.rays r.id }) s
    match mine with
    | [] => s1
    | r :: _ => (s1.modWave r.wave (fun w => w.deliver ws)).engDone eng

/-- A ray reads one of its words, by its address, ahead of its others (R327). -/
def State.rayTake (s : State) (x : Ray) (va : Nat) : State :=
  let at_ := va / 4 * 4
  if x.result.isSome || (tget x.got (va / 4)).isSome || !s.rayMayRead x (s.memPlaces (s.rayEng x) at_ 4) then s
  else match s.engRead (s.rayEng x) at_ 4 with
    | (bs, none) =>
      let s := s.engTouch (s.memPlaces (s.rayEng x) at_ 4)
      { s with rays := tset s.rays x.id { x with got := tset x.got (va / 4) (BitVec.ofNat 32 (ofBytes (bs.map (·.1)))) } }
    | _ => s

/-- RAY_END (R330, R333): a ray ends, or waits for a replayable fault of one of its reads (R327). -/
def execRayEnd (r : Nat) (s : State) : Host.Outcome State Fault Refusal :=
  .next (match tget s.rays r with
    | none => s
    | some x =>
      if x.result.isSome || x.faultWait.isSome || !s.rayMayRead x (s.rayPlaces x) then s
      else
        let first := bit x.geo.flags 0
        let t := s.rayTrav x
        let s := s.engTouch (s.rayPlaces x)
        let o := t.outcome first r
        let waitAt : Nat → Nat → State := fun va level =>
          let (s1, id) := s.engMiss x.launch x.lcore va level .read
          { s1 with rays := tset s1.rays r { x with faultWait := some id } }
        match o, x.eng with
        | .wait va level, _ => waitAt va level
        | _, none =>
          (match s.rayTask x o with
            | .error (va, level) => waitAt va level
            | .ok s1 => ({ s1 with rays := tdel s1.rays r } : State).countRay x.core t first o)
        | _, some eng =>
          let s1 := match o with
            | .error c addr => (s.rayRecord x c addr).markFaulted x.launch
            | _ => s
          let s2 : State := { s1 with rays := tset s1.rays r { x with result := some o.words } }
          (s2.countRay x.core t first o).finishTrace eng)

/-- TRACEQ_TASK_HANDOFF (R334): the oldest task that an engine holds enters the pool. -/
def execTraceqTaskHandoff (core : Nat) (s : State) : Host.Outcome State Fault Refusal :=
  .next (match s.heldTasks.find? (fun h => h.source == 1 && h.place == core) with
    | none => s
    | some h =>
      if s.poolFree h.task.launch = 0 then s
      else
        let s1 : State := { s with heldTasks := s.heldTasks.erase h }
        s1.enterPool h.task h.task.share (s.isDet h.task.launch))

end Sys2Proof.Machine
end

