-- ==== Sys2Proof/Machine/Veneer.lean ====
section
/-!
DEFINITION. Speculation sets and branch tags (R124 to R152): what carries a tag, what a squash does to it, quiescence, and
the return of tags to the pool.
-/

namespace Sys2Proof.Machine

/-- The open set of a domain with an id (R124, R130). -/
def State.openSet? (s : State) (dom id : Nat) : Option SpecSet :=
  s.sets.find? (fun x => x.domain == dom && x.id == id && x.isOpen)

/-- Changes a tag's state. -/
def State.setTag (s : State) (tag : BitVec 4) (st : TagState) : State :=
  { s with tagStates := tset s.tagStates tag.toNat st }

/-- The pending operation that a squash leaves of one of a wave (R141, R147): stores, atomics and queue operations on unversioned
pages, which have left the core, with the fences that order them (R345); of an AMO.CASC not the lanes that are held. -/
def State.leftOf (s : State) (w : Wave) : PendKind → Option PendKind
  | .store accs => let l := accs.filter (fun a => !a.ver); if l.isEmpty then none else some (.store l)
  | .atomic op fmts accs r =>
    let l := (fmts.zip accs).filter (fun x => !x.2.ver)
    if l.isEmpty then none else some (.atomic op (l.map (·.1)) (l.map (·.2)) r)
  | .queueOp op accs => let l := accs.filter (fun a => !a.ver); if l.isEmpty || op == 2 then none else some (.queueOp op l)
  | .casc accs arr order first =>
    let l := accs.filter (fun a => !s.cascDropped w a)
    if l.isEmpty then none else some (.casc l arr order first)
  | .fence k => some (.fence k)
  | _ => none

/-- Whether a bulk operation ends with its wave's squash: one that writes scratchpad, or the block store (R141, R147). -/
def BulkKind.endsWithSquash : BulkKind → Bool
  | .copyOut _ _ _ | .scatter _ _ | .digest _ _ _ => false
  | _ => true

/-- Takes some operations off their counters as if they had not been issued. -/
def State.engCancels (s : State) (l : List Nat) : State := l.foldl State.engCancel s

/-- The waves' arrivals that a reservation-table entry holds. -/
def Resv.arrivals (r : Resv) : List Arrival :=
  match r.kind with
  | .joint _ _ _ _ l _ => l
  | _ => []

/-- Takes a wave out of the latches and the reservation-table entries not granted (R147). -/
def State.leaveMatrix (s : State) (w : Wave) : State :=
  let mine : Resv → Bool := fun r => !r.granted && (r.wave == w.uid || r.arrivals.any (fun a => a.wave == w.uid))
  let gone := (tvals s.resv ++ (tvals s.grps).flatMap (·.saved)).filter mine
  let engs := gone.flatMap (fun r => r.eng :: r.arrivals.map (·.eng)) ++
    (tvals s.grps).flatMap (fun g => (tvals g.gangs).flatMap (fun x =>
      (x.latch.filter (fun a => a.wave == w.uid)).map (·.eng)))
  let s1 : State := { s with
    resv := s.resv.filter (fun e => !mine e.2)
    grps := s.grps.map (fun e => (e.1, { e.2 with
      saved := e.2.saved.filter (fun r => !mine r)
      gangs := e.2.gangs.map (fun x =>
        (x.1, { x.2 with
          latch := x.2.latch.filter (fun a => a.wave != w.uid)
          complete := x.2.complete && x.2.latch.all (fun a => a.wave != w.uid) })) })) }
  s1.engCancels engs

/-- What a squash leaves of a wave itself: every lane has exited and nothing of its run, wait, trap or handler remains. -/
def State.endedWave (s : State) (w : Wave) : Wave :=
  { w with
    vpc := (List.range w.width).map (fun l => (l, exited)), run := none, trap := none, fpPending := [], wait := .none,
    faultWait := none, cancelled := [], mode := false, frame := none, resume := [], stall := none
    pend := w.pend.filterMap (fun p => (s.leftOf w p.kind).map (fun k => { p with kind := k, flag := none })) }

/-- A wave of a SQUASHED branch is terminated (R147): no handler runs and no record is written. -/
def State.terminate (s : State) (w : Wave) : State :=
  let bulks := (tvals s.bulk).filter (fun b => b.wave == w.uid && b.kind.endsWithSquash)
  let rays := (tvals s.rays).filter (fun r => r.wave == w.uid)
  let moves := (tvals s.moves).filter (fun m => m.wave == w.uid)
  let s1 := ((s.setWave (s.endedWave w)).leaveMatrix w).leaveRings w
  let s2 : State := { s1 with
    bulk := bulks.foldl (fun t b => tdel t b.id) s1.bulk
    rays := rays.foldl (fun t r => tdel t r.id) s1.rays
    moves := moves.foldl (fun t m => tdel t m.id) s1.moves
    cbWaiters := s1.cbWaiters.filter (fun x => x != w.uid)
    heldTasks := s1.heldTasks.filter (fun h => !(h.source == 3 && h.place == w.uid)) }
  (s2.engCancels (bulks.map (·.eng) ++ rays.filterMap (·.eng) ++ moves.map (·.eng))).goneOn 2 w.uid

/-- Whether a wave has an AMO.CASC lane held at a slice whose queue has no entry free (R368). -/
def State.inRetry (s : State) (w : Wave) : Bool :=
  w.pend.any (fun p => match p.kind with
    | .casc accs _ _ _ => accs.any (fun a => decide (s.queueUsed (s.sliceQueue w.launch (homeSlice a.key)) ≥ 64))
    | _ => false)

/-- Whether a wave of a SQUASHED branch is to be terminated now: one that issues a run finishes it first, unless it waits on a
fault, in STALL or for the retry of an AMO.CASC (R147; DEDUCED, log 35: a held AMO.CASC of an earlier run counts as such a
wait). One whose lanes have all exited loses its rays and its versioned accesses likewise (R332). -/
def State.mustEnd (s : State) (w : Wave) : Bool :=
  s.dropsTag w.tag && (w.run.isNone || w.faultWait.isSome || w.stall.isSome || s.inRetry w)

/-- What a squash does to the attachments of a SQUASHED tag (R141, R147, R332, R133): waves are terminated, and the rays of waves
already gone are cancelled; tasks, waves formed and combine groups are discarded; block-store references are dropped; teams not
yet dispatched never start. -/
def State.sweep (s : State) : State :=
  let s1 := (tvals s.waves).foldl (fun s w => if s.mustEnd w then s.terminate w else s) s
  let s2 : State := { s1 with
    pool := s1.pool.filter (fun t => !s1.dropsTag t.tag)
    rays := s1.rays.filter (fun r => !(s1.dropsTag r.2.tag && (s1.wave? r.2.wave).isNone))
    heldTasks := s1.heldTasks.filter (fun h => !s1.dropsTag h.task.tag)
    formed := s1.formed.filter (fun f => !f.tasks.any (fun t => s1.dropsTag t.tag))
    groups := s1.groups.filter (fun e => !s1.dropsTag e.2.tag)
    launches := s1.launches.map (fun e =>
      let hit := e.2.insts.any (fun i => s1.dropsTag i.tag && !i.dropped)
      (e.1, { e.2 with
        insts := e.2.insts.map (fun i => if s1.dropsTag i.tag then { i with dropped := true } else i)
        squashed := e.2.squashed || hit })) }
  (s2.kvNames.filter (fun n => s2.dropsTag n.tag)).foldl (fun s n => s.kvUnbind n) s2

/-- Whether a tag still has tasks anywhere (R129). -/
def State.hasTasks (s : State) (tag : BitVec 4) : Bool :=
  s.pool.any (fun t => t.tag == tag) || s.heldTasks.any (fun h => h.task.tag == tag) ||
    s.formed.any (fun f => f.tasks.any (fun t => t.tag == tag))

/-- Whether engine operations of a tag are outstanding. -/
def State.hasEngines (s : State) (tag : BitVec 4) : Bool :=
  (tvals s.bulk).any (fun b => b.tag == tag) || (tvals s.moves).any (fun m => m.tag == tag) ||
    (tvals s.rays).any (fun r => r.tag == tag)

/-- Whether a flip queued at a head carries a tag. -/
def State.hasFlip (s : State) (tag : BitVec 4) : Bool :=
  (tvals s.heads).any (fun h => h.flips.any (fun f => f.tag == tag))

/-- The teams of a cluster group of a launch (R158): 1 without cluster_teams. -/
def Launch.groupSize (l : Launch) : Nat := Nat.max 1 (l.field 118 116)

/-- The units, teams or cluster groups, of one instance of a launch (R158). -/
def Launch.units (l : Launch) : Nat := (l.gridTeams + l.groupSize - 1) / l.groupSize

/-- The units that one instance of a launch still has to dispatch. -/
def Launch.leftToDispatch (l : Launch) (i : Inst) : Nat :=
  if i.dropped || l.stopDispatch || l.field 207 192 == 0 then 0 else l.units - (tvals i.next).foldl (· + ·) 0

/-- Whether an instance still holds work of its own: teams to dispatch or not retired (R123, R144). -/
def State.instLive (s : State) (l : Launch) (i : Inst) : Bool :=
  decide (l.leftToDispatch i > 0) ||
    (tvals s.waves).any (fun w => w.launch == l.uid && w.tag == i.tag) ||
    s.pool.any (fun t => t.launch == l.uid && t.tag == i.tag) ||
    s.heldTasks.any (fun h => h.task.launch == l.uid && h.task.tag == i.tag) ||
    s.formed.any (fun f => f.tasks.any (fun t => t.launch == l.uid && t.tag == i.tag))

/-- Whether a branch is quiescent (R144): a launch with one instance counts until it retires, an instance of a fan launch
until its own work is done. -/
def State.quiescent (s : State) (tag : BitVec 4) : Bool :=
  !(tvals s.launches).any (fun l => l.insts.any (fun i => i.tag == tag && (l.insts.length == 1 || s.instLive l i))) &&
    !(tvals s.waves).any (fun w => w.tag == tag) && !s.hasTasks tag && !s.hasEngines tag &&
    !(tvals s.groups).any (fun g => g.tag == tag)

/-- Whether a tag may return to FREE (R129): COMMITTED without a version or flip, or SQUASHED without any attachment. -/
def State.mayFree (s : State) (tag : BitVec 4) : Bool :=
  let bare := !s.versions.any (fun v => v.tag == tag) && !s.hasFlip tag
  match s.tagState tag.toNat with
  | .committed => bare
  | .squashed => bare && !(tvals s.waves).any (fun w => w.tag == tag) && !s.hasTasks tag && !s.hasEngines tag &&
      !(tvals s.groups).any (fun g => g.tag == tag) && !s.kvNames.any (fun n => n.tag == tag) &&
      !(tvals s.kvBlocks).any (fun b => b.owner == tag)
  | _ => false

/-- Tags whose last attachment is gone return to FREE, and their set keeps 0 in their place; a set all of whose tags are FREE
is done, and its done_addr counter gets its addition (R126, R129, R150). -/
def State.freeTags (s : State) : State :=
  let gone := (s.sets.flatMap (·.tags)).filter (fun t => t != 0 && s.mayFree t)
  let s0 := gone.foldl (fun (s : State) t => s.setTag t .free) s
  let s1 : State := { s0 with
    sets := s0.sets.map (fun x => { x with tags := x.tags.map (fun t => if gone.contains t then 0 else t) }) }
  let ended : SpecSet → Bool := fun x => x.tags.all (fun t => t == 0)
  let done := s1.sets.filter ended
  let s2 : State := { s1 with sets := s1.sets.filter (fun x => !ended x) }
  done.foldl (fun (s : State) x =>
    if x.doneAddr = 0 then s
    else s.devWrite { domain := x.domain, va := x.doneAddr, bytes := toBytes 4 1, add := true, code := 1,
                      lcore := 0xFFFF, wave := 0xFF, launch := BitVec.allOnes 64, chain := none, waits := none }) s2

/-- The state of a branch of a set that is not closed: one whose tag has returned to the pool was SQUASHED (R129, R143). -/
def State.branchState (s : State) (x : SpecSet) (i : Nat) : TagState :=
  match x.tags[i]? with
  | some t => if t = 0 then .squashed else s.tagState t.toNat
  | none => .free

/-- A set closes: it is no longer open when no tag of it is LIVE or DOOMED (R130). -/
def State.closeSets (s : State) : State :=
  { s with sets := s.sets.map (fun x =>
      { x with isOpen := x.isOpen && x.tags.any (fun t => s.tagState t.toNat == .live || s.tagState t.toNat == .doomed) }) }

/-- Whether a work packet of a queue that was consumed has not retired (R98). -/
def State.queueWork (s : State) (q : Nat) : Bool :=
  (tvals s.launches).any (fun l => l.queue == q) || (tvals s.packetCopies).any (fun c => c.queue == q)

/-- Each FORK that waits for tags alone takes its place in the order of tag grants, and one that again waits for its domain's
set loses it (R151). FORKs that come to wait for tags alone in the same step take their places in ascending queue number:
the specification gives no order among them, and this is the model's choice (DESIGN CHOICE, log entry 71). -/
def State.noteForks (s : State) : State :=
  (tkeys s.queues).foldl (fun (s : State) k =>
    match tget s.queues k with
    | none => s
    | some q =>
      let ready := q.st == .held && q.held == 4 && !s.queueWork k && !s.hasOpenSet q.domain
      if ready && q.forkOrder.isNone then
        let (id, s1) := s.newId
        { s1 with queues := tset s1.queues k { q with forkOrder := some id } }
      else if !ready && q.forkOrder.isSome then { s with queues := tset s.queues k { q with forkOrder := none } }
      else s) s

end Sys2Proof.Machine
end

