-- ==== Sys2Proof/Machine/Retire.lean ====
section
/-!
DEFINITION. Retirement: waves (R214, R376), launches (R123, R422, R423), digests (R424 to R428) and hazard records (R430).
-/

namespace Sys2Proof.Machine

/-- The digest header of a launch, where it is valid (R424): out_addr and count. Its reserved bits are ignored (R5). -/
def digestHeader (h : Nat) : Option (Nat × Nat) :=
  let out := bits h 63 0
  let n := bits h 95 64
  if n = 0 ∨ n > 1024 ∨ out % 32 ≠ 0 then none else some (out, n)

/-- An access of the launch processor for a launch: waits are kept under class 1 (R250). -/
def State.launchXlate (s : State) (l : Launch) (va : Nat) (use : Use) : Except XErr Xlat :=
  s.xlateFor 1 l.uid l.domain va use

/-- What a read by the launch processor gives. -/
inductive Fetched where
  | value (v : Nat)
  | bad (cause : Nat)
  | miss (va level : Nat)

/-- Reads n bytes, within one 64-byte unit, for a launch in the committed view; poison is cause 16. -/
def State.launchRead (s : State) (l : Launch) (va n : Nat) : Fetched :=
  match s.launchXlate l va .read with
  | .error (.miss level) => .miss va level
  | .error (.cause c) => .bad c
  | .ok x => if s.anyPoison 0 x.ver x.key n then .bad 16 else .value (s.readNat 0 x.ver x.key n)

/-- The place of n bytes, within one 64-byte unit, that the launch processor reads for a launch, as it is reached now. -/
def State.launchPlaces (s : State) (l : Launch) (va n : Nat) : List (Nat × Nat × Nat) :=
  (s.launchXlate l va .read).toOption.toList.map (fun x => (0, x.key, n))

/-- The context of a launch's digest reads in a branch's view, and of its untagged digest writes (R426). -/
def State.digestEng (s : State) (l : Launch) (tag : BitVec 4) : Eng :=
  { dom := l.domain, tag := tag, launch := 0, writer := 0, cancelled := s.cancelledPages 1 l.uid l.domain, drop := false }

/-- A digest failure of a launch (R428), and whether its digest stays unwritten. -/
structure DigestFail where
  index : Nat
  cause : Nat
  addr : Nat

/-- Where a launch's digests stand: done, with the failures and whether every digest was written, or waiting for a miss. -/
inductive Digests where
  | done (s : State) (fails : List DigestFail) (all : Bool)
  | miss (va level : Nat) (use : Use)

/-- Writes one digest of a launch (R426, R428). -/
def State.writeDigest (s : State) (l : Launch) (index out : Nat) (d : List Byte) (fails : List DigestFail) (all : Bool) :
    Digests :=
  match s.engWrite (s.digestEng l 0) out (d.map (fun b => (b, false))) with
  | (s1, none) => .done s1 fails all
  | (_, some st) => match st.err with
    | .miss level => .miss st.va level .write
    | .cause c => .done s (fails ++ [{ index := index, cause := c, addr := st.va }]) false

/-- The digest of one range of one instance (R425, R426, R428). -/
def State.oneDigest (s : State) (l : Launch) (inst : Inst) (list index out : Nat) (fails : List DigestFail) (all : Bool) :
    Digests :=
  if inst.dropped then s.writeDigest l index out (List.replicate 32 0) fails all
  else match s.launchRead l (list + 16 + 16 * index) 16 with
    | .miss va level => .miss va level .read
    | .bad c => s.writeDigest l index out (List.replicate 32 0)
        (fails ++ [{ index := index, cause := c, addr := list + 16 + 16 * index }]) all
    | .value e =>
      match s.digestRange (s.digestEng l inst.tag) (bits e 63 0) (bits e 127 64) with
      | .miss va level => .miss va level .read
      | .bytes d bad =>
        let s := s.engTouch (s.launchPlaces l (list + 16 + 16 * index) 16 ++
          s.memPlaces (s.digestEng l inst.tag) (bits e 63 0) (bits e 127 64))
        s.writeDigest l index out d (fails ++ (bad.map (fun x => { index := index, cause := x.1, addr := x.2 })).toList) all

/-- The digests of a list of ranges and instances, in order. -/
def State.allDigests (l : Launch) (list : Nat) : List (Inst × Nat × Nat) → State → List DigestFail → Bool → Digests
  | [], s, fails, all => .done s fails all
  | (i, index, out) :: t, s, fails, all =>
    match s.oneDigest l i list index out fails all with
    | .miss va level use => .miss va level use
    | .done s1 f a => State.allDigests l list t s1 f a

/-- Step 1 of R422: the launch's digests, one set for each instance (R426). -/
def State.launchDigests (s : State) (l : Launch) : Digests :=
  let list := l.field 767 704
  if list = 0 then .done s [] false
  else match s.launchRead l list 16 with
    | .miss va level => .miss va level .read
    | .bad c => .done s [{ index := 0, cause := c, addr := list }] false
    | .value h => match digestHeader h with
      | none => .done s [] false
      | some (out, n) =>
        State.allDigests l list ((l.insts.zipIdx).flatMap (fun i =>
          (List.range n).map (fun k => (i.1, k, out + 32 * (n * i.2 + k))))) s [] true

/-- The hazard entries that are reported, in ascending epoch and then address (R430). -/
def Launch.hazardLines (l : Launch) : List Hazard :=
  sortBy (fun a b => decide (a.epoch < b.epoch) || (a.epoch == b.epoch && decide (a.vaddr ≤ b.vaddr)))
    (l.hazards.filter (fun h => decide (h.count ≥ 2)))

/-- Step 2 of R422: the hazard records (R430). -/
def State.hazardRecords (s : State) (l : Launch) : State :=
  l.hazardLines.foldl (fun (s : State) h =>
    s.report l.uid l.who
      { kind := 4, source := 0xFF, cause := 0,
        value := h.first.toNat + h.count % 4 * 2 ^ 32 + h.epoch % 2 ^ 30 * 2 ^ 34,
        writer := h.second.toNat, addr := h.vaddr, detail := 0 }) s

/-- The status bits of the report header (R423): retired, faulted, squashed, digest_done, hazards and digest_flagged. -/
def Launch.statusBits (l : Launch) (digestDone : Bool) : Nat :=
  let b : Bool → Nat → Nat := fun x i => if x then 2 ^ i else 0
  1 + b l.faulted 1 + b l.squashed 2 + b digestDone 3 + b (!l.hazardLines.isEmpty) 4 + b l.digestFlagged 5

/-- Step 3 of R422: the summary fields of the report header, then its status bits (R423). -/
def State.reportHeader (s : State) (l : Launch) (digestDone : Bool) : State :=
  let fq := l.field 831 768
  if fq = 0 then s
  else
    let v := l.excFlags.toNat + l.excAddr.toNat * 2 ^ 32 + l.late.toNat * 2 ^ 96 +
      Nat.min l.hazardLines.length (2 ^ 32 - 1) * 2 ^ 128 + l.epoch % 2 ^ 32 * 2 ^ 160
    (s.launchWrite l l.who (fq + 28) (toBytes 24 v)).launchWrite l l.who (fq + 24) (toBytes 4 (l.statusBits digestDone))

/-- Step 5 of R422: the launch's packet is marked retired, once the writes of steps 2 to 4 are made. -/
def State.retireLaunch (s : State) (uid : Nat) : State :=
  if s.devWrites.any (fun d => d.chain == some uid) then s
  else (({ s with launches := tdel s.launches uid } : State).goneOn 1 uid).noteForks

/-- Steps 2 to 5 of R422. -/
def State.finishLaunch (s : State) (uid : Nat) (digestDone : Bool) : State :=
  match s.launch? uid with
  | none => s
  | some l0 =>
    let s1 := s.hazardRecords l0
    let l := (s1.launch? uid).getD l0
    let s2 := s1.reportHeader l digestDone
    let s3 := if l.signalAddr = 0 then s2 else
      s2.devWrite { domain := l.domain, va := l.signalAddr, bytes := toBytes 4 1, add := true, code := 4, lcore := 0xFFFF,
                    wave := 0xFF, launch := l.id, chain := some uid, waits := none }
    (s3.modLaunch uid (fun l => { l with retiring := true })).retireLaunch uid

/-- Whether a launch holds work (R123, R352, R422). -/
def State.holdsWork (s : State) (l : Launch) : Bool :=
  l.insts.any (fun i => decide (l.leftToDispatch i > 0)) ||
    (tvals s.teams).any (fun t => t.launch == l.uid) || (tvals s.waves).any (fun w => w.launch == l.uid) ||
    s.pool.any (fun t => t.launch == l.uid) || s.heldTasks.any (fun h => h.task.launch == l.uid) ||
    s.formed.any (fun f => f.tasks.any (fun t => t.launch == l.uid)) ||
    (tvals s.bulk).any (fun b => b.launch == l.uid) || (tvals s.moves).any (fun m => m.launch == l.uid) ||
    (tvals s.rays).any (fun r => r.launch == l.uid) || (tvals s.groups).any (fun g => g.launch == l.uid)

/-- LAUNCH_RETIRE (R422): a launch that holds no work computes its digests and retires; a miss leaves it waiting, in the
digests or in the writes that follow. -/
def execLaunchRetire (l : Nat) (s : State) : Host.Outcome State Fault Refusal :=
  .next (match s.launch? l with
    | none => s
    | some x =>
      if x.retiring then s.retireLaunch l
      else if s.holdsWork x || s.isWaiting 1 l then s
      else match s.launchDigests x with
        | .miss va level use => s.waitOn 1 l x.domain va level (accessBits use false) x.id 0xFFFFFFFF
        | .done s1 fails all =>
          let s2 := fails.foldl (fun (s : State) f => s.digestFault l x.who 0xFF f.index f.cause f.addr) s1
          s2.finishLaunch l all)

/-- The teams of a unit that have not retired. -/
def State.unitTeams (s : State) (grp : Nat) : List Team := (tvals s.teams).filter (fun t => t.grp == grp)

/-- A team whose last wave has retired leaves (R153), and its unit with its last team. -/
def State.teamLeave (s : State) (team : Nat) : State :=
  match s.team? team with
  | none => s
  | some t =>
    if (tvals s.waves).any (fun w => w.team == team) then s
    else
      let s1 := s.modTeam team (fun t => { t with retired := true })
      if (s1.unitTeams t.grp).all (·.retired) then
        { s1 with teams := s1.teams.filter (fun e => e.2.grp != t.grp), grps := tdel s1.grps t.grp }
      else s1

/-- Latent poison in a retiring wave's registers (R419, R421 event 2): one record for each element that is poisoned and was
never consumed, source 1. -/
def State.latentRecords (s : State) (w : Wave) : State :=
  w.rows.foldl (fun (s : State) r =>
    ((lanesOf (r.2.poison &&& ~~~r.2.seen)).filter (fun l => decide (l < w.width))).foldl (fun (s : State) l =>
      s.errorRecord 1 2 0 (s.whoOf w) [(0, r.1 % 256), (1, l)]) s) s

/-- Whether a wave's lanes have all exited and every operation attached to its flags and counters has completed (R214). -/
def State.mayRetire (s : State) (w : Wave) : Bool :=
  w.live.isEmpty && w.run.isNone && w.pend.isEmpty && !s.eng.any (fun e => e.wave == w.uid) && w.trap.isNone &&
    !(tvals s.bulk).any (fun b => b.wave == w.uid) && !(tvals s.rays).any (fun r => r.wave == w.uid && r.eng.isSome) &&
    !(tvals s.moves).any (fun m => m.wave == w.uid)

/-- WAVE_RETIRE (R214, R303, R376): the wave's slot, rows and spill area are released. A wave of a SQUASHED branch between
runs is terminated first (R147). -/
def execWaveRetire (w : Nat) (s : State) : Host.Outcome State Fault Refusal :=
  .next (match s.wave? w with
    | none => s
    | some x0 =>
      let s0 := if s.mustEnd x0 then s.terminate x0 else s
      match s0.wave? w with
      | none => s0
      | some x =>
        if !s0.mayRetire x then s0
        else
          let s1 := (if s0.dropsTag x.tag then s0 else s0.latentRecords x).memberGone x
          let s2 := (({ s1 with waves := tdel s1.waves w } : State).barLeave x.team).advanceEpoch x.launch
          (s2.teamLeave x.team).freeTags)

end Sys2Proof.Machine
end

