-- ==== Sys2Proof/Machine/Parser.lean ====
section
/-!
DEFINITION. The queue parser (R88 to R94, R97, R98, R109): queue control blocks, reading packets, rejecting and consuming
them.
-/

namespace Sys2Proof.Machine

/-- The storage location of a queue control block (R88). -/
def State.qcbKey (s : State) (n : Nat) : Nat :=
  storageOf (bits s.regs.qtbase.toNat 2 0) (bits s.regs.qtbase.toNat 47 12 * 4096 + 64 * n)

/-- The half of a queue control block that software writes (R89). -/
def State.qcb (s : State) (n : Nat) : Nat := s.readNat 0 false (s.qcbKey n) 32

/-- The code of a queue state (R93). -/
def QState.code : QState → Nat
  | .disabled => 0
  | .idle => 1
  | .parse => 2
  | .fence => 3
  | .serial => 4
  | .deadline => 5
  | .error => 6
  | .held => 7

/-- A queue. -/
def State.queue (s : State) (n : Nat) : Queue := tgetD s.queues n Queue.reset

/-- Changes a queue and writes the half of its control block that the device writes (R89). -/
def State.setQueue (s : State) (n : Nat) (q : Queue) : State :=
  let s1 : State := { s with queues := tset s.queues n q }
  s1.writeBytes (s1.qcbKey n + 32)
    (toBytes 32 (q.readIndex.toNat + q.st.code * 2 ^ 32 + q.status.toNat * 2 ^ 48)) false

/-- Changes a queue by a function. -/
def State.modQueue (s : State) (n : Nat) (f : Queue → Queue) : State := s.setQueue n (f (s.queue n))

/-- A status bit of a queue set: 0 underflow, 1 overflow, 2 late deadline, 3 error (R89). -/
def Queue.withStatus (q : Queue) (i : Nat) : Queue := { q with status := q.status ||| (1#16 <<< i) }

/-- The detail bytes of a queue's record (R109, R421): the slot index, type and ident of the packet in hand, where its
header was read, and the queue number. -/
def queueDetail (n : Nat) (slot : Word) (hdr : Option Nat) (extra : List (Nat × Nat)) : List (Nat × Nat) :=
  detailBytes 0 4 slot.toNat ++ (match hdr with
    | some h => [(4, bits h 7 0)] ++ detailBytes 5 2 (bits h 31 16)
    | none => []) ++ [(7, n)] ++ extra

/-- An error or warning record of a queue (R109). -/
def State.queueRecord (s : State) (n reason addr : Nat) (hdr : Option Nat) (extra : List (Nat × Nat)) : State :=
  s.errorRecord 0 reason addr Who.none (queueDetail n (s.queue n).readIndex hdr extra)

/-- A queue enters ERROR: the packet is not consumed (R93, R94). -/
def State.queueError (s : State) (n : Nat) : State :=
  (s.modQueue n (fun q => { (q.withStatus 3) with st := .error, held := 0, commitTag := 0, forkOrder := none, fired := false,
                                                  disabling := false, ending := none, fenceSeen := [], header := none })).goneOn 0 n

/-- A packet is rejected: the record, and the queue in ERROR (R93, R109). -/
def State.reject (s : State) (n reason addr : Nat) (hdr : Option Nat) (extra : List (Nat × Nat)) : State :=
  (s.queueRecord n reason addr hdr extra).queueError n

/-- Why a parser access stops. -/
inductive PErr where
  | miss (va level : Nat)
  | fault (cause va : Nat)
  | poison (va : Nat)
  deriving DecidableEq, Repr

/-- Reads the pieces of a range through a queue's domain, in the committed view. -/
def State.parserPieces (s : State) (n dom va : Nat) : List (Nat × Nat) → Except PErr (List Byte)
  | [] => .ok []
  | (off, k) :: t =>
    match s.xlateFor 0 n dom (va + off) .read with
    | .error (.miss level) => .error (.miss (va + off) level)
    | .error (.cause c) => .error (.fault c (va + off))
    | .ok x =>
      if s.anyPoison 0 x.ver x.key k then .error (.poison (va + off))
      else match State.parserPieces s n dom va t with
        | .error e => .error e
        | .ok bs => .ok (s.readBytes 0 x.ver x.key k ++ bs)

/-- Reads n bytes for a queue's parser, as a number (R109). -/
def State.parserRead (s : State) (q dom va n : Nat) : Except PErr Nat :=
  match s.parserPieces q dom va (pieces va n) with
  | .error e => .error e
  | .ok bs => .ok (ofBytes bs)

/-- What a queue's parser reads of some ranges converts the lines that it reaches (R149). -/
def State.parserTouch (s : State) (q dom : Nat) (ranges : List (Nat × Nat)) : State :=
  s.convertAt (ranges.flatMap (fun r => (pageParts (r.2 / 4096 + 2) r.1 r.2).filterMap (fun p =>
    (s.xlateFor 0 q dom p.1 .read).toOption.map (fun x => (0, x.key, p.2)))))

/-- What a parser access that stops does (R109, R250): a miss waits, poison rejects with a reason of its own, a fault rejects
with reason 11. -/
def State.parserStop (s : State) (n : Nat) (use : Use) (hdr : Option Nat) (poison : Nat) : PErr → State
  | .miss va level => s.waitOn 0 n (s.queue n).domain va level (accessBits use false) (BitVec.allOnes 64) 0xFFFFFFFF
  | .fault c va => s.reject n 11 va hdr [(9, c)]
  | .poison va => s.reject n poison va hdr []

/-- A write to a software-named address that the step of a queue's packet makes (R127, R143, R468): a miss leaves the queue and
its packet waiting, and nothing of the step happens. -/
def State.queueWrite (s : State) (n va code : Nat) (bytes : List Byte) : Except State State :=
  let dom := (s.queue n).domain
  let w : DevWrite := { domain := dom, va := va, bytes := bytes, add := false, code := code, lcore := 0xFFFF, wave := 0xFF,
                        launch := BitVec.allOnes 64, chain := none, waits := none }
  if va = 0 then .ok s
  else match s.xlateFor 0 n dom va .write with
    | .error (.miss level) =>
      .error (s.waitOn 0 n dom va level (accessBits .write false) (BitVec.allOnes 64) 0xFFFFFFFF)
    | .error (.cause c) => .ok (s.devFail w c)
    | .ok x => .ok (s.devPut w x)

/-- The slots that a queue's ring has. -/
def Queue.slots (q : Queue) : Nat := 2 ^ q.logSlots

/-- The slots made ready and not consumed (R91). -/
def Queue.pending (q : Queue) : Nat := (q.writeIndex - q.readIndex).toNat

/-- The virtual address of the i-th slot of the packet in hand (R91). -/
def Queue.slotAddr (q : Queue) (i : Nat) : Nat :=
  q.ringBase + 64 * ((q.readIndex.toNat + i) % 2 ^ 32 % q.slots)

/-- The slots of the packet in hand, as numbers. -/
def State.packetSlots (s : State) (n : Nat) (q : Queue) : List Nat → Except PErr (List Nat)
  | [] => .ok []
  | i :: t =>
    match s.parserRead n q.domain (q.slotAddr i) 64 with
    | .error e => .error e
    | .ok v => match s.packetSlots n q t with
      | .error e => .error e
      | .ok vs => .ok (v :: vs)

/-- The slots after the first that a packet's type asks for (R97, R100); none for a FENCE count of 0 or above 12. -/
def moreOf (slot : Nat) : Option Nat :=
  if bits slot 7 0 = 2 then
    let c := bits slot 67 64
    if c = 0 ∨ c > 12 then none else some (if c ≤ 3 then 0 else if c ≤ 7 then 1 else if c ≤ 11 then 2 else 3)
  else some 0

/-- Why a header is rejected (R97), none where it is valid. Of several faults the lowest reason is reported: the specification
gives no order (DESIGN CHOICE; log entry 91). -/
def headerReason (slot : Nat) : Option Nat :=
  if bits slot 7 0 > 10 then some 1
  else if bits slot 63 32 != 0 || bits slot 15 12 != 0 || bit slot 10 then some 2
  else match moreOf slot with
    | none => some 3
    | some m => if bits slot 9 8 ≠ m then some 3 else none

/-- The queue in PARSE looks at the packet at read_index (R91, R93, R97, R98): it becomes IDLE when the ring is empty, is in
ERROR when the indices overrun or the header is invalid, enters SERIAL when the packet asks for it, and otherwise stays in
PARSE for the packet's own step. -/
def State.parseHead (s : State) (n : Nat) : State :=
  let q := s.queue n
  if q.st ≠ .parse then s
  else if q.pending = 0 then s.setQueue n { q with st := if q.disabling then .disabled else .idle, disabling := false }
  else if q.pending > q.slots then s.reject n 4 (q.slotAddr 0) q.header []
  else match s.parserRead n q.domain (q.slotAddr 0) 64 with
    | .error e => s.parserStop n .read none 5 e
    | .ok v =>
      match headerReason v with
      | some r => s.reject n r (q.slotAddr 0) (some v) []
      | none =>
        if q.pending ≤ (moreOf v).getD 0 then
          (if q.disabling then s.setQueue n { q with st := .disabled, disabling := false } else s)
        else if bit v 11 && !q.serialDone && s.queueWork n then s.setQueue n { q with st := .serial, header := some v }
        else s

/-- The packet in hand is consumed (R92): read_index moves past it, and the queue leaves for the next packet, or for DISABLED
when software asked for it. -/
def State.consume (s : State) (n slots : Nat) : State :=
  let q := s.queue n
  let q1 := { q with readIndex := q.readIndex + BitVec.ofNat 32 slots, serialDone := false, held := 0, commitTag := 0,
                     forkOrder := none, fired := false, ending := none, fenceSeen := [], header := none
                     st := if q.disabling then .disabled else .parse, disabling := false }
  ((s.setQueue n q1).goneOn 0 n).parseHead n

/-- The step of a packet of one type, when the queue holds it in a state and the whole packet can be read; the function gets
the packet's slots. A reserved bit set outside the masks given for its slots rejects it with reason 2. -/
def State.onPacket (s : State) (n : Nat) (st : QState) (type : Nat) (used : Nat → Nat → Nat)
    (f : State → Queue → List Nat → State) : State :=
  let q := s.queue n
  if q.st ≠ st || s.isWaiting 0 n || q.pending = 0 || decide (q.pending > q.slots) then s
  else match s.parserRead n q.domain (q.slotAddr 0) 64 with
    | .error e => s.parserStop n .read none 5 e
    | .ok v =>
      if bits v 7 0 ≠ type || (headerReason v).isSome || decide (q.pending ≤ (moreOf v).getD 0) ||
        (st == .parse && bit v 11 && !q.serialDone && s.queueWork n) then s
      else match s.packetSlots n q ((List.range ((moreOf v).getD 0)).map (· + 1)) with
        | .error e => s.parserStop n .read (some v) 5 e
        | .ok rest =>
          let slots := v :: rest
          let q := { q with header := some v }
          let s := { s.parserTouch n q.domain ((List.range slots.length).map (fun i => (q.slotAddr i, 64))) with
            queues := tset s.queues n q }
          if (slots.zipIdx).any (fun x => x.1 &&& used x.2 v != x.1) then s.reject n 2 (q.slotAddr 0) (some v) []
          else f s q slots

/-- A mask of the bits hi to lo. -/
def field (hi lo : Nat) : Nat := (2 ^ (hi - lo + 1) - 1) * 2 ^ lo

/-- NOP_PACKET (R98): nothing but its serial bit. -/
def execNopPacket (q : Nat) (s : State) : Host.Outcome State Fault Refusal :=
  .next (s.onPacket q .parse 0 (fun _ _ => field 63 0) (fun s _ _ => s.consume q 1))

/-- SERIAL_WAIT_END (R93, R98): every earlier work packet of the queue has retired. -/
def execSerialWaitEnd (q : Nat) (s : State) : Host.Outcome State Fault Refusal :=
  .next (let x := s.queue q
    if x.st == .serial && !s.queueWork q then (s.setQueue q { x with st := .parse, serialDone := true }).parseHead q else s)

/-- The partition of a queue (R441): 0 in whole mode. -/
def State.queuePartition (s : State) (n : Nat) : Nat :=
  if s.partitions = 1 then 0
  else bits (if n < 32 then s.regs.partqLo.toNat else s.regs.partqHi.toNat) (2 * (n % 32) + 1) (2 * (n % 32))

/-- Whether any queue is enabled: not DISABLED. -/
def State.anyEnabled (s : State) : Bool := (tvals s.queues).any (fun q => q.st != .disabled)

/-- Extends a measurement register with a digest: Mi := SHA-256(Mi ‖ d) (R443). -/
def State.extend (s : State) (i : Nat) (d : List Byte) : State :=
  { s with measure := tset s.measure i (shaNat (toBytes 32 (tgetD s.measure i 0).toNat ++ d)) }

/-- The digest that M3 is extended with at the first enable of any queue (R443): of SRAMCFG, KVCFG and PARTCFG, in a form that
the specification does not give. -/
def State.configDigest (s : State) : List Byte :=
  (List.range 32).map (Config.configDigest s.regs.sramcfg.toNat s.regs.kvcfg.toNat s.regs.partcfg.toNat)

/-- A queue is put back with the priority that the parser has observed, which its launches' undispatched work takes (R95). -/
def State.observed (s : State) (n : Nat) (q : Queue) : State :=
  { s with
    queues := tset s.queues n q
    launches := s.launches.map (fun e => (e.1, if e.2.queue = n then { e.2 with qprio := q.prio } else e.2)) }

/-- QUEUE_ENABLE (R93 to R95, R243, R441 to R443): software has set enable. -/
def execQueueEnable (q : Nat) (s : State) : Host.Outcome State Fault Refusal :=
  .next (
    let v := s.qcb q
    let old := s.queue q
    if q ≥ 64 || !bit v 128 || bits s.regs.bootstat.toNat 7 0 != 1 || s.dev != .d0 then s
    else if old.st ≠ .disabled then
      (if old.disabling then s.setQueue q { old with disabling := false, off := false } else s)
    else
      let s1 := if s.everEnabled then s else { (s.extend 3 s.configDigest) with everEnabled := true }
      let base := bits v 255 192
      let x : Queue := { old with
        st := .idle, status := 0, ringBase := base, logSlots := bits v 164 160, domain := bits v 191 176,
        prio := bits v 170 168, serialDone := false, disabling := false, fired := false, forkOrder := none, held := 0,
        commitTag := 0, ending := none, fenceSeen := [], header := none, off := false }
      let s2 := (s1.observed q x).setQueue q x
      if base % 64 ≠ 0 || !(decide (4 ≤ x.logSlots) && decide (x.logSlots ≤ 16)) ||
          decide (s.queuePartition q ≥ s.partitions) ||
          !bit (s.readNat 0 false (storageKey 0 (s.regs.domtbase.toNat + 8 * x.domain)) 8) 63 then s2.reject q 3 base none []
      else s2)

/-- QUEUE_DISABLE (R93): software has cleared enable. A packet in hand is completed first; one whose slots are not all ready yet
is not in hand, and its queue is disabled at once (DEDUCED; log entry 92). -/
def execQueueDisable (q : Nat) (s : State) : Host.Outcome State Fault Refusal :=
  .next (
    let s := if !bit (s.qcb q) 128 && (s.queue q).off then s.modQueue q (fun y => { y with off := false }) else s
    let x := s.queue q
    if bit (s.qcb q) 128 || x.st == .disabled then s
    else match x.st with
      | .idle | .error => s.setQueue q { x with st := .disabled, disabling := false }
      | .parse => (s.setQueue q { x with disabling := true }).parseHead q
      | _ => s.setQueue q { x with disabling := true })

/-- WRITE_INDEX_UPDATE (R90, R91, R95): the device observes write_index and the queue's priority; an overrun puts the queue in
ERROR whatever its state. -/
def execWriteIndexUpdate (q : Nat) (s : State) : Host.Outcome State Fault Refusal :=
  .next (
    let x := s.queue q
    let v := s.qcb q
    if x.st == .disabled || x.st == .error then s
    else
      let y := { x with writeIndex := BitVec.ofNat 32 (bits v 31 0), prio := bits v 170 168 }
      let s1 := s.observed q y
      if y.pending > y.slots then s1.reject q 4 (y.slotAddr 0) y.header []
      else if y.st == .idle && decide (y.pending > 0) then (s1.setQueue q { y with st := .parse }).parseHead q
      else if y.st == .parse && !s1.isWaiting 0 q then s1.parseHead q
      else s1)

end Sys2Proof.Machine
end

