-- ==== Sys2Proof/Machine/Queues.lean ====
section
/-!
DEFINITION. Command packets (R99 to R108, R126, R127, R151) and the acceptance of launches (R110 to R113, R131).
-/

namespace Sys2Proof.Machine

/-- The address field of a packet. -/
def packetAddr (v : Nat) : Nat := bits v 127 64

/-- The bits of a launch record that are not reserved (R110, R21). -/
def recordUsed : Nat :=
  field 959 448 ||| field 447 444 ||| field 442 440 ||| field 435 384 ||| field 251 128 ||| field 124 116 |||
    field 114 0 ||| [256, 288, 320, 352].foldl (fun m b => m ||| field (b + 31) (b + 20) ||| field (b + 18) (b + 16)) 0

/-- The bits of the role words that are reserved (R21). -/
def roleReserved : Nat :=
  [256, 288, 320, 352].foldl (fun m b => m ||| field (b + 15) b ||| field (b + 19) (b + 19)) 0

/-- Whether a record's reserved bits are all zero (R111). -/
def recordClean (v : Nat) : Bool := v &&& recordUsed == v && v &&& roleReserved == 0

/-- The checks of a record at acceptance that reject it with reason 3 (R111). -/
def recordOk (v : Nat) : Bool :=
  let set := bits v 442 440
  let cl := bits v 118 116
  let areas := bits v 959 928
  (decide (set ≤ 3) || set == 7) && !(set == 7 && bit v 447) && decide (bits v 251 248 ≤ 8) &&
    (cl == 0 || cl == 2 || cl == 3 || cl == 4) && bits v 113 112 != 3 &&
    [256, 288, 320, 352].all (fun b => decide (bits v (b + 23) (b + 20) ≤ 6)) &&
    bits v 63 0 % 64 == 0 && bits v 95 64 % 64 == 0 && bits v 511 448 % 8 == 0 && bits v 575 512 % 8 == 0 &&
    bits v 639 576 % 8 == 0 && bits v 831 768 % 64 == 0 && bits v 767 704 % 16 == 0 && bits v 895 832 % 4096 == 0 &&
    bits v 111 96 % 8 == 0 && decide (bits v 111 96 ≤ 384) && bits v 431 416 % 64 == 0 &&
    decide (bits v 431 416 ≤ 131072) && bits v 927 896 % 4096 == 0 &&
    (if bits v 895 832 = 0 then areas == 0 else decide (1 ≤ areas) && decide (areas ≤ 65536))

/-- What the state of the domain's set makes of a record (R131): the instances, or a launch that retires at once, with the
launch fault cause where there is one. -/
inductive Accept where
  | insts (l : List Inst)
  | atOnce (cause : Option Nat)

/-- One instance of a branch. -/
def State.instOf (s : State) (x : SpecSet) (b : Nat) : Inst :=
  { tag := (x.tags[b]?).getD 0, branch := b, next := [], dropped := s.branchState x b == .squashed }

/-- Acceptance against the set (R131). -/
def State.accept (s : State) (dom v : Nat) : Accept :=
  let set := bits v 442 440
  if set = 7 then .insts [{ tag := 0, branch := 0, next := [], dropped := false }]
  else match s.openSet? dom set with
    | none => .atOnce (some 1)
    | some x =>
      if bit v 447 then .insts ((List.range x.tags.length).map (s.instOf x))
      else
        let b := bits v 446 444
        if b ≥ x.tags.length then .atOnce (some 2)
        else if s.branchState x b == .squashed then .atOnce none
        else .insts [s.instOf x b]

/-- Bytes 0 to 15 of the report block, which the device reads at acceptance (R423): 0 where they cannot be read. -/
def State.reportStart (s : State) (n dom fq : Nat) : Except PErr Nat :=
  if fq = 0 then .ok 0
  else match s.parserRead n dom fq 16 with
    | .error (.miss va level) => .error (.miss va level)
    | .error _ => .ok 0
    | .ok v => .ok v

/-- The launch that an accepted record makes (R110, R113, R114, R198, R423). -/
def newLaunch (uid n : Nat) (q : Queue) (va v args head : Nat) (insts : List Inst) (partition : Nat) (checking : Bool) :
    Launch :=
  { uid := uid, id := BitVec.ofNat 64 (n + 64 * q.accepted), queue := n, domain := q.domain, qprio := q.prio,
    record := BitVec.ofNat 2048 v, recAddr := va
    args := (List.range (bits v 111 96 / 8)).map (fun i => BitVec.ofNat 64 (args / 2 ^ (64 * i)))
    insts := insts, lastCore := none, headerRead := false, dataAddr := 0, handlerAddr := 0, codeBytes := 0,
    partition := partition, checking := checking, stopDispatch := false, faulted := false, squashed := false,
    excFlags := 0, excAddr := 0, excNs := 0, excSlice := 0, late := 0, nextAccept := 0, tickets := [], reportIdx := 0, reportLost := 0,
    reportLog := bits head 67 64, signalAddr := bits head 63 0, epoch := 0, hazards := [], suspended := false,
    digestFlagged := false, retiring := false, order := uid }

/-- Bytes 16 to 255 of the report block are zeroed at acceptance (R423). -/
def State.clearReport (s : State) (l : Launch) : State :=
  let fq := l.field 831 768
  if fq = 0 then s
  else [(16, 48), (64, 64), (128, 64), (192, 64)].foldl (fun (s : State) p =>
    s.launchWrite l l.who (fq + p.1) (List.replicate p.2 0)) s

/-- The launch fault of a launch that no wave of has started (R111): a record of kind 1, and the launch is faulted. -/
def State.launchFault (s : State) (l : Launch) (cause addr : Nat) : State :=
  ((s.report l.uid l.who { kind := 1, source := 0xFF, cause := cause, value := 0, writer := 0, addr := addr, detail := 0 }).markFaulted
    l.uid).modLaunch l.uid (fun l => { l with stopDispatch := true })

/-- A launch is accepted, and its packet consumed (R99, R112, R131). For one in deterministic mode every line that was moved
comes home (R253). -/
def State.acceptLaunch (s : State) (n va v args head : Nat) : State :=
  let q := s.queue n
  let (uid, s) := s.newId
  let atOnce := bits v 159 128 = 0 ∨ bits v 207 192 = 0
  let acc := s.accept q.domain v
  let insts := match acc with
    | .insts l => l
    | .atOnce _ => []
  let l := newLaunch uid n q va v args head insts (s.queuePartition n) (s.regs.chkctl.getLsbD n)
  let l := { l with squashed := (match acc with
    | .insts is => is.any (·.dropped)
    | .atOnce c => c.isNone) }
  let s1 : State := { s with launches := tset s.launches uid l,
                             queues := tset s.queues n { q with accepted := q.accepted + 1 }
                             moved := if l.field 119 119 = 1 then [] else s.moved }
  let s2 := s1.clearReport l
  let s3 := match acc with
    | .atOnce (some c) => (s2.launchFault l c va).finishLaunch uid false
    | .atOnce none => s2.finishLaunch uid false
    | .insts _ => if atOnce then s2.finishLaunch uid false else s2
  s3.consume n 1

/-- A record is taken up (R99, R111): its checks, the reads of the record, the argument block and the report block, and,
where the device has room for the launch, its acceptance. While it has none, the queue stays in PARSE. -/
def State.takeRecord (s : State) (n va : Nat) (hdr : Nat) : State :=
  let dom := (s.queue n).domain
  if va % 64 ≠ 0 then s.reject n 3 va (some hdr) []
  else match s.parserRead n dom va 256 with
    | .error e => s.parserStop n .read (some hdr) 5 e
    | .ok v =>
      if !recordClean v then s.reject n 2 va (some hdr) []
      else if !recordOk v then s.reject n 3 va (some hdr) []
      else match s.parserRead n dom (bits v 511 448) (bits v 111 96) with
        | .error e => s.parserStop n .read (some hdr) 5 e
        | .ok args =>
          match s.reportStart n dom (bits v 831 768) with
          | .error e => s.parserStop n .read (some hdr) 5 e
          | .ok head =>
            let reserves := (tvals s.launches).foldl (fun t l => t + l.reserve) 0
            let s := s.parserTouch n dom [(va, 256), (bits v 511 448, bits v 111 96), (bits v 831 768, if bits v 831 768 = 0 then 0 else 16)]
            if s.launches.length ≥ 1024 ∨ reserves + bits v 431 416 > 131072 then s
            else s.acceptLaunch n va v args head

/-- LAUNCH (R99). -/
def execLaunch (q : Nat) (s : State) : Host.Outcome State Fault Refusal :=
  .next (s.onPacket q .parse 1 (fun _ _ => field 127 0) (fun s _ slots =>
    let v := slots.headD 0
    s.takeRecord q (packetAddr v) v))

/-- The fields of a DEADLINE packet (R108). -/
def deadlineUsed : Nat := field 161 0

/-- LAUNCH_ACCEPT (R99, R108): a record that had to wait in PARSE, of a LAUNCH or of a DEADLINE that has fired, is accepted
now that there is room. -/
def execLaunchAccept (q : Nat) (s : State) : Host.Outcome State Fault Refusal :=
  .next (if (s.queue q).fired then
    s.onPacket q .parse 10 (fun _ _ => deadlineUsed) (fun s _ slots =>
      let v := slots.headD 0
      s.takeRecord q (packetAddr v) v)
  else s.onPacket q .parse 1 (fun _ _ => field 127 0) (fun s _ slots =>
    let v := slots.headD 0
    s.takeRecord q (packetAddr v) v))

/-- A deadline fires: the queue is in PARSE and its record is taken up (R108). -/
def State.fire (s : State) (n : Nat) (late : Bool) (v : Nat) : State :=
  let s1 := s.modQueue n (fun q => { (if late then q.withStatus 2 else q) with st := .parse, fired := true })
  s1.takeRecord n (packetAddr v) v

/-- DEADLINE (R108): the firing time is computed from the head's next blank. -/
def execDeadline (q : Nat) (s : State) : Host.Outcome State Fault Refusal :=
  .next (if (s.queue q).fired then s
  else s.onPacket q .parse 10 (fun _ _ => deadlineUsed) (fun s x slots =>
    let v := slots.headD 0
    let h := s.head (bits v 161 160)
    if !h.scanning then s.reject q 10 (x.slotAddr 0) (some v) []
    else
      let blank := h.nextBlank s.ns
      let lead := bits v 159 128
      if s.ns + lead < blank then s.setQueue q { x with st := .deadline, fireAt := blank - lead } else s.fire q true v))

/-- DEADLINE_FIRE (R108): device time has reached the firing time. -/
def execDeadlineFire (q : Nat) (s : State) : Host.Outcome State Fault Refusal :=
  .next (if s.ns < (s.queue q).fireAt then s
  else s.onPacket q .deadline 10 (fun _ _ => deadlineUsed) (fun s _ slots => s.fire q false (slots.headD 0)))

/-- A counter entry of a FENCE (R100). -/
structure FenceEntry where
  cond : Nat
  value : Nat
  addr : Nat

/-- The i-th counter entry of a FENCE's slots (R100): entries 0 to 2 in slot 0, four in each later slot. -/
def fenceEntry (slots : List Nat) (i : Nat) : FenceEntry :=
  let slot := (i + 1) / 4
  let v := (slots[slot]?).getD 0 / 2 ^ (128 * ((i + 1) % 4))
  { cond := bits v 1 0, value := bits v 63 32, addr := bits v 127 64 }

/-- The bits of a FENCE's slot that are not reserved (R100): the header and control word, and the entries counted. -/
def fenceUsed (slot first : Nat) : Nat :=
  let n := bits first 67 64
  let entry : Nat → Nat := fun i => field (128 * i + 127) (128 * i + 32) ||| field (128 * i + 1) (128 * i)
  let mine := (List.range 4).filter (fun i => decide (4 * slot + i ≥ 1) && decide (4 * slot + i - 1 < n))
  mine.foldl (fun m i => m ||| entry i) (if slot = 0 then field 68 0 else 0)

/-- Whether a counter satisfies an entry (R100). -/
def FenceEntry.met (e : FenceEntry) (c : Nat) : Bool :=
  match e.cond with
  | 0 => c == 0
  | 1 => decide (c ≤ e.value)
  | 2 => decide (c ≥ e.value)
  | _ => c != e.value

/-- Reads some entries of a fence in order: which are satisfied, or the entry and the access that stops (R102, R103). -/
def State.readFence (s : State) (n dom : Nat) (slots : List Nat) : List Nat → Except (Nat × PErr) (List Bool)
  | [] => .ok []
  | i :: t =>
    let e := fenceEntry slots i
    match s.parserRead n dom e.addr 4 with
    | .error x => .error (i, x)
    | .ok c => match s.readFence n dom slots t with
      | .error x => .error x
      | .ok bs => .ok (e.met c :: bs)

/-- Whether a fence's entries are valid (R100). -/
def fenceValid (slots : List Nat) : Bool :=
  ((List.range (bits (slots.headD 0) 67 64)).map (fenceEntry slots)).all (fun e =>
    (e.cond != 0 || e.value == 0) && e.addr % 4 == 0)

/-- The access at which an entry of a fence stops (R103, R109). -/
def State.fenceStop (s : State) (n v i : Nat) : PErr → State
  | .poison va => s.reject n 6 va (some v) [(8, i)]
  | x => s.parserStop n .read (some v) 6 x

/-- The evaluation in progress reads its next entry and no more (R102: an evaluation's reads are not performed together). -/
def State.fenceReadNext (s : State) (n : Nat) (q : Queue) (slots : List Nat) : State :=
  let i := q.fenceSeen.length
  if !fenceValid slots || decide (i ≥ bits (slots.headD 0) 67 64) then s
  else match s.readFence n q.domain slots [i] with
    | .error (k, x) => s.fenceStop n (slots.headD 0) k x
    | .ok bs =>
      let s := s.parserTouch n q.domain [((fenceEntry slots i).addr, 4)]
      { s with queues := tset s.queues n { q with fenceSeen := q.fenceSeen ++ bs } }

/-- One evaluation of a fence comes to its end: the entries not yet read are read, in ascending order (R102, R103). -/
def State.evaluateFence (s : State) (n : Nat) (q : Queue) (slots : List Nat) : State :=
  let v := slots.headD 0
  let cnt := bits v 67 64
  if !fenceValid slots then s.reject n 3 (q.slotAddr 0) (some v) []
  else match s.readFence n q.domain slots ((List.range cnt).drop q.fenceSeen.length) with
    | .error (i, x) => s.fenceStop n v i x
    | .ok rest =>
      let bs := q.fenceSeen ++ rest
      let s := s.parserTouch n q.domain (((List.range cnt).drop q.fenceSeen.length).map (fun i => ((fenceEntry slots i).addr, 4)))
      if (if bit v 68 then bs.any id else bs.all id) then s.consume n slots.length
      else if q.st == .fence then { s with queues := tset s.queues n { q with fenceSeen := [] } }
      else ((List.range cnt).map (fenceEntry slots)).foldl (fun (s : State) e => match s.translate q.domain e.addr .read with
        | .ok x => s.recall x.key
        | .error _ => s) (s.setQueue n { q with st := .fence, fenceSeen := [] })

/-- FENCE_PACKET (R100, R102): the first evaluation. -/
def execFencePacket (q : Nat) (s : State) : Host.Outcome State Fault Refusal :=
  .next (s.onPacket q .parse 2 fenceUsed (fun s x slots => s.evaluateFence q x slots))

/-- The evaluation of a queue's fence reads one entry ahead (R102); the model's inputs say when. -/
def State.fenceAhead (s : State) (n : Nat) : State :=
  s.onPacket n (if (s.queue n).st == .fence then .fence else .parse) 2 fenceUsed (fun s x slots => s.fenceReadNext n x slots)

/-- FENCE_EVALUATION (R102): an evaluation of a queue in FENCE. -/
def execFenceEvaluation (q : Nat) (s : State) : Host.Outcome State Fault Refusal :=
  .next (s.onPacket q .fence 2 fenceUsed (fun s x slots => s.evaluateFence q x slots))

/-- A SIGNAL's location, or the state in which its access stops (R104, R109). -/
def State.signalAt (s : State) (n : Nat) (q : Queue) (v : Nat) : Except State Xlat :=
  let va := packetAddr v
  if bits v 161 160 = 3 ∨ va % 4 ≠ 0 then .error (s.reject n 3 (q.slotAddr 0) (some v) [])
  else match s.xlateFor 0 n q.domain va .atomic with
    | .error (.miss level) => .error (s.parserStop n .atomic (some v) 6 (.miss va level))
    | .error (.cause c) => .error (s.parserStop n .atomic (some v) 6 (.fault c va))
    | .ok x => if x.ver && s.hasOpenSet q.domain then .error (s.reject n 11 va (some v) [(9, 10)]) else .ok x

/-- The step of a SIGNAL packet with an operation code (R104). -/
def State.onSignal (s : State) (n op : Nat) (f : State → Nat → Xlat → State) : State :=
  s.onPacket n .parse 3 (fun _ _ => field 161 0) (fun s q slots =>
    let v := slots.headD 0
    let code := bits v 161 160
    if code ≠ op ∧ code ≠ 3 then s
    else match s.signalAt n q v with
      | .error t => t
      | .ok x => f (s.recall x.key) v x)

/-- SIGNAL_SET (R105): on a poisoned word the rest of the sector becomes zero and the poison is cleared. -/
def execSignalSet (q : Nat) (s : State) : Host.Outcome State Fault Refusal :=
  .next (s.onSignal q 0 (fun s v x =>
    let b := toBytes 4 (bits v 159 128)
    let off := x.key % 32
    (if s.poisonedAt 0 false x.key then
      s.writeBytes (x.key - off) (List.replicate off 0 ++ b ++ List.replicate (28 - off) 0) false
    else s.writeBytes x.key b false).consume q 1))

/-- A SIGNAL that reads the counter first: it rejects a poisoned one with reason 6 (R105). -/
def State.readSignal (s : State) (n : Nat) (x : Xlat) (v : Nat) (f : State → Nat → State) : State :=
  if s.poisonedAt 0 false x.key then s.reject n 6 (packetAddr v) (some v) [] else f s (s.readNat 0 false x.key 4)

/-- SIGNAL_ADD (R105). -/
def execSignalAdd (q : Nat) (s : State) : Host.Outcome State Fault Refusal :=
  .next (s.onSignal q 1 (fun s v x => s.readSignal q x v (fun s c =>
    let sum := c + bits v 159 128
    let s1 := s.writeBytes x.key (toBytes 4 (sum % 2 ^ 32)) false
    (if sum ≥ 2 ^ 32 then
      (s1.queueRecord q 8 (packetAddr v) (some v) []).modQueue q (fun y => y.withStatus 1)
    else s1).consume q 1)))

/-- SIGNAL_DEC (R105). -/
def execSignalDec (q : Nat) (s : State) : Host.Outcome State Fault Refusal :=
  .next (s.onSignal q 2 (fun s v x => s.readSignal q x v (fun s c =>
    let n := bits v 159 128
    let s1 := s.writeBytes x.key (toBytes 4 (c - n)) false
    (if c < n then
      (s1.queueRecord q 7 (packetAddr v) (some v) []).modQueue q (fun y => y.withStatus 0)
    else s1).consume q 1)))

/-- The step of a COPY packet that fills, or does not (R106): it is handed to an engine and consumed; no bytes move nothing. -/
def State.onCopy (s : State) (n : Nat) (fill : Bool) : State :=
  s.onPacket n .parse 8 (fun _ _ => field 232 0) (fun s q slots =>
    let v := slots.headD 0
    if bit v 232 != fill then s
    else if fill && bits v 127 96 != 0 then s.reject n 3 (q.slotAddr 0) (some v) []
    else if bits v 231 192 = 0 then s.consume n 1
    else
      let (id, s) := s.newId
      let c : PacketCopy :=
        { id := id, queue := n, domain := q.domain, slot := q.readIndex, ident := BitVec.ofNat 16 (bits v 31 16), fill := fill,
          src := bits v 127 64, dst := bits v 191 128, bytes := bits v 231 192, done := 0, faultWait := none,
          cancelled := [], lost := [] }
      ({ s with packetCopies := tset s.packetCopies id c } : State).consume n 1)

/-- COPY (R106). -/
def execCopy (q : Nat) (s : State) : Host.Outcome State Fault Refusal := .next (s.onCopy q false)

/-- COPY_FILL (R106). -/
def execCopyFill (q : Nat) (s : State) : Host.Outcome State Fault Refusal := .next (s.onCopy q true)

/-- The context of a COPY packet's accesses: untagged (R106). -/
def PacketCopy.eng (c : PacketCopy) : Eng :=
  { dom := c.domain, tag := 0, launch := 0, writer := 0, cancelled := c.cancelled, drop := false }

/-- Whether a copy's ranges overlap. -/
def PacketCopy.overlaps (c : PacketCopy) : Bool :=
  decide (c.src < c.dst + c.bytes) && decide (c.dst < c.src + c.bytes)

/-- The bytes that a COPY packet reads, up to what stops it, with their poison: of the source, or of what its engine's buffer has
lost (R409, R415). -/
def State.packetBytes (s : State) (c : PacketCopy) : List (Byte × Bool) × Option Stop :=
  let (bs, st) := s.engRead c.eng c.src c.bytes
  ((bs.zipIdx).map (fun b => (b.1.1, b.1.2 || c.lost.contains (b.2 / 8))), st)

/-- The first of two stops. -/
def Stop.first : Option Stop → Option Stop → Option Stop
  | some x, some y => if x.off ≤ y.off then some x else some y
  | some x, none => some x
  | none, y => y

/-- Moves the bytes of a COPY packet up to the first that stops (R106); the flag says that poison was carried (R415). Where the
ranges overlap, the source stays and the destination's other bytes are free values; the bytes that stop it are the same. -/
def State.runPacket (s : State) (c : PacketCopy) : State × Option Stop × Bool :=
  if c.fill then
    let bs := (List.range c.bytes).map (fun i => (BitVec.ofNat 8 (c.src / 256 ^ (i % 4)), false))
    let (s1, st) := s.engWrite c.eng c.dst bs
    (s1, st, false)
  else
    let (bs, rd) := s.packetBytes c
    let s0 := s.engTouch (s.memPlaces c.eng c.src bs.length)
    let (s1, wr) := s0.engWrite c.eng c.dst bs
    let st := Stop.first rd wr
    let moved := bs.take (match st with
      | some x => x.off
      | none => c.bytes)
    if c.overlaps then
      let s2 := (cutRanges (rangeOf c.dst moved.length) c.src (c.src + c.bytes)).foldl (fun (s1 : State) r =>
        (s1.engWrite c.eng r.1 ((List.range (r.2 - r.1)).map (fun i =>
          let k := r.1 - c.dst + i
          ((Config.freeWord (s.free + k)).setWidth 8, ((moved[k]?).map (·.2)).getD false)))).1)
        ({ s0 with free := s0.free + moved.length } : State)
      (s2, st, moved.any (·.2))
    else (s1, st, moved.any (·.2))

/-- Whether the byte where a copy stops is read or written. -/
def PacketCopy.useAt (c : PacketCopy) (st : Stop) : Use := if !c.fill && st.va = c.src + st.off then .read else .write

/-- The record of event 1 of a COPY packet that carried poison (R415). -/
def State.packetPoison (s : State) (p : Bool) : State :=
  if p then
    let (a, s1) := s.fresh
    s1.errorRecord 13 1 a.toNat Who.none []
  else s

/-- COPY_RETIRE (R106): the last byte is written; a miss leaves the copy waiting. -/
def execCopyRetire (c : Nat) (s : State) : Host.Outcome State Fault Refusal :=
  .next (match tget s.packetCopies c with
    | none => s
    | some x =>
      if x.faultWait.isSome then s
      else match s.runPacket x with
        | (s1, none, p) =>
          (({ s1 with packetCopies := tdel s1.packetCopies c } : State).packetPoison p).noteForks
        | (_, some st, _) => match st.err with
          | .cause _ => s
          | .miss level =>
            let (s1, id) := s.replayMiss x.domain st.va level (accessBits (x.useAt st) true) (BitVec.allOnes 64) 0xFFFFFFFF
            { s1 with packetCopies := tset s1.packetCopies c { x with faultWait := some id } })

/-- COPY_STOP (R106): a fault stops the copy at the first byte concerned; the record gives the offset, and the queue enters
ERROR whatever its state. -/
def execCopyStop (c : Nat) (s : State) : Host.Outcome State Fault Refusal :=
  .next (match tget s.packetCopies c with
    | none => s
    | some x =>
      if x.faultWait.isSome then s
      else match s.runPacket x with
        | (s1, some { err := .cause _, off := off, va := va }, p) =>
          let s2 := ({ s1 with packetCopies := tdel s1.packetCopies c } : State).packetPoison p
          let hdr := 8 + x.ident.toNat * 2 ^ 16
          let s3 := s2.errorRecord 0 9 va Who.none (queueDetail x.queue x.slot (some hdr) (detailBytes 16 8 off))
          (s3.queueError x.queue).noteForks
        | _ => s)

/-- TIMESTAMP (R107): the device time is written as a release. -/
def execTimestamp (q : Nat) (s : State) : Host.Outcome State Fault Refusal :=
  .next (s.onPacket q .parse 9 (fun _ _ => field 127 0) (fun s x slots =>
    let v := slots.headD 0
    let va := packetAddr v
    if va % 8 ≠ 0 then s.reject q 3 (x.slotAddr 0) (some v) []
    else match s.xlateFor 0 q x.domain va .write with
      | .error (.miss level) => s.parserStop q .write (some v) 5 (.miss va level)
      | .error (.cause c) => s.parserStop q .write (some v) 5 (.fault c va)
      | .ok t =>
        if t.ver && s.hasOpenSet x.domain then s.reject q 11 va (some v) [(9, 10)]
        else (s.writeBytes t.key (toBytes 8 s.ns) false).consume q 1))

/-- The bits of a FORK packet that are not reserved (R126). -/
def forkUsed : Nat := field 319 128 ||| field 107 104 ||| field 97 64 ||| field 63 0

/-- FORK (R126, R127): a valid packet holds its queue in HELD. -/
def execFork (q : Nat) (s : State) : Host.Outcome State Fault Refusal :=
  .next (s.onPacket q .parse 4 (fun _ _ => forkUsed) (fun s x slots =>
    let v := slots.headD 0
    let n := bits v 107 104
    if !(decide (2 ≤ n) && decide (n ≤ 8)) || bits v 319 256 % 4 != 0 || bits v 255 192 % 8 != 0 ||
        bits v 191 128 % 4096 != 0 || (bits v 191 128 == 0 && bits v 95 64 != 0) then
      s.reject q 3 (x.slotAddr 0) (some v) []
    else (s.setQueue q { x with st := .held, held := 4 }).noteForks))

/-- The tags that are FREE, ascending (R125). -/
def State.freeTagList (s : State) : List (BitVec 4) :=
  ((List.range 15).map (fun i => BitVec.ofNat 4 (i + 1))).filter (fun t => s.tagState t.toNat == .free)

/-- FORK_PROCEED (R127, R151): the FORK that stands first in the order of tag grants takes its tags, opens its set and then
writes the tag report, all in one step with the packet; a miss on the report leaves it waiting in HELD (R468). -/
def execForkProceed (q : Nat) (s : State) : Host.Outcome State Fault Refusal :=
  .next (
    let s := s.noteForks
    let first := match (s.queue q).forkOrder with
      | none => false
      | some o => (tvals s.queues).all (fun y => match y.forkOrder with
        | some p => decide (o ≤ p)
        | none => true)
    if (s.queue q).held ≠ 4 || !first then s
    else s.onPacket q .held 4 (fun _ _ => forkUsed) (fun s x slots =>
      let v := slots.headD 0
      let n := bits v 107 104
      let tags := s.freeTagList.take n
      if tags.length < n then s
      else
        let report := (List.range 8).map (fun i => BitVec.ofNat 8 ((tags[i]?).getD 0).toNat)
        match s.queueWrite q (bits v 255 192) 0 report with
        | .error t => t
        | .ok _ =>
          let s1 := tags.foldl (fun (s : State) t => s.setTag t .live) s
          let set : SpecSet := { domain := x.domain, id := bits v 97 96, tags := tags, isOpen := true,
                                 backing := bits v 191 128, pages := bits v 95 64, doneAddr := bits v 319 256 }
          match ({ s1 with sets := s1.sets ++ [set] } : State).queueWrite q (bits v 255 192) 0 report with
          | .error t => t
          | .ok s2 => (s2.consume q 1).noteForks))

end Sys2Proof.Machine
end

