-- ==== Sys2Proof/WellFormed.lean ====
section
/-!
DEFINITION. The checks of R35 that follow the match of major and function: the reserved fields that a selector decides
(step 3) and the statically bounded fields of R37, R38, R42 to R45 (step 4). A device step has no word and no check.
-/

namespace Sys2Proof

/-- A field that names a k register holds 0 to 63 (R42). -/
def isK (f : BitVec 7) : Bool := decide (f.toNat < 64)

/-- The even register of an address pair (R43). -/
def isEven (f : BitVec 7) : Bool := f.toNat % 2 == 0

/-- With kb = 1, b names k[b] and is 0 to 63 (R41). -/
def kOperandOk (kb : BitVec 1) (b : BitVec 7) : Bool := kb == 0 || isK b

/-- A format id legal in format M: 0 to 19 (R37). -/
def isMemFormat (f : BitVec 5) : Bool := decide (f.toNat < 20)

/-- A tile number in format A: 0 to 63 (R44). -/
def isTile (f : BitVec 7) : Bool := decide (f.toNat < 64)

/-- BFX and BFI: p ≤ 31, 1 ≤ n and p + n ≤ 32 (R45). -/
def isBitField (p n : BitVec 6) : Bool := decide (p.toNat ≤ 31 ∧ 1 ≤ n.toNat ∧ p.toNat + n.toNat ≤ 32)

/-- The special registers that SETSR may name (R405). -/
def isWritableSr (d : BitVec 7) : Bool := [7, 8, 13, 14, 18].contains d.toNat

/-- The reserved fields that a selector of the instruction decides: b of BARA and BARW without a count register, a of
CACHE.L1ALL (R407). -/
def Instr.reservedOk : Instr → Bool
  | .bara _ c b => c == 1 || b == 0
  | .barw _ c b => c == 1 || b == 0
  | .cache a ord => ord != 3 || a == 0
  | _ => true

/-- The statically bounded fields (R35 step 4). A recipe slot above 7 in majors 0x17 and 0x1E is a field out of range, reason 3, as
R44 lists it, though R48 reserves an fn that its table does not list (DEDUCED; log entry 84). -/
def Instr.boundsOk : Instr → Bool
  | .add _ _ b kb => kOperandOk kb b
  | .sub _ _ b kb => kOperandOk kb b
  | .mul _ _ b kb => kOperandOk kb b
  | .mulh _ _ b kb => kOperandOk kb b
  | .mulhu _ _ b kb => kOperandOk kb b
  | .mad _ _ b kb => kOperandOk kb b
  | .min _ _ b kb => kOperandOk kb b
  | .max _ _ b kb => kOperandOk kb b
  | .minu _ _ b kb => kOperandOk kb b
  | .maxu _ _ b kb => kOperandOk kb b
  | .absd _ _ b kb => kOperandOk kb b
  | .adds _ _ b kb => kOperandOk kb b
  | .subs _ _ b kb => kOperandOk kb b
  | .avg _ _ b kb => kOperandOk kb b
  | .and _ _ b kb => kOperandOk kb b
  | .or _ _ b kb => kOperandOk kb b
  | .xor _ _ b kb => kOperandOk kb b
  | .andn _ _ b kb => kOperandOk kb b
  | .shl _ _ b kb => kOperandOk kb b
  | .shr _ _ b kb => kOperandOk kb b
  | .sar _ _ b kb => kOperandOk kb b
  | .rotl _ _ b kb => kOperandOk kb b
  | .cmpEq _ _ b kb => kOperandOk kb b
  | .cmpNe _ _ b kb => kOperandOk kb b
  | .cmpLt _ _ b kb => kOperandOk kb b
  | .cmpLe _ _ b kb => kOperandOk kb b
  | .cmpLtu _ _ b kb => kOperandOk kb b
  | .cmpLeu _ _ b kb => kOperandOk kb b
  | .cmpi _ _ c _ => decide (c.toNat < 6)
  | .bfx _ _ p n => isBitField p n
  | .bfi _ _ p n => isBitField p n
  | .add64 _ _ b kb => kOperandOk kb b
  | .sub64 _ _ b kb => kOperandOk kb b
  | .lea1 _ _ b kb => kOperandOk kb b
  | .lea2 _ _ b kb => kOperandOk kb b
  | .lea4 _ _ b kb => kOperandOk kb b
  | .lea8 _ _ b kb => kOperandOk kb b
  | .sel _ _ b kb => kOperandOk kb b
  | .fadd _ _ b kb => kOperandOk kb b
  | .fsub _ _ b kb => kOperandOk kb b
  | .fmul _ _ b kb => kOperandOk kb b
  | .ffma _ _ b kb => kOperandOk kb b
  | .ffms _ _ b kb => kOperandOk kb b
  | .fmin _ _ b kb => kOperandOk kb b
  | .fmax _ _ b kb => kOperandOk kb b
  | .fminnum _ _ b kb => kOperandOk kb b
  | .fmaxnum _ _ b kb => kOperandOk kb b
  | .fcopysign _ _ b kb => kOperandOk kb b
  | .fcmpEq _ _ b kb => kOperandOk kb b
  | .fcmpNe _ _ b kb => kOperandOk kb b
  | .fcmpLt _ _ b kb => kOperandOk kb b
  | .fcmpLe _ _ b kb => kOperandOk kb b
  | .fcmpUnord _ _ b kb => kOperandOk kb b
  | .fcmpOrd _ _ b kb => kOperandOk kb b
  | .hadd2 _ _ b kb => kOperandOk kb b
  | .hsub2 _ _ b kb => kOperandOk kb b
  | .hmul2 _ _ b kb => kOperandOk kb b
  | .hfma2 _ _ b kb => kOperandOk kb b
  | .hmin2 _ _ b kb => kOperandOk kb b
  | .hmax2 _ _ b kb => kOperandOk kb b
  | .badd2 _ _ b kb => kOperandOk kb b
  | .bmul2 _ _ b kb => kOperandOk kb b
  | .bfma2 _ _ b kb => kOperandOk kb b
  | .cvt _ _ f _ _ _ => (decide (1 ≤ f.toNat) && isMemFormat f)
  | .vote _ _ m => decide (m.toNat < 4)
  | .expr _ _ _ n => decide (n.toNat < 8)
  | .kadd d a b => isK d && isK a && isK b
  | .ksub d a b => isK d && isK a && isK b
  | .kmul d a b => isK d && isK a && isK b
  | .kand d a b => isK d && isK a && isK b
  | .kor d a b => isK d && isK a && isK b
  | .kxor d a b => isK d && isK a && isK b
  | .kshl d a b => isK d && isK a && isK b
  | .kshr d a b => isK d && isK a && isK b
  | .ksar d a b => isK d && isK a && isK b
  | .kmin d a b => isK d && isK a && isK b
  | .kmax d a b => isK d && isK a && isK b
  | .kminu d a b => isK d && isK a && isK b
  | .kmaxu d a b => isK d && isK a && isK b
  | .kcmpeq d a b => isK d && isK a && isK b
  | .kcmplt d a b => isK d && isK a && isK b
  | .kcmpltu d a b => isK d && isK a && isK b
  | .kaddi d a _ => isK d && isK a
  | .kmovi d _ => isK d
  | .kmovhi d _ => isK d
  | .movkv _ a => isK a
  | .movvk d _ => isK d
  | .kmov d a => isK d && isK a
  | .recipe a n => isK a && decide (n.toNat < 8)
  | .ld _ a f _ _ => isEven a && isMemFormat f
  | .st _ a f _ _ => isEven a && isMemFormat f
  | .lds _ _ f _ _ => isMemFormat f
  | .sts _ _ f _ _ => isMemFormat f
  | .kld d a f _ _ => isK d && isK a && isMemFormat f
  | .kst d a f _ _ => isK d && isK a && isMemFormat f
  | .amoAdd _ a _ _ _ => isEven a
  | .amoMin _ a _ _ _ => isEven a
  | .amoMax _ a _ _ _ => isEven a
  | .amoXchg _ a _ _ _ => isEven a
  | .amoMinu _ a _ _ _ => isEven a
  | .amoMaxu _ a _ _ _ => isEven a
  | .amoAnd _ a _ _ _ => isEven a
  | .amoOr _ a _ _ _ => isEven a
  | .amoXor _ a _ _ _ => isEven a
  | .amoIncw _ a _ _ _ => isEven a
  | .amoDecw _ a _ _ _ => isEven a
  | .amoCas _ a _ _ _ => isEven a
  | .amoFadd _ a _ _ _ => isEven a
  | .amoFmin _ a _ _ _ => isEven a
  | .amoFmax _ a _ _ _ => isEven a
  | .amoCasc d a _ _ _ => isEven a && (d != 0x7F)
  | .qpush d a _ _ _ => isEven a && (d != 0x7F)
  | .qpop d a _ _ => isEven a && (d != 0x7F)
  | .qpeek d a _ _ => isEven a && (d != 0x7F)
  | .bara n _ _ => decide (n.toNat < 16)
  | .barw n _ _ => decide (n.toNat < 16)
  | .cpyin _ a _ => isEven a
  | .cpyout _ a _ => isEven a
  | .cpygath _ a _ z => isEven a && (z != 3)
  | .cpyscat _ a _ z => isEven a && (z != 3)
  | .cpyring _ a r => isEven a && decide (r.toNat < 16)
  | .pref a _ => isEven a
  | .rinit _ r => decide (r.toNat < 16)
  | .racq _ r => decide (r.toNat < 16)
  | .rpub _ r => decide (r.toNat < 16)
  | .rget _ r => decide (r.toNat < 16)
  | .rrel _ r => decide (r.toNat < 16)
  | .rstat _ r => decide (r.toNat < 16)
  | .cbopen _ a _ => isEven a
  | .cbput _ a sv => (sv == 1 || isEven a)
  | .trace _ _ b => isK b
  | .traceq _ _ b => isK b
  | .rquery _ imm => decide (imm.toNat < 5)
  | .gang d _ => decide (d.toNat < 16)
  | .accz d f sv => isTile d && ((f == 20 && sv == 0) || f == 21)
  | .accld d _ f => isTile d && (f == 20 || f == 21)
  | .accst d _ => isTile d
  | .accrd _ a _ sv c => isTile a && (sv == 0 || c == 0)
  | .strmopen d _ => decide (d.toNat < 8)
  | .strmclose d => decide (d.toNat < 8)
  | .vdrop a _ => isEven a
  | .getsr _ a => decide (a.toNat < 20)
  | .setsr d _ => isWritableSr d
  | .cache a ord => (ord == 3 || isEven a)
  | .perf _ imm => decide (imm.toNat < 6)
  | .digest a => isEven a
  | .loopi c _ _ => (c != 3)
  | .loop c a _ => isK a && (c != 3)
  | .kbrz a _ => isK a
  | .kbrnz a _ => isK a
  | .call n _ => (n != 0)
  | .callv _ n => (n != 0)
  | .waitc _ c => decide (c.toNat < 5)
  | _ => true

/-- A well-formed instruction: one whose word passes every check of R35. -/
def Instr.wellFormed (i : Instr) : Bool := i.reservedOk && i.boundsOk

end Sys2Proof
end

