-- ==== Sys2Proof/Decode.lean ====
section
/-!
DEFINITION. The decoder of R35 to R57 and R48, total on every word, and the encoder written from the same formats (R36).
-/

namespace Sys2Proof

/-- Why a word is not an instruction: the decode reason codes 0 to 3 of R53 (code 4 depends on where the word stands). -/
inductive Reason where
  | reservedMajor
  | reservedFn
  | reservedField
  | outOfRange
  deriving DecidableEq, Repr

/-- The reason code of R53. -/
def Reason.code : Reason → Nat
  | .reservedMajor => 0
  | .reservedFn => 1
  | .reservedField => 2
  | .outOfRange => 3

/-- What the match of major and function finds: the instruction the fields spell, and the reserved bits of its form. -/
structure Candidate where
  reserved : Word
  instr : Instr
  deriving DecidableEq, Repr

/-- Major 0x01 (R48). -/
def decode01 (w : Word) : Except Reason Candidate :=
  match (w.extractLsb' 0 4).toNat with
  | 0 => .ok ⟨0x00000000, .add (w.extractLsb' 19 7) (w.extractLsb' 12 7) (w.extractLsb' 5 7) (w.extractLsb' 4 1)⟩
  | 1 => .ok ⟨0x00000000, .sub (w.extractLsb' 19 7) (w.extractLsb' 12 7) (w.extractLsb' 5 7) (w.extractLsb' 4 1)⟩
  | 2 => .ok ⟨0x00000000, .mul (w.extractLsb' 19 7) (w.extractLsb' 12 7) (w.extractLsb' 5 7) (w.extractLsb' 4 1)⟩
  | 3 => .ok ⟨0x00000000, .mulh (w.extractLsb' 19 7) (w.extractLsb' 12 7) (w.extractLsb' 5 7) (w.extractLsb' 4 1)⟩
  | 4 => .ok ⟨0x00000000, .mulhu (w.extractLsb' 19 7) (w.extractLsb' 12 7) (w.extractLsb' 5 7) (w.extractLsb' 4 1)⟩
  | 5 => .ok ⟨0x00000000, .mad (w.extractLsb' 19 7) (w.extractLsb' 12 7) (w.extractLsb' 5 7) (w.extractLsb' 4 1)⟩
  | 6 => .ok ⟨0x00000000, .min (w.extractLsb' 19 7) (w.extractLsb' 12 7) (w.extractLsb' 5 7) (w.extractLsb' 4 1)⟩
  | 7 => .ok ⟨0x00000000, .max (w.extractLsb' 19 7) (w.extractLsb' 12 7) (w.extractLsb' 5 7) (w.extractLsb' 4 1)⟩
  | 8 => .ok ⟨0x00000000, .minu (w.extractLsb' 19 7) (w.extractLsb' 12 7) (w.extractLsb' 5 7) (w.extractLsb' 4 1)⟩
  | 9 => .ok ⟨0x00000000, .maxu (w.extractLsb' 19 7) (w.extractLsb' 12 7) (w.extractLsb' 5 7) (w.extractLsb' 4 1)⟩
  | 10 => .ok ⟨0x00000000, .absd (w.extractLsb' 19 7) (w.extractLsb' 12 7) (w.extractLsb' 5 7) (w.extractLsb' 4 1)⟩
  | 11 => .ok ⟨0x00000000, .adds (w.extractLsb' 19 7) (w.extractLsb' 12 7) (w.extractLsb' 5 7) (w.extractLsb' 4 1)⟩
  | 12 => .ok ⟨0x00000000, .subs (w.extractLsb' 19 7) (w.extractLsb' 12 7) (w.extractLsb' 5 7) (w.extractLsb' 4 1)⟩
  | 13 => .ok ⟨0x00000000, .avg (w.extractLsb' 19 7) (w.extractLsb' 12 7) (w.extractLsb' 5 7) (w.extractLsb' 4 1)⟩
  | _ => .error .reservedFn

/-- Major 0x02 (R48). -/
def decode02 (w : Word) : Except Reason Candidate :=
  match (w.extractLsb' 0 4).toNat with
  | 0 => .ok ⟨0x00000000, .and (w.extractLsb' 19 7) (w.extractLsb' 12 7) (w.extractLsb' 5 7) (w.extractLsb' 4 1)⟩
  | 1 => .ok ⟨0x00000000, .or (w.extractLsb' 19 7) (w.extractLsb' 12 7) (w.extractLsb' 5 7) (w.extractLsb' 4 1)⟩
  | 2 => .ok ⟨0x00000000, .xor (w.extractLsb' 19 7) (w.extractLsb' 12 7) (w.extractLsb' 5 7) (w.extractLsb' 4 1)⟩
  | 3 => .ok ⟨0x00000000, .andn (w.extractLsb' 19 7) (w.extractLsb' 12 7) (w.extractLsb' 5 7) (w.extractLsb' 4 1)⟩
  | 4 => .ok ⟨0x00000FF0, .not (w.extractLsb' 19 7) (w.extractLsb' 12 7)⟩
  | 5 => .ok ⟨0x00000000, .shl (w.extractLsb' 19 7) (w.extractLsb' 12 7) (w.extractLsb' 5 7) (w.extractLsb' 4 1)⟩
  | 6 => .ok ⟨0x00000000, .shr (w.extractLsb' 19 7) (w.extractLsb' 12 7) (w.extractLsb' 5 7) (w.extractLsb' 4 1)⟩
  | 7 => .ok ⟨0x00000000, .sar (w.extractLsb' 19 7) (w.extractLsb' 12 7) (w.extractLsb' 5 7) (w.extractLsb' 4 1)⟩
  | 8 => .ok ⟨0x00000000, .rotl (w.extractLsb' 19 7) (w.extractLsb' 12 7) (w.extractLsb' 5 7) (w.extractLsb' 4 1)⟩
  | 9 => .ok ⟨0x00000FF0, .popc (w.extractLsb' 19 7) (w.extractLsb' 12 7)⟩
  | 10 => .ok ⟨0x00000FF0, .clz (w.extractLsb' 19 7) (w.extractLsb' 12 7)⟩
  | 11 => .ok ⟨0x00000FF0, .brev (w.extractLsb' 19 7) (w.extractLsb' 12 7)⟩
  | _ => .error .reservedFn

/-- Major 0x03 (R48). -/
def decode03 (w : Word) : Except Reason Candidate :=
  match (w.extractLsb' 0 4).toNat with
  | 0 => .ok ⟨0x00000000, .cmpEq (w.extractLsb' 19 7) (w.extractLsb' 12 7) (w.extractLsb' 5 7) (w.extractLsb' 4 1)⟩
  | 1 => .ok ⟨0x00000000, .cmpNe (w.extractLsb' 19 7) (w.extractLsb' 12 7) (w.extractLsb' 5 7) (w.extractLsb' 4 1)⟩
  | 2 => .ok ⟨0x00000000, .cmpLt (w.extractLsb' 19 7) (w.extractLsb' 12 7) (w.extractLsb' 5 7) (w.extractLsb' 4 1)⟩
  | 3 => .ok ⟨0x00000000, .cmpLe (w.extractLsb' 19 7) (w.extractLsb' 12 7) (w.extractLsb' 5 7) (w.extractLsb' 4 1)⟩
  | 4 => .ok ⟨0x00000000, .cmpLtu (w.extractLsb' 19 7) (w.extractLsb' 12 7) (w.extractLsb' 5 7) (w.extractLsb' 4 1)⟩
  | 5 => .ok ⟨0x00000000, .cmpLeu (w.extractLsb' 19 7) (w.extractLsb' 12 7) (w.extractLsb' 5 7) (w.extractLsb' 4 1)⟩
  | _ => .error .reservedFn

/-- Major 0x04 (R48). -/
def decode04 (w : Word) : Except Reason Candidate :=
  .ok ⟨0x00000000, .addi (w.extractLsb' 19 7) (w.extractLsb' 12 7) (w.extractLsb' 0 12)⟩

/-- Major 0x05 (R48). -/
def decode05 (w : Word) : Except Reason Candidate :=
  .ok ⟨0x00000000, .andi (w.extractLsb' 19 7) (w.extractLsb' 12 7) (w.extractLsb' 0 12)⟩

/-- Major 0x06 (R48). -/
def decode06 (w : Word) : Except Reason Candidate :=
  .ok ⟨0x00000000, .ori (w.extractLsb' 19 7) (w.extractLsb' 12 7) (w.extractLsb' 0 12)⟩

/-- Major 0x07 (R48). -/
def decode07 (w : Word) : Except Reason Candidate :=
  .ok ⟨0x00000000, .xori (w.extractLsb' 19 7) (w.extractLsb' 12 7) (w.extractLsb' 0 12)⟩

/-- Major 0x08 (R48). -/
def decode08 (w : Word) : Except Reason Candidate :=
  match (w.extractLsb' 10 2).toNat with
  | 0 => .ok ⟨0x000003E0, .shli (w.extractLsb' 19 7) (w.extractLsb' 12 7) (w.extractLsb' 0 5)⟩
  | 1 => .ok ⟨0x000003E0, .shri (w.extractLsb' 19 7) (w.extractLsb' 12 7) (w.extractLsb' 0 5)⟩
  | 2 => .ok ⟨0x000003E0, .sari (w.extractLsb' 19 7) (w.extractLsb' 12 7) (w.extractLsb' 0 5)⟩
  | _ => .ok ⟨0x000003E0, .rotli (w.extractLsb' 19 7) (w.extractLsb' 12 7) (w.extractLsb' 0 5)⟩

/-- Major 0x09 (R48). -/
def decode09 (w : Word) : Except Reason Candidate :=
  .ok ⟨0x00000000, .cmpi (w.extractLsb' 19 7) (w.extractLsb' 12 7) (w.extractLsb' 9 3) (w.extractLsb' 0 9)⟩

/-- Major 0x0A (R48). -/
def decode0A (w : Word) : Except Reason Candidate :=
  .ok ⟨0x00000000, .movi (w.extractLsb' 19 7) (w.extractLsb' 0 19)⟩

/-- Major 0x0B (R48). -/
def decode0B (w : Word) : Except Reason Candidate :=
  .ok ⟨0x00000000, .movhi (w.extractLsb' 19 7) (w.extractLsb' 0 19)⟩

/-- Major 0x0C (R48). -/
def decode0C (w : Word) : Except Reason Candidate :=
  .ok ⟨0x00000000, .bfx (w.extractLsb' 19 7) (w.extractLsb' 12 7) (w.extractLsb' 6 6) (w.extractLsb' 0 6)⟩

/-- Major 0x0D (R48). -/
def decode0D (w : Word) : Except Reason Candidate :=
  .ok ⟨0x00000000, .bfi (w.extractLsb' 19 7) (w.extractLsb' 12 7) (w.extractLsb' 6 6) (w.extractLsb' 0 6)⟩

/-- Major 0x0E (R48, R221). kb = 1 in SEXT and ZEXT is a non-zero reserved field, reason 2: their b is reserved, and with it
the bit that says what b names (DEDUCED: R41 lists the forms whose kb must be 0 and does not name them; log entry 69). -/
def decode0E (w : Word) : Except Reason Candidate :=
  match (w.extractLsb' 0 4).toNat with
  | 0 => .ok ⟨0x00000000, .add64 (w.extractLsb' 19 7) (w.extractLsb' 12 7) (w.extractLsb' 5 7) (w.extractLsb' 4 1)⟩
  | 1 => .ok ⟨0x00000000, .sub64 (w.extractLsb' 19 7) (w.extractLsb' 12 7) (w.extractLsb' 5 7) (w.extractLsb' 4 1)⟩
  | 2 => .ok ⟨0x00000000, .lea1 (w.extractLsb' 19 7) (w.extractLsb' 12 7) (w.extractLsb' 5 7) (w.extractLsb' 4 1)⟩
  | 3 => .ok ⟨0x00000000, .lea2 (w.extractLsb' 19 7) (w.extractLsb' 12 7) (w.extractLsb' 5 7) (w.extractLsb' 4 1)⟩
  | 4 => .ok ⟨0x00000000, .lea4 (w.extractLsb' 19 7) (w.extractLsb' 12 7) (w.extractLsb' 5 7) (w.extractLsb' 4 1)⟩
  | 5 => .ok ⟨0x00000000, .lea8 (w.extractLsb' 19 7) (w.extractLsb' 12 7) (w.extractLsb' 5 7) (w.extractLsb' 4 1)⟩
  | 6 => .ok ⟨0x00000FF0, .sext (w.extractLsb' 19 7) (w.extractLsb' 12 7)⟩
  | 7 => .ok ⟨0x00000FF0, .zext (w.extractLsb' 19 7) (w.extractLsb' 12 7)⟩
  | _ => .error .reservedFn

/-- Major 0x0F (R48). -/
def decode0F (w : Word) : Except Reason Candidate :=
  match (w.extractLsb' 0 4).toNat with
  | 0 => .ok ⟨0x00000000, .sel (w.extractLsb' 19 7) (w.extractLsb' 12 7) (w.extractLsb' 5 7) (w.extractLsb' 4 1)⟩
  | _ => .error .reservedFn

/-- Major 0x10 (R48). -/
def decode10 (w : Word) : Except Reason Candidate :=
  match (w.extractLsb' 0 4).toNat with
  | 0 => .ok ⟨0x00000000, .fadd (w.extractLsb' 19 7) (w.extractLsb' 12 7) (w.extractLsb' 5 7) (w.extractLsb' 4 1)⟩
  | 1 => .ok ⟨0x00000000, .fsub (w.extractLsb' 19 7) (w.extractLsb' 12 7) (w.extractLsb' 5 7) (w.extractLsb' 4 1)⟩
  | 2 => .ok ⟨0x00000000, .fmul (w.extractLsb' 19 7) (w.extractLsb' 12 7) (w.extractLsb' 5 7) (w.extractLsb' 4 1)⟩
  | 3 => .ok ⟨0x00000000, .ffma (w.extractLsb' 19 7) (w.extractLsb' 12 7) (w.extractLsb' 5 7) (w.extractLsb' 4 1)⟩
  | 4 => .ok ⟨0x00000000, .ffms (w.extractLsb' 19 7) (w.extractLsb' 12 7) (w.extractLsb' 5 7) (w.extractLsb' 4 1)⟩
  | 5 => .ok ⟨0x00000000, .fmin (w.extractLsb' 19 7) (w.extractLsb' 12 7) (w.extractLsb' 5 7) (w.extractLsb' 4 1)⟩
  | 6 => .ok ⟨0x00000000, .fmax (w.extractLsb' 19 7) (w.extractLsb' 12 7) (w.extractLsb' 5 7) (w.extractLsb' 4 1)⟩
  | 7 => .ok ⟨0x00000000, .fminnum (w.extractLsb' 19 7) (w.extractLsb' 12 7) (w.extractLsb' 5 7) (w.extractLsb' 4 1)⟩
  | 8 => .ok ⟨0x00000000, .fmaxnum (w.extractLsb' 19 7) (w.extractLsb' 12 7) (w.extractLsb' 5 7) (w.extractLsb' 4 1)⟩
  | 9 => .ok ⟨0x00000FF0, .fabs (w.extractLsb' 19 7) (w.extractLsb' 12 7)⟩
  | 10 => .ok ⟨0x00000FF0, .fneg (w.extractLsb' 19 7) (w.extractLsb' 12 7)⟩
  | 11 => .ok ⟨0x00000000, .fcopysign (w.extractLsb' 19 7) (w.extractLsb' 12 7) (w.extractLsb' 5 7) (w.extractLsb' 4 1)⟩
  | 12 => .ok ⟨0x00000FF0, .fclass (w.extractLsb' 19 7) (w.extractLsb' 12 7)⟩
  | _ => .error .reservedFn

/-- Major 0x11 (R48). -/
def decode11 (w : Word) : Except Reason Candidate :=
  match (w.extractLsb' 0 4).toNat with
  | 0 => .ok ⟨0x00000000, .fcmpEq (w.extractLsb' 19 7) (w.extractLsb' 12 7) (w.extractLsb' 5 7) (w.extractLsb' 4 1)⟩
  | 1 => .ok ⟨0x00000000, .fcmpNe (w.extractLsb' 19 7) (w.extractLsb' 12 7) (w.extractLsb' 5 7) (w.extractLsb' 4 1)⟩
  | 2 => .ok ⟨0x00000000, .fcmpLt (w.extractLsb' 19 7) (w.extractLsb' 12 7) (w.extractLsb' 5 7) (w.extractLsb' 4 1)⟩
  | 3 => .ok ⟨0x00000000, .fcmpLe (w.extractLsb' 19 7) (w.extractLsb' 12 7) (w.extractLsb' 5 7) (w.extractLsb' 4 1)⟩
  | 4 => .ok ⟨0x00000000, .fcmpUnord (w.extractLsb' 19 7) (w.extractLsb' 12 7) (w.extractLsb' 5 7) (w.extractLsb' 4 1)⟩
  | 5 => .ok ⟨0x00000000, .fcmpOrd (w.extractLsb' 19 7) (w.extractLsb' 12 7) (w.extractLsb' 5 7) (w.extractLsb' 4 1)⟩
  | _ => .error .reservedFn

/-- Major 0x12 (R48). -/
def decode12 (w : Word) : Except Reason Candidate :=
  match (w.extractLsb' 0 4).toNat with
  | 0 => .ok ⟨0x00000FF0, .rcp (w.extractLsb' 19 7) (w.extractLsb' 12 7)⟩
  | 1 => .ok ⟨0x00000FF0, .rsq (w.extractLsb' 19 7) (w.extractLsb' 12 7)⟩
  | 2 => .ok ⟨0x00000FF0, .sqrt (w.extractLsb' 19 7) (w.extractLsb' 12 7)⟩
  | 3 => .ok ⟨0x00000FF0, .exp2 (w.extractLsb' 19 7) (w.extractLsb' 12 7)⟩
  | 4 => .ok ⟨0x00000FF0, .log2 (w.extractLsb' 19 7) (w.extractLsb' 12 7)⟩
  | 5 => .ok ⟨0x00000FF0, .sin (w.extractLsb' 19 7) (w.extractLsb' 12 7)⟩
  | 6 => .ok ⟨0x00000FF0, .cos (w.extractLsb' 19 7) (w.extractLsb' 12 7)⟩
  | 7 => .ok ⟨0x00000FF0, .tanh (w.extractLsb' 19 7) (w.extractLsb' 12 7)⟩
  | _ => .error .reservedFn

/-- Major 0x13 (R48). -/
def decode13 (w : Word) : Except Reason Candidate :=
  match (w.extractLsb' 0 4).toNat with
  | 0 => .ok ⟨0x00000000, .hadd2 (w.extractLsb' 19 7) (w.extractLsb' 12 7) (w.extractLsb' 5 7) (w.extractLsb' 4 1)⟩
  | 1 => .ok ⟨0x00000000, .hsub2 (w.extractLsb' 19 7) (w.extractLsb' 12 7) (w.extractLsb' 5 7) (w.extractLsb' 4 1)⟩
  | 2 => .ok ⟨0x00000000, .hmul2 (w.extractLsb' 19 7) (w.extractLsb' 12 7) (w.extractLsb' 5 7) (w.extractLsb' 4 1)⟩
  | 3 => .ok ⟨0x00000000, .hfma2 (w.extractLsb' 19 7) (w.extractLsb' 12 7) (w.extractLsb' 5 7) (w.extractLsb' 4 1)⟩
  | 4 => .ok ⟨0x00000000, .hmin2 (w.extractLsb' 19 7) (w.extractLsb' 12 7) (w.extractLsb' 5 7) (w.extractLsb' 4 1)⟩
  | 5 => .ok ⟨0x00000000, .hmax2 (w.extractLsb' 19 7) (w.extractLsb' 12 7) (w.extractLsb' 5 7) (w.extractLsb' 4 1)⟩
  | 6 => .ok ⟨0x00000000, .badd2 (w.extractLsb' 19 7) (w.extractLsb' 12 7) (w.extractLsb' 5 7) (w.extractLsb' 4 1)⟩
  | 7 => .ok ⟨0x00000000, .bmul2 (w.extractLsb' 19 7) (w.extractLsb' 12 7) (w.extractLsb' 5 7) (w.extractLsb' 4 1)⟩
  | 8 => .ok ⟨0x00000000, .bfma2 (w.extractLsb' 19 7) (w.extractLsb' 12 7) (w.extractLsb' 5 7) (w.extractLsb' 4 1)⟩
  | _ => .error .reservedFn

/-- Major 0x14 (R48). -/
def decode14 (w : Word) : Except Reason Candidate :=
  .ok ⟨0x00000003, .cvt (w.extractLsb' 19 7) (w.extractLsb' 12 7) (w.extractLsb' 7 5) (w.extractLsb' 5 2) (w.extractLsb' 4 1) (w.extractLsb' 2 2)⟩

/-- Major 0x15 (R48). -/
def decode15 (w : Word) : Except Reason Candidate :=
  match (w.extractLsb' 0 4).toNat with
  | 0 => .ok ⟨0x00000FF0, .tagset (w.extractLsb' 19 7) (w.extractLsb' 12 7)⟩
  | 1 => .ok ⟨0x00000FF0, .tagget (w.extractLsb' 19 7) (w.extractLsb' 12 7)⟩
  | 2 => .ok ⟨0x0007E010, .scaleset (w.extractLsb' 19 7) (w.extractLsb' 5 8)⟩
  | 3 => .ok ⟨0x0007E010, .scaleadd (w.extractLsb' 19 7) (w.extractLsb' 5 8)⟩
  | 4 => .ok ⟨0x00060FF0, .retag (w.extractLsb' 19 7) (w.extractLsb' 12 5)⟩
  | _ => .error .reservedFn

/-- Major 0x16 (R48). -/
def decode16 (w : Word) : Except Reason Candidate :=
  match (w.extractLsb' 0 4).toNat with
  | 0 => .ok ⟨0x00000010, .shfl (w.extractLsb' 19 7) (w.extractLsb' 12 7) (w.extractLsb' 5 7)⟩
  | 1 => .ok ⟨0x00000010, .shflx (w.extractLsb' 19 7) (w.extractLsb' 12 7) (w.extractLsb' 5 7)⟩
  | 2 => .ok ⟨0x00000010, .shflup (w.extractLsb' 19 7) (w.extractLsb' 12 7) (w.extractLsb' 5 7)⟩
  | 3 => .ok ⟨0x00000010, .shfldn (w.extractLsb' 19 7) (w.extractLsb' 12 7) (w.extractLsb' 5 7)⟩
  | 4 => .ok ⟨0x00000010, .bcast (w.extractLsb' 19 7) (w.extractLsb' 12 7) (w.extractLsb' 5 7)⟩
  | 5 => .ok ⟨0x00000010, .vote (w.extractLsb' 19 7) (w.extractLsb' 12 7) (w.extractLsb' 5 7)⟩
  | 6 => .ok ⟨0x00000FF0, .redadd (w.extractLsb' 19 7) (w.extractLsb' 12 7)⟩
  | 7 => .ok ⟨0x00000FF0, .redmin (w.extractLsb' 19 7) (w.extractLsb' 12 7)⟩
  | 8 => .ok ⟨0x00000FF0, .redmax (w.extractLsb' 19 7) (w.extractLsb' 12 7)⟩
  | 9 => .ok ⟨0x00000FF0, .redfadd (w.extractLsb' 19 7) (w.extractLsb' 12 7)⟩
  | 10 => .ok ⟨0x00000FF0, .scanadd (w.extractLsb' 19 7) (w.extractLsb' 12 7)⟩
  | 11 => .ok ⟨0x00000FF0, .first (w.extractLsb' 19 7) (w.extractLsb' 12 7)⟩
  | _ => .error .reservedFn

/-- Major 0x17 (R48). -/
def decode17 (w : Word) : Except Reason Candidate :=
  .ok ⟨0x00000010, .expr (w.extractLsb' 19 7) (w.extractLsb' 12 7) (w.extractLsb' 5 7) (w.extractLsb' 0 4)⟩

/-- Major 0x18 (R48). -/
def decode18 (w : Word) : Except Reason Candidate :=
  match (w.extractLsb' 0 4).toNat with
  | 0 => .ok ⟨0x0007FFF0, .rand (w.extractLsb' 19 7)⟩
  | 1 => .ok ⟨0x0007FFF0, .randf (w.extractLsb' 19 7)⟩
  | _ => .error .reservedFn

/-- Major 0x19 (R48). -/
def decode19 (w : Word) : Except Reason Candidate :=
  match (w.extractLsb' 0 4).toNat with
  | 0 => .ok ⟨0x00000010, .kadd (w.extractLsb' 19 7) (w.extractLsb' 12 7) (w.extractLsb' 5 7)⟩
  | 1 => .ok ⟨0x00000010, .ksub (w.extractLsb' 19 7) (w.extractLsb' 12 7) (w.extractLsb' 5 7)⟩
  | 2 => .ok ⟨0x00000010, .kmul (w.extractLsb' 19 7) (w.extractLsb' 12 7) (w.extractLsb' 5 7)⟩
  | 3 => .ok ⟨0x00000010, .kand (w.extractLsb' 19 7) (w.extractLsb' 12 7) (w.extractLsb' 5 7)⟩
  | 4 => .ok ⟨0x00000010, .kor (w.extractLsb' 19 7) (w.extractLsb' 12 7) (w.extractLsb' 5 7)⟩
  | 5 => .ok ⟨0x00000010, .kxor (w.extractLsb' 19 7) (w.extractLsb' 12 7) (w.extractLsb' 5 7)⟩
  | 6 => .ok ⟨0x00000010, .kshl (w.extractLsb' 19 7) (w.extractLsb' 12 7) (w.extractLsb' 5 7)⟩
  | 7 => .ok ⟨0x00000010, .kshr (w.extractLsb' 19 7) (w.extractLsb' 12 7) (w.extractLsb' 5 7)⟩
  | 8 => .ok ⟨0x00000010, .ksar (w.extractLsb' 19 7) (w.extractLsb' 12 7) (w.extractLsb' 5 7)⟩
  | 9 => .ok ⟨0x00000010, .kmin (w.extractLsb' 19 7) (w.extractLsb' 12 7) (w.extractLsb' 5 7)⟩
  | 10 => .ok ⟨0x00000010, .kmax (w.extractLsb' 19 7) (w.extractLsb' 12 7) (w.extractLsb' 5 7)⟩
  | 11 => .ok ⟨0x00000010, .kminu (w.extractLsb' 19 7) (w.extractLsb' 12 7) (w.extractLsb' 5 7)⟩
  | 12 => .ok ⟨0x00000010, .kmaxu (w.extractLsb' 19 7) (w.extractLsb' 12 7) (w.extractLsb' 5 7)⟩
  | 13 => .ok ⟨0x00000010, .kcmpeq (w.extractLsb' 19 7) (w.extractLsb' 12 7) (w.extractLsb' 5 7)⟩
  | 14 => .ok ⟨0x00000010, .kcmplt (w.extractLsb' 19 7) (w.extractLsb' 12 7) (w.extractLsb' 5 7)⟩
  | _ => .ok ⟨0x00000010, .kcmpltu (w.extractLsb' 19 7) (w.extractLsb' 12 7) (w.extractLsb' 5 7)⟩

/-- Major 0x1A (R48). -/
def decode1A (w : Word) : Except Reason Candidate :=
  .ok ⟨0x00000000, .kaddi (w.extractLsb' 19 7) (w.extractLsb' 12 7) (w.extractLsb' 0 12)⟩

/-- Major 0x1B (R48). -/
def decode1B (w : Word) : Except Reason Candidate :=
  .ok ⟨0x00000000, .kmovi (w.extractLsb' 19 7) (w.extractLsb' 0 19)⟩

/-- Major 0x1C (R48). -/
def decode1C (w : Word) : Except Reason Candidate :=
  .ok ⟨0x00000000, .kmovhi (w.extractLsb' 19 7) (w.extractLsb' 0 19)⟩

/-- Major 0x1D (R48). -/
def decode1D (w : Word) : Except Reason Candidate :=
  match (w.extractLsb' 0 4).toNat with
  | 0 => .ok ⟨0x00000FF0, .movkv (w.extractLsb' 19 7) (w.extractLsb' 12 7)⟩
  | 1 => .ok ⟨0x00000FF0, .movvk (w.extractLsb' 19 7) (w.extractLsb' 12 7)⟩
  | 2 => .ok ⟨0x00000FF0, .mov (w.extractLsb' 19 7) (w.extractLsb' 12 7)⟩
  | 3 => .ok ⟨0x00000FF0, .kmov (w.extractLsb' 19 7) (w.extractLsb' 12 7)⟩
  | _ => .error .reservedFn

/-- Major 0x1E (R48). -/
def decode1E (w : Word) : Except Reason Candidate :=
  .ok ⟨0x03F80FF0, .recipe (w.extractLsb' 12 7) (w.extractLsb' 0 4)⟩

/-- Major 0x20 (R48). -/
def decode20 (w : Word) : Except Reason Candidate :=
  .ok ⟨0x00000000, .ld (w.extractLsb' 19 7) (w.extractLsb' 12 7) (w.extractLsb' 7 5) (w.extractLsb' 5 2) (w.extractLsb' 0 5)⟩

/-- Major 0x21 (R48). -/
def decode21 (w : Word) : Except Reason Candidate :=
  .ok ⟨0x00000000, .st (w.extractLsb' 19 7) (w.extractLsb' 12 7) (w.extractLsb' 7 5) (w.extractLsb' 5 2) (w.extractLsb' 0 5)⟩

/-- Major 0x22 (R48). -/
def decode22 (w : Word) : Except Reason Candidate :=
  .ok ⟨0x00000000, .lds (w.extractLsb' 19 7) (w.extractLsb' 12 7) (w.extractLsb' 7 5) (w.extractLsb' 5 2) (w.extractLsb' 0 5)⟩

/-- Major 0x23 (R48). -/
def decode23 (w : Word) : Except Reason Candidate :=
  .ok ⟨0x00000000, .sts (w.extractLsb' 19 7) (w.extractLsb' 12 7) (w.extractLsb' 7 5) (w.extractLsb' 5 2) (w.extractLsb' 0 5)⟩

/-- Major 0x24 (R48). -/
def decode24 (w : Word) : Except Reason Candidate :=
  .ok ⟨0x00000000, .kld (w.extractLsb' 19 7) (w.extractLsb' 12 7) (w.extractLsb' 7 5) (w.extractLsb' 5 2) (w.extractLsb' 0 5)⟩

/-- Major 0x25 (R48). -/
def decode25 (w : Word) : Except Reason Candidate :=
  .ok ⟨0x00000000, .kst (w.extractLsb' 19 7) (w.extractLsb' 12 7) (w.extractLsb' 7 5) (w.extractLsb' 5 2) (w.extractLsb' 0 5)⟩

/-- Major 0x26 (R48). -/
def decode26 (w : Word) : Except Reason Candidate :=
  match (w.extractLsb' 0 2).toNat with
  | 0 => .ok ⟨0x00000000, .amoAdd (w.extractLsb' 19 7) (w.extractLsb' 12 7) (w.extractLsb' 5 7) (w.extractLsb' 3 2) (w.extractLsb' 2 1)⟩
  | 1 => .ok ⟨0x00000000, .amoMin (w.extractLsb' 19 7) (w.extractLsb' 12 7) (w.extractLsb' 5 7) (w.extractLsb' 3 2) (w.extractLsb' 2 1)⟩
  | 2 => .ok ⟨0x00000000, .amoMax (w.extractLsb' 19 7) (w.extractLsb' 12 7) (w.extractLsb' 5 7) (w.extractLsb' 3 2) (w.extractLsb' 2 1)⟩
  | _ => .ok ⟨0x00000000, .amoXchg (w.extractLsb' 19 7) (w.extractLsb' 12 7) (w.extractLsb' 5 7) (w.extractLsb' 3 2) (w.extractLsb' 2 1)⟩

/-- Major 0x27 (R48). -/
def decode27 (w : Word) : Except Reason Candidate :=
  match (w.extractLsb' 0 2).toNat with
  | 0 => .ok ⟨0x00000000, .amoMinu (w.extractLsb' 19 7) (w.extractLsb' 12 7) (w.extractLsb' 5 7) (w.extractLsb' 3 2) (w.extractLsb' 2 1)⟩
  | 1 => .ok ⟨0x00000000, .amoMaxu (w.extractLsb' 19 7) (w.extractLsb' 12 7) (w.extractLsb' 5 7) (w.extractLsb' 3 2) (w.extractLsb' 2 1)⟩
  | 2 => .ok ⟨0x00000000, .amoAnd (w.extractLsb' 19 7) (w.extractLsb' 12 7) (w.extractLsb' 5 7) (w.extractLsb' 3 2) (w.extractLsb' 2 1)⟩
  | _ => .ok ⟨0x00000000, .amoOr (w.extractLsb' 19 7) (w.extractLsb' 12 7) (w.extractLsb' 5 7) (w.extractLsb' 3 2) (w.extractLsb' 2 1)⟩

/-- Major 0x28 (R48). -/
def decode28 (w : Word) : Except Reason Candidate :=
  match (w.extractLsb' 0 2).toNat with
  | 0 => .ok ⟨0x00000000, .amoXor (w.extractLsb' 19 7) (w.extractLsb' 12 7) (w.extractLsb' 5 7) (w.extractLsb' 3 2) (w.extractLsb' 2 1)⟩
  | 1 => .ok ⟨0x00000000, .amoIncw (w.extractLsb' 19 7) (w.extractLsb' 12 7) (w.extractLsb' 5 7) (w.extractLsb' 3 2) (w.extractLsb' 2 1)⟩
  | 2 => .ok ⟨0x00000000, .amoDecw (w.extractLsb' 19 7) (w.extractLsb' 12 7) (w.extractLsb' 5 7) (w.extractLsb' 3 2) (w.extractLsb' 2 1)⟩
  | _ => .ok ⟨0x00000000, .amoCas (w.extractLsb' 19 7) (w.extractLsb' 12 7) (w.extractLsb' 5 7) (w.extractLsb' 3 2) (w.extractLsb' 2 1)⟩

/-- Major 0x29 (R48). -/
def decode29 (w : Word) : Except Reason Candidate :=
  match (w.extractLsb' 0 2).toNat with
  | 0 => .ok ⟨0x00000000, .amoFadd (w.extractLsb' 19 7) (w.extractLsb' 12 7) (w.extractLsb' 5 7) (w.extractLsb' 3 2) (w.extractLsb' 2 1)⟩
  | 1 => .ok ⟨0x00000000, .amoFmin (w.extractLsb' 19 7) (w.extractLsb' 12 7) (w.extractLsb' 5 7) (w.extractLsb' 3 2) (w.extractLsb' 2 1)⟩
  | 2 => .ok ⟨0x00000000, .amoFmax (w.extractLsb' 19 7) (w.extractLsb' 12 7) (w.extractLsb' 5 7) (w.extractLsb' 3 2) (w.extractLsb' 2 1)⟩
  | _ => .ok ⟨0x00000000, .amoCasc (w.extractLsb' 19 7) (w.extractLsb' 12 7) (w.extractLsb' 5 7) (w.extractLsb' 3 2) (w.extractLsb' 2 1)⟩

/-- Major 0x2A (R48). -/
def decode2A (w : Word) : Except Reason Candidate :=
  match (w.extractLsb' 0 2).toNat with
  | 0 => .ok ⟨0x00000000, .qpush (w.extractLsb' 19 7) (w.extractLsb' 12 7) (w.extractLsb' 5 7) (w.extractLsb' 3 2) (w.extractLsb' 2 1)⟩
  | 1 => .ok ⟨0x00000FE0, .qpop (w.extractLsb' 19 7) (w.extractLsb' 12 7) (w.extractLsb' 3 2) (w.extractLsb' 2 1)⟩
  | 2 => .ok ⟨0x00000FE0, .qpeek (w.extractLsb' 19 7) (w.extractLsb' 12 7) (w.extractLsb' 3 2) (w.extractLsb' 2 1)⟩
  | _ => .error .reservedFn

/-- Major 0x2B (R48). -/
def decode2B (w : Word) : Except Reason Candidate :=
  match (w.extractLsb' 0 4).toNat with
  | 0 => .ok ⟨0x03FF0FF0, .fence (w.extractLsb' 14 2) (w.extractLsb' 12 2)⟩
  | 1 => .ok ⟨0x0007E010, .bara (w.extractLsb' 19 7) (w.extractLsb' 12 1) (w.extractLsb' 5 7)⟩
  | 2 => .ok ⟨0x0007E010, .barw (w.extractLsb' 19 7) (w.extractLsb' 12 1) (w.extractLsb' 5 7)⟩
  | 3 => .ok ⟨0x03FFFFF0, .cbar⟩
  | _ => .error .reservedFn

/-- Major 0x2C (R48). -/
def decode2C (w : Word) : Except Reason Candidate :=
  match (w.extractLsb' 0 4).toNat with
  | 0 => .ok ⟨0x00000FD0, .cpyin (w.extractLsb' 19 7) (w.extractLsb' 12 7) (w.extractLsb' 5 1)⟩
  | 1 => .ok ⟨0x00000FD0, .cpyout (w.extractLsb' 19 7) (w.extractLsb' 12 7) (w.extractLsb' 5 1)⟩
  | 2 => .ok ⟨0x00000F10, .cpygath (w.extractLsb' 19 7) (w.extractLsb' 12 7) (w.extractLsb' 7 1) (w.extractLsb' 5 2)⟩
  | 3 => .ok ⟨0x00000F10, .cpyscat (w.extractLsb' 19 7) (w.extractLsb' 12 7) (w.extractLsb' 7 1) (w.extractLsb' 5 2)⟩
  | 4 => .ok ⟨0x00000010, .cpyring (w.extractLsb' 19 7) (w.extractLsb' 12 7) (w.extractLsb' 5 7)⟩
  | 5 => .ok ⟨0x03F80FD0, .pref (w.extractLsb' 12 7) (w.extractLsb' 5 1)⟩
  | _ => .error .reservedFn

/-- Major 0x2D (R48). -/
def decode2D (w : Word) : Except Reason Candidate :=
  match (w.extractLsb' 0 4).toNat with
  | 0 => .ok ⟨0x03F80010, .rinit (w.extractLsb' 12 7) (w.extractLsb' 5 7)⟩
  | 1 => .ok ⟨0x0007F010, .racq (w.extractLsb' 19 7) (w.extractLsb' 5 7)⟩
  | 2 => .ok ⟨0x03F80010, .rpub (w.extractLsb' 12 7) (w.extractLsb' 5 7)⟩
  | 3 => .ok ⟨0x0007F010, .rget (w.extractLsb' 19 7) (w.extractLsb' 5 7)⟩
  | 4 => .ok ⟨0x03F80010, .rrel (w.extractLsb' 12 7) (w.extractLsb' 5 7)⟩
  | 5 => .ok ⟨0x0007F010, .rstat (w.extractLsb' 19 7) (w.extractLsb' 5 7)⟩
  | _ => .error .reservedFn

/-- Major 0x2E (R48). -/
def decode2E (w : Word) : Except Reason Candidate :=
  match (w.extractLsb' 0 4).toNat with
  | 0 => .ok ⟨0x00000FF0, .kvalloc (w.extractLsb' 19 7) (w.extractLsb' 12 7)⟩
  | 1 => .ok ⟨0x00000FF0, .kvfree (w.extractLsb' 19 7) (w.extractLsb' 12 7)⟩
  | 2 => .ok ⟨0x00000010, .kvshare (w.extractLsb' 19 7) (w.extractLsb' 12 7) (w.extractLsb' 5 7)⟩
  | 3 => .ok ⟨0x00000010, .kvld (w.extractLsb' 19 7) (w.extractLsb' 12 7) (w.extractLsb' 5 7)⟩
  | 4 => .ok ⟨0x00000010, .kvst (w.extractLsb' 19 7) (w.extractLsb' 12 7) (w.extractLsb' 5 7)⟩
  | 5 => .ok ⟨0x00000FF0, .kvmap (w.extractLsb' 19 7) (w.extractLsb' 12 7)⟩
  | 6 => .ok ⟨0x0007FFF0, .kvstat (w.extractLsb' 19 7)⟩
  | _ => .error .reservedFn

/-- Major 0x2F (R48). -/
def decode2F (w : Word) : Except Reason Candidate :=
  match (w.extractLsb' 0 4).toNat with
  | 0 => .ok ⟨0x00000FD0, .cbopen (w.extractLsb' 19 7) (w.extractLsb' 12 7) (w.extractLsb' 5 1)⟩
  | 1 => .ok ⟨0x00000FD0, .cbput (w.extractLsb' 19 7) (w.extractLsb' 12 7) (w.extractLsb' 5 1)⟩
  | 2 => .ok ⟨0x03F80FF0, .cbclose (w.extractLsb' 12 7)⟩
  | 3 => .ok ⟨0x00000FF0, .cbstat (w.extractLsb' 19 7) (w.extractLsb' 12 7)⟩
  | _ => .error .reservedFn

/-- Major 0x30 (R48). -/
def decode30 (w : Word) : Except Reason Candidate :=
  match (w.extractLsb' 0 4).toNat with
  | 0 => .ok ⟨0x00000010, .enqt (w.extractLsb' 19 7) (w.extractLsb' 12 7) (w.extractLsb' 5 7)⟩
  | 1 => .ok ⟨0x00000010, .enqtn (w.extractLsb' 19 7) (w.extractLsb' 12 7) (w.extractLsb' 5 7)⟩
  | _ => .error .reservedFn

/-- Major 0x31 (R48). -/
def decode31 (w : Word) : Except Reason Candidate :=
  match (w.extractLsb' 0 4).toNat with
  | 0 => .ok ⟨0x00000010, .trace (w.extractLsb' 19 7) (w.extractLsb' 12 7) (w.extractLsb' 5 7)⟩
  | 1 => .ok ⟨0x00000010, .traceq (w.extractLsb' 19 7) (w.extractLsb' 12 7) (w.extractLsb' 5 7)⟩
  | 2 => .ok ⟨0x0007F010, .rquery (w.extractLsb' 19 7) (w.extractLsb' 5 7)⟩
  | _ => .error .reservedFn

/-- Major 0x32 (R48). -/
def decode32 (w : Word) : Except Reason Candidate :=
  match (w.extractLsb' 0 4).toNat with
  | 0 => .ok ⟨0x02000000, .mma (w.extractLsb' 19 6) (w.extractLsb' 12 7) (w.extractLsb' 8 4) (w.extractLsb' 5 3) (w.extractLsb' 4 1)⟩
  | 1 => .ok ⟨0x02000000, .mman (w.extractLsb' 19 6) (w.extractLsb' 12 7) (w.extractLsb' 8 4) (w.extractLsb' 5 3) (w.extractLsb' 4 1)⟩
  | 2 => .ok ⟨0x02000000, .mmas (w.extractLsb' 19 6) (w.extractLsb' 12 7) (w.extractLsb' 8 4) (w.extractLsb' 5 3) (w.extractLsb' 4 1)⟩
  | _ => .error .reservedFn

/-- Major 0x33 (R48). -/
def decode33 (w : Word) : Except Reason Candidate :=
  match (w.extractLsb' 0 4).toNat with
  | 0 => .ok ⟨0x00000FF0, .gang (w.extractLsb' 19 7) (w.extractLsb' 12 7)⟩
  | 1 => .ok ⟨0x00040010, .accz (w.extractLsb' 19 7) (w.extractLsb' 13 5) (w.extractLsb' 5 8)⟩
  | 2 => .ok ⟨0x00000C10, .accld (w.extractLsb' 19 7) (w.extractLsb' 12 7) (w.extractLsb' 5 5)⟩
  | 3 => .ok ⟨0x00000FF0, .accst (w.extractLsb' 19 7) (w.extractLsb' 12 7)⟩
  | 4 => .ok ⟨0x00000010, .accrd (w.extractLsb' 19 7) (w.extractLsb' 12 7) (w.extractLsb' 11 1) (w.extractLsb' 10 1) (w.extractLsb' 5 5)⟩
  | 5 => .ok ⟨0x00000FF0, .strmopen (w.extractLsb' 19 7) (w.extractLsb' 12 7)⟩
  | 6 => .ok ⟨0x0007FFF0, .strmclose (w.extractLsb' 19 7)⟩
  | 7 => .ok ⟨0x00078FF0, .strmstat (w.extractLsb' 19 7) (w.extractLsb' 12 3)⟩
  | _ => .error .reservedFn

/-- Major 0x34 (R48). -/
def decode34 (w : Word) : Except Reason Candidate :=
  match (w.extractLsb' 0 4).toNat with
  | 0 => .ok ⟨0x0007FFF0, .brid (w.extractLsb' 19 7)⟩
  | 1 => .ok ⟨0x0007FFF0, .vstat (w.extractLsb' 19 7)⟩
  | 2 => .ok ⟨0x00000FF0, .commit (w.extractLsb' 19 7) (w.extractLsb' 12 7)⟩
  | 3 => .ok ⟨0x00000FF0, .squash (w.extractLsb' 19 7) (w.extractLsb' 12 7)⟩
  | 4 => .ok ⟨0x00000FF0, .flipq (w.extractLsb' 19 7) (w.extractLsb' 12 7)⟩
  | 5 => .ok ⟨0x03F80010, .vdrop (w.extractLsb' 12 7) (w.extractLsb' 5 7)⟩
  | _ => .error .reservedFn

/-- Major 0x35 (R48). -/
def decode35 (w : Word) : Except Reason Candidate :=
  match (w.extractLsb' 0 4).toNat with
  | 0 => .ok ⟨0x00000FF0, .getsr (w.extractLsb' 19 7) (w.extractLsb' 12 7)⟩
  | 1 => .ok ⟨0x00000FF0, .setsr (w.extractLsb' 19 7) (w.extractLsb' 12 7)⟩
  | 2 => .ok ⟨0x03F80F90, .cache (w.extractLsb' 12 7) (w.extractLsb' 5 2)⟩
  | 3 => .ok ⟨0x0007F010, .perf (w.extractLsb' 19 7) (w.extractLsb' 5 7)⟩
  | 4 => .ok ⟨0x0007FFF0, .clock (w.extractLsb' 19 7)⟩
  | 5 => .ok ⟨0x03F80FF0, .digest (w.extractLsb' 12 7)⟩
  | _ => .error .reservedFn

/-- Major 0x36 (R48). -/
def decode36 (w : Word) : Except Reason Candidate :=
  .ok ⟨0x03E00000, .loopi (w.extractLsb' 19 2) (w.extractLsb' 8 11) (w.extractLsb' 0 8)⟩

/-- Major 0x37 (R48). -/
def decode37 (w : Word) : Except Reason Candidate :=
  .ok ⟨0x03E00F00, .loop (w.extractLsb' 19 2) (w.extractLsb' 12 7) (w.extractLsb' 0 8)⟩

/-- Major 0x38 (R48). -/
def decode38 (w : Word) : Except Reason Candidate :=
  .ok ⟨0x03F80000, .br (w.extractLsb' 0 19)⟩

/-- Major 0x39 (R48). -/
def decode39 (w : Word) : Except Reason Candidate :=
  .ok ⟨0x00000000, .brz (w.extractLsb' 19 7) (w.extractLsb' 0 19)⟩

/-- Major 0x3A (R48). -/
def decode3A (w : Word) : Except Reason Candidate :=
  .ok ⟨0x00000000, .brnz (w.extractLsb' 19 7) (w.extractLsb' 0 19)⟩

/-- Major 0x3B (R48). -/
def decode3B (w : Word) : Except Reason Candidate :=
  .ok ⟨0x00000000, .kbrz (w.extractLsb' 19 7) (w.extractLsb' 0 19)⟩

/-- Major 0x3C (R48). -/
def decode3C (w : Word) : Except Reason Candidate :=
  .ok ⟨0x00000000, .kbrnz (w.extractLsb' 19 7) (w.extractLsb' 0 19)⟩

/-- Major 0x3D (R48). -/
def decode3D (w : Word) : Except Reason Candidate :=
  .ok ⟨0x00000000, .call (w.extractLsb' 19 7) (w.extractLsb' 0 19)⟩

/-- Major 0x3E (R48). -/
def decode3E (w : Word) : Except Reason Candidate :=
  match (w.extractLsb' 0 4).toNat with
  | 0 => .ok ⟨0x03FFFFF0, .ret⟩
  | 1 => .ok ⟨0x03F80FF0, .jmpv (w.extractLsb' 12 7)⟩
  | 2 => .ok ⟨0x03F80010, .callv (w.extractLsb' 12 7) (w.extractLsb' 5 7)⟩
  | 3 => .ok ⟨0x03FFFFF0, .exit⟩
  | 4 => .ok ⟨0x03F80FF0, .wslide (w.extractLsb' 12 7)⟩
  | 5 => .ok ⟨0x03FFFFF0, .yield⟩
  | 6 => .ok ⟨0x03FFFFF0, .nop⟩
  | 7 => .ok ⟨0x03F80FF0, .trap (w.extractLsb' 12 7)⟩
  | 8 => .ok ⟨0x03FFEFF0, .rft (w.extractLsb' 12 1)⟩
  | 9 => .ok ⟨0x00060FF0, .waitf (w.extractLsb' 19 7) (w.extractLsb' 12 5)⟩
  | 10 => .ok ⟨0x00078FF0, .waitc (w.extractLsb' 19 7) (w.extractLsb' 12 3)⟩
  | 11 => .ok ⟨0x00000FF0, .sleep (w.extractLsb' 12 14)⟩
  | _ => .error .reservedFn

/-- Major 0x3F (R48). -/
def decode3F (w : Word) : Except Reason Candidate :=
  .ok ⟨0x00000000, .runHeader (w.extractLsb' 21 5) (w.extractLsb' 9 12) (w.extractLsb' 5 4) (w.extractLsb' 1 4) (w.extractLsb' 0 1)⟩

/-- The opcode map of R48: steps 1 and 2 of R35. -/
def candidate (w : Word) : Except Reason Candidate :=
  match (w.extractLsb' 26 6).toNat with
  | 0x01 => decode01 w
  | 0x02 => decode02 w
  | 0x03 => decode03 w
  | 0x04 => decode04 w
  | 0x05 => decode05 w
  | 0x06 => decode06 w
  | 0x07 => decode07 w
  | 0x08 => decode08 w
  | 0x09 => decode09 w
  | 0x0A => decode0A w
  | 0x0B => decode0B w
  | 0x0C => decode0C w
  | 0x0D => decode0D w
  | 0x0E => decode0E w
  | 0x0F => decode0F w
  | 0x10 => decode10 w
  | 0x11 => decode11 w
  | 0x12 => decode12 w
  | 0x13 => decode13 w
  | 0x14 => decode14 w
  | 0x15 => decode15 w
  | 0x16 => decode16 w
  | 0x17 => decode17 w
  | 0x18 => decode18 w
  | 0x19 => decode19 w
  | 0x1A => decode1A w
  | 0x1B => decode1B w
  | 0x1C => decode1C w
  | 0x1D => decode1D w
  | 0x1E => decode1E w
  | 0x20 => decode20 w
  | 0x21 => decode21 w
  | 0x22 => decode22 w
  | 0x23 => decode23 w
  | 0x24 => decode24 w
  | 0x25 => decode25 w
  | 0x26 => decode26 w
  | 0x27 => decode27 w
  | 0x28 => decode28 w
  | 0x29 => decode29 w
  | 0x2A => decode2A w
  | 0x2B => decode2B w
  | 0x2C => decode2C w
  | 0x2D => decode2D w
  | 0x2E => decode2E w
  | 0x2F => decode2F w
  | 0x30 => decode30 w
  | 0x31 => decode31 w
  | 0x32 => decode32 w
  | 0x33 => decode33 w
  | 0x34 => decode34 w
  | 0x35 => decode35 w
  | 0x36 => decode36 w
  | 0x37 => decode37 w
  | 0x38 => decode38 w
  | 0x39 => decode39 w
  | 0x3A => decode3A w
  | 0x3B => decode3B w
  | 0x3C => decode3C w
  | 0x3D => decode3D w
  | 0x3E => decode3E w
  | 0x3F => decode3F w
  | _ => .error .reservedMajor

/-- The decoder: the first of R35's four steps that fails decides the reason. -/
def decode (w : Word) : Except Reason Instr :=
  match candidate w with
  | .error r => .error r
  | .ok c =>
    if w &&& c.reserved != 0 then .error .reservedField
    else if !c.instr.reservedOk then .error .reservedField
    else if !c.instr.boundsOk then .error .outOfRange
    else .ok c.instr

/-- The word of an instruction, field by field from bit 31 down (R36). A device step has no word; its encoding is the
illegal word 0. -/
def encode : Instr → Word
  | .add d a b kb => 0x1#6 ++ d ++ a ++ b ++ kb ++ 0x0#4
  | .sub d a b kb => 0x1#6 ++ d ++ a ++ b ++ kb ++ 0x1#4
  | .mul d a b kb => 0x1#6 ++ d ++ a ++ b ++ kb ++ 0x2#4
  | .mulh d a b kb => 0x1#6 ++ d ++ a ++ b ++ kb ++ 0x3#4
  | .mulhu d a b kb => 0x1#6 ++ d ++ a ++ b ++ kb ++ 0x4#4
  | .mad d a b kb => 0x1#6 ++ d ++ a ++ b ++ kb ++ 0x5#4
  | .min d a b kb => 0x1#6 ++ d ++ a ++ b ++ kb ++ 0x6#4
  | .max d a b kb => 0x1#6 ++ d ++ a ++ b ++ kb ++ 0x7#4
  | .minu d a b kb => 0x1#6 ++ d ++ a ++ b ++ kb ++ 0x8#4
  | .maxu d a b kb => 0x1#6 ++ d ++ a ++ b ++ kb ++ 0x9#4
  | .absd d a b kb => 0x1#6 ++ d ++ a ++ b ++ kb ++ 0xA#4
  | .adds d a b kb => 0x1#6 ++ d ++ a ++ b ++ kb ++ 0xB#4
  | .subs d a b kb => 0x1#6 ++ d ++ a ++ b ++ kb ++ 0xC#4
  | .avg d a b kb => 0x1#6 ++ d ++ a ++ b ++ kb ++ 0xD#4
  | .and d a b kb => 0x2#6 ++ d ++ a ++ b ++ kb ++ 0x0#4
  | .or d a b kb => 0x2#6 ++ d ++ a ++ b ++ kb ++ 0x1#4
  | .xor d a b kb => 0x2#6 ++ d ++ a ++ b ++ kb ++ 0x2#4
  | .andn d a b kb => 0x2#6 ++ d ++ a ++ b ++ kb ++ 0x3#4
  | .not d a => 0x2#6 ++ d ++ a ++ 0x4#12
  | .shl d a b kb => 0x2#6 ++ d ++ a ++ b ++ kb ++ 0x5#4
  | .shr d a b kb => 0x2#6 ++ d ++ a ++ b ++ kb ++ 0x6#4
  | .sar d a b kb => 0x2#6 ++ d ++ a ++ b ++ kb ++ 0x7#4
  | .rotl d a b kb => 0x2#6 ++ d ++ a ++ b ++ kb ++ 0x8#4
  | .popc d a => 0x2#6 ++ d ++ a ++ 0x9#12
  | .clz d a => 0x2#6 ++ d ++ a ++ 0xA#12
  | .brev d a => 0x2#6 ++ d ++ a ++ 0xB#12
  | .cmpEq d a b kb => 0x3#6 ++ d ++ a ++ b ++ kb ++ 0x0#4
  | .cmpNe d a b kb => 0x3#6 ++ d ++ a ++ b ++ kb ++ 0x1#4
  | .cmpLt d a b kb => 0x3#6 ++ d ++ a ++ b ++ kb ++ 0x2#4
  | .cmpLe d a b kb => 0x3#6 ++ d ++ a ++ b ++ kb ++ 0x3#4
  | .cmpLtu d a b kb => 0x3#6 ++ d ++ a ++ b ++ kb ++ 0x4#4
  | .cmpLeu d a b kb => 0x3#6 ++ d ++ a ++ b ++ kb ++ 0x5#4
  | .addi d a imm => 0x4#6 ++ d ++ a ++ imm
  | .andi d a imm => 0x5#6 ++ d ++ a ++ imm
  | .ori d a imm => 0x6#6 ++ d ++ a ++ imm
  | .xori d a imm => 0x7#6 ++ d ++ a ++ imm
  | .shli d a n => 0x8#6 ++ d ++ a ++ 0x0#7 ++ n
  | .shri d a n => 0x8#6 ++ d ++ a ++ 0x20#7 ++ n
  | .sari d a n => 0x8#6 ++ d ++ a ++ 0x40#7 ++ n
  | .rotli d a n => 0x8#6 ++ d ++ a ++ 0x60#7 ++ n
  | .cmpi d a c imm => 0x9#6 ++ d ++ a ++ c ++ imm
  | .movi d imm => 0xA#6 ++ d ++ imm
  | .movhi d imm => 0xB#6 ++ d ++ imm
  | .bfx d a p n => 0xC#6 ++ d ++ a ++ p ++ n
  | .bfi d a p n => 0xD#6 ++ d ++ a ++ p ++ n
  | .add64 d a b kb => 0xE#6 ++ d ++ a ++ b ++ kb ++ 0x0#4
  | .sub64 d a b kb => 0xE#6 ++ d ++ a ++ b ++ kb ++ 0x1#4
  | .lea1 d a b kb => 0xE#6 ++ d ++ a ++ b ++ kb ++ 0x2#4
  | .lea2 d a b kb => 0xE#6 ++ d ++ a ++ b ++ kb ++ 0x3#4
  | .lea4 d a b kb => 0xE#6 ++ d ++ a ++ b ++ kb ++ 0x4#4
  | .lea8 d a b kb => 0xE#6 ++ d ++ a ++ b ++ kb ++ 0x5#4
  | .sext d a => 0xE#6 ++ d ++ a ++ 0x6#12
  | .zext d a => 0xE#6 ++ d ++ a ++ 0x7#12
  | .sel d a b kb => 0xF#6 ++ d ++ a ++ b ++ kb ++ 0x0#4
  | .fadd d a b kb => 0x10#6 ++ d ++ a ++ b ++ kb ++ 0x0#4
  | .fsub d a b kb => 0x10#6 ++ d ++ a ++ b ++ kb ++ 0x1#4
  | .fmul d a b kb => 0x10#6 ++ d ++ a ++ b ++ kb ++ 0x2#4
  | .ffma d a b kb => 0x10#6 ++ d ++ a ++ b ++ kb ++ 0x3#4
  | .ffms d a b kb => 0x10#6 ++ d ++ a ++ b ++ kb ++ 0x4#4
  | .fmin d a b kb => 0x10#6 ++ d ++ a ++ b ++ kb ++ 0x5#4
  | .fmax d a b kb => 0x10#6 ++ d ++ a ++ b ++ kb ++ 0x6#4
  | .fminnum d a b kb => 0x10#6 ++ d ++ a ++ b ++ kb ++ 0x7#4
  | .fmaxnum d a b kb => 0x10#6 ++ d ++ a ++ b ++ kb ++ 0x8#4
  | .fabs d a => 0x10#6 ++ d ++ a ++ 0x9#12
  | .fneg d a => 0x10#6 ++ d ++ a ++ 0xA#12
  | .fcopysign d a b kb => 0x10#6 ++ d ++ a ++ b ++ kb ++ 0xB#4
  | .fclass d a => 0x10#6 ++ d ++ a ++ 0xC#12
  | .fcmpEq d a b kb => 0x11#6 ++ d ++ a ++ b ++ kb ++ 0x0#4
  | .fcmpNe d a b kb => 0x11#6 ++ d ++ a ++ b ++ kb ++ 0x1#4
  | .fcmpLt d a b kb => 0x11#6 ++ d ++ a ++ b ++ kb ++ 0x2#4
  | .fcmpLe d a b kb => 0x11#6 ++ d ++ a ++ b ++ kb ++ 0x3#4
  | .fcmpUnord d a b kb => 0x11#6 ++ d ++ a ++ b ++ kb ++ 0x4#4
  | .fcmpOrd d a b kb => 0x11#6 ++ d ++ a ++ b ++ kb ++ 0x5#4
  | .rcp d a => 0x12#6 ++ d ++ a ++ 0x0#12
  | .rsq d a => 0x12#6 ++ d ++ a ++ 0x1#12
  | .sqrt d a => 0x12#6 ++ d ++ a ++ 0x2#12
  | .exp2 d a => 0x12#6 ++ d ++ a ++ 0x3#12
  | .log2 d a => 0x12#6 ++ d ++ a ++ 0x4#12
  | .sin d a => 0x12#6 ++ d ++ a ++ 0x5#12
  | .cos d a => 0x12#6 ++ d ++ a ++ 0x6#12
  | .tanh d a => 0x12#6 ++ d ++ a ++ 0x7#12
  | .hadd2 d a b kb => 0x13#6 ++ d ++ a ++ b ++ kb ++ 0x0#4
  | .hsub2 d a b kb => 0x13#6 ++ d ++ a ++ b ++ kb ++ 0x1#4
  | .hmul2 d a b kb => 0x13#6 ++ d ++ a ++ b ++ kb ++ 0x2#4
  | .hfma2 d a b kb => 0x13#6 ++ d ++ a ++ b ++ kb ++ 0x3#4
  | .hmin2 d a b kb => 0x13#6 ++ d ++ a ++ b ++ kb ++ 0x4#4
  | .hmax2 d a b kb => 0x13#6 ++ d ++ a ++ b ++ kb ++ 0x5#4
  | .badd2 d a b kb => 0x13#6 ++ d ++ a ++ b ++ kb ++ 0x6#4
  | .bmul2 d a b kb => 0x13#6 ++ d ++ a ++ b ++ kb ++ 0x7#4
  | .bfma2 d a b kb => 0x13#6 ++ d ++ a ++ b ++ kb ++ 0x8#4
  | .cvt d a f r sv g => 0x14#6 ++ d ++ a ++ f ++ r ++ sv ++ g ++ 0x0#2
  | .tagset d a => 0x15#6 ++ d ++ a ++ 0x0#12
  | .tagget d a => 0x15#6 ++ d ++ a ++ 0x1#12
  | .scaleset d sv => 0x15#6 ++ d ++ 0x0#6 ++ sv ++ 0x2#5
  | .scaleadd d sv => 0x15#6 ++ d ++ 0x0#6 ++ sv ++ 0x3#5
  | .retag d f => 0x15#6 ++ d ++ 0x0#2 ++ f ++ 0x4#12
  | .shfl d a b => 0x16#6 ++ d ++ a ++ b ++ 0x0#5
  | .shflx d a m => 0x16#6 ++ d ++ a ++ m ++ 0x1#5
  | .shflup d a n => 0x16#6 ++ d ++ a ++ n ++ 0x2#5
  | .shfldn d a n => 0x16#6 ++ d ++ a ++ n ++ 0x3#5
  | .bcast d a l => 0x16#6 ++ d ++ a ++ l ++ 0x4#5
  | .vote d a m => 0x16#6 ++ d ++ a ++ m ++ 0x5#5
  | .redadd d a => 0x16#6 ++ d ++ a ++ 0x6#12
  | .redmin d a => 0x16#6 ++ d ++ a ++ 0x7#12
  | .redmax d a => 0x16#6 ++ d ++ a ++ 0x8#12
  | .redfadd d a => 0x16#6 ++ d ++ a ++ 0x9#12
  | .scanadd d a => 0x16#6 ++ d ++ a ++ 0xA#12
  | .first d a => 0x16#6 ++ d ++ a ++ 0xB#12
  | .expr d a b n => 0x17#6 ++ d ++ a ++ b ++ 0x0#1 ++ n
  | .rand d => 0x18#6 ++ d ++ 0x0#19
  | .randf d => 0x18#6 ++ d ++ 0x1#19
  | .kadd d a b => 0x19#6 ++ d ++ a ++ b ++ 0x0#5
  | .ksub d a b => 0x19#6 ++ d ++ a ++ b ++ 0x1#5
  | .kmul d a b => 0x19#6 ++ d ++ a ++ b ++ 0x2#5
  | .kand d a b => 0x19#6 ++ d ++ a ++ b ++ 0x3#5
  | .kor d a b => 0x19#6 ++ d ++ a ++ b ++ 0x4#5
  | .kxor d a b => 0x19#6 ++ d ++ a ++ b ++ 0x5#5
  | .kshl d a b => 0x19#6 ++ d ++ a ++ b ++ 0x6#5
  | .kshr d a b => 0x19#6 ++ d ++ a ++ b ++ 0x7#5
  | .ksar d a b => 0x19#6 ++ d ++ a ++ b ++ 0x8#5
  | .kmin d a b => 0x19#6 ++ d ++ a ++ b ++ 0x9#5
  | .kmax d a b => 0x19#6 ++ d ++ a ++ b ++ 0xA#5
  | .kminu d a b => 0x19#6 ++ d ++ a ++ b ++ 0xB#5
  | .kmaxu d a b => 0x19#6 ++ d ++ a ++ b ++ 0xC#5
  | .kcmpeq d a b => 0x19#6 ++ d ++ a ++ b ++ 0xD#5
  | .kcmplt d a b => 0x19#6 ++ d ++ a ++ b ++ 0xE#5
  | .kcmpltu d a b => 0x19#6 ++ d ++ a ++ b ++ 0xF#5
  | .kaddi d a imm => 0x1A#6 ++ d ++ a ++ imm
  | .kmovi d imm => 0x1B#6 ++ d ++ imm
  | .kmovhi d imm => 0x1C#6 ++ d ++ imm
  | .movkv d a => 0x1D#6 ++ d ++ a ++ 0x0#12
  | .movvk d a => 0x1D#6 ++ d ++ a ++ 0x1#12
  | .mov d a => 0x1D#6 ++ d ++ a ++ 0x2#12
  | .kmov d a => 0x1D#6 ++ d ++ a ++ 0x3#12
  | .recipe a n => 0x1E#6 ++ 0x0#7 ++ a ++ 0x0#8 ++ n
  | .ld d a f ord c => 0x20#6 ++ d ++ a ++ f ++ ord ++ c
  | .st d a f ord c => 0x21#6 ++ d ++ a ++ f ++ ord ++ c
  | .lds d a f n c => 0x22#6 ++ d ++ a ++ f ++ n ++ c
  | .sts d a f n c => 0x23#6 ++ d ++ a ++ f ++ n ++ c
  | .kld d a f ord c => 0x24#6 ++ d ++ a ++ f ++ ord ++ c
  | .kst d a f ord c => 0x25#6 ++ d ++ a ++ f ++ ord ++ c
  | .amoAdd d a b sv ord => 0x26#6 ++ d ++ a ++ b ++ sv ++ ord ++ 0x0#2
  | .amoMin d a b sv ord => 0x26#6 ++ d ++ a ++ b ++ sv ++ ord ++ 0x1#2
  | .amoMax d a b sv ord => 0x26#6 ++ d ++ a ++ b ++ sv ++ ord ++ 0x2#2
  | .amoXchg d a b sv ord => 0x26#6 ++ d ++ a ++ b ++ sv ++ ord ++ 0x3#2
  | .amoMinu d a b sv ord => 0x27#6 ++ d ++ a ++ b ++ sv ++ ord ++ 0x0#2
  | .amoMaxu d a b sv ord => 0x27#6 ++ d ++ a ++ b ++ sv ++ ord ++ 0x1#2
  | .amoAnd d a b sv ord => 0x27#6 ++ d ++ a ++ b ++ sv ++ ord ++ 0x2#2
  | .amoOr d a b sv ord => 0x27#6 ++ d ++ a ++ b ++ sv ++ ord ++ 0x3#2
  | .amoXor d a b sv ord => 0x28#6 ++ d ++ a ++ b ++ sv ++ ord ++ 0x0#2
  | .amoIncw d a b sv ord => 0x28#6 ++ d ++ a ++ b ++ sv ++ ord ++ 0x1#2
  | .amoDecw d a b sv ord => 0x28#6 ++ d ++ a ++ b ++ sv ++ ord ++ 0x2#2
  | .amoCas d a b sv ord => 0x28#6 ++ d ++ a ++ b ++ sv ++ ord ++ 0x3#2
  | .amoFadd d a b sv ord => 0x29#6 ++ d ++ a ++ b ++ sv ++ ord ++ 0x0#2
  | .amoFmin d a b sv ord => 0x29#6 ++ d ++ a ++ b ++ sv ++ ord ++ 0x1#2
  | .amoFmax d a b sv ord => 0x29#6 ++ d ++ a ++ b ++ sv ++ ord ++ 0x2#2
  | .amoCasc d a b sv ord => 0x29#6 ++ d ++ a ++ b ++ sv ++ ord ++ 0x3#2
  | .qpush d a b sv ord => 0x2A#6 ++ d ++ a ++ b ++ sv ++ ord ++ 0x0#2
  | .qpop d a sv ord => 0x2A#6 ++ d ++ a ++ 0x0#7 ++ sv ++ ord ++ 0x1#2
  | .qpeek d a sv ord => 0x2A#6 ++ d ++ a ++ 0x0#7 ++ sv ++ ord ++ 0x2#2
  | .fence sv kb => 0x2B#6 ++ 0x0#10 ++ sv ++ kb ++ 0x0#12
  | .bara n c b => 0x2B#6 ++ n ++ 0x0#6 ++ c ++ b ++ 0x1#5
  | .barw n c b => 0x2B#6 ++ n ++ 0x0#6 ++ c ++ b ++ 0x2#5
  | .cbar => 0x2B#6 ++ 0x3#26
  | .cpyin d a t => 0x2C#6 ++ d ++ a ++ 0x0#6 ++ t ++ 0x0#5
  | .cpyout d a t => 0x2C#6 ++ d ++ a ++ 0x0#6 ++ t ++ 0x1#5
  | .cpygath d a t z => 0x2C#6 ++ d ++ a ++ 0x0#4 ++ t ++ z ++ 0x2#5
  | .cpyscat d a t z => 0x2C#6 ++ d ++ a ++ 0x0#4 ++ t ++ z ++ 0x3#5
  | .cpyring d a r => 0x2C#6 ++ d ++ a ++ r ++ 0x4#5
  | .pref a l => 0x2C#6 ++ 0x0#7 ++ a ++ 0x0#6 ++ l ++ 0x5#5
  | .rinit a r => 0x2D#6 ++ 0x0#7 ++ a ++ r ++ 0x0#5
  | .racq d r => 0x2D#6 ++ d ++ 0x0#7 ++ r ++ 0x1#5
  | .rpub a r => 0x2D#6 ++ 0x0#7 ++ a ++ r ++ 0x2#5
  | .rget d r => 0x2D#6 ++ d ++ 0x0#7 ++ r ++ 0x3#5
  | .rrel a r => 0x2D#6 ++ 0x0#7 ++ a ++ r ++ 0x4#5
  | .rstat d r => 0x2D#6 ++ d ++ 0x0#7 ++ r ++ 0x5#5
  | .kvalloc d a => 0x2E#6 ++ d ++ a ++ 0x0#12
  | .kvfree d a => 0x2E#6 ++ d ++ a ++ 0x1#12
  | .kvshare d a b => 0x2E#6 ++ d ++ a ++ b ++ 0x2#5
  | .kvld d a b => 0x2E#6 ++ d ++ a ++ b ++ 0x3#5
  | .kvst d a b => 0x2E#6 ++ d ++ a ++ b ++ 0x4#5
  | .kvmap d a => 0x2E#6 ++ d ++ a ++ 0x5#12
  | .kvstat d => 0x2E#6 ++ d ++ 0x6#19
  | .cbopen d a w => 0x2F#6 ++ d ++ a ++ 0x0#6 ++ w ++ 0x0#5
  | .cbput d a sv => 0x2F#6 ++ d ++ a ++ 0x0#6 ++ sv ++ 0x1#5
  | .cbclose a => 0x2F#6 ++ 0x0#7 ++ a ++ 0x2#12
  | .cbstat d a => 0x2F#6 ++ d ++ a ++ 0x3#12
  | .enqt d a b => 0x30#6 ++ d ++ a ++ b ++ 0x0#5
  | .enqtn d a b => 0x30#6 ++ d ++ a ++ b ++ 0x1#5
  | .trace d a b => 0x31#6 ++ d ++ a ++ b ++ 0x0#5
  | .traceq d a b => 0x31#6 ++ d ++ a ++ b ++ 0x1#5
  | .rquery d imm => 0x31#6 ++ d ++ 0x0#7 ++ imm ++ 0x2#5
  | .mma d a g sv r => 0x32#6 ++ 0x0#1 ++ d ++ a ++ g ++ sv ++ r ++ 0x0#4
  | .mman d a g sv r => 0x32#6 ++ 0x0#1 ++ d ++ a ++ g ++ sv ++ r ++ 0x1#4
  | .mmas d a g sv r => 0x32#6 ++ 0x0#1 ++ d ++ a ++ g ++ sv ++ r ++ 0x2#4
  | .gang d a => 0x33#6 ++ d ++ a ++ 0x0#12
  | .accz d f sv => 0x33#6 ++ d ++ 0x0#1 ++ f ++ sv ++ 0x1#5
  | .accld d a f => 0x33#6 ++ d ++ a ++ 0x0#2 ++ f ++ 0x2#5
  | .accst d a => 0x33#6 ++ d ++ a ++ 0x3#12
  | .accrd d a t sv c => 0x33#6 ++ d ++ a ++ t ++ sv ++ c ++ 0x4#5
  | .strmopen d a => 0x33#6 ++ d ++ a ++ 0x5#12
  | .strmclose d => 0x33#6 ++ d ++ 0x6#19
  | .strmstat d sv => 0x33#6 ++ d ++ 0x0#4 ++ sv ++ 0x7#12
  | .brid d => 0x34#6 ++ d ++ 0x0#19
  | .vstat d => 0x34#6 ++ d ++ 0x1#19
  | .commit d a => 0x34#6 ++ d ++ a ++ 0x2#12
  | .squash d a => 0x34#6 ++ d ++ a ++ 0x3#12
  | .flipq d a => 0x34#6 ++ d ++ a ++ 0x4#12
  | .vdrop a b => 0x34#6 ++ 0x0#7 ++ a ++ b ++ 0x5#5
  | .getsr d a => 0x35#6 ++ d ++ a ++ 0x0#12
  | .setsr d a => 0x35#6 ++ d ++ a ++ 0x1#12
  | .cache a ord => 0x35#6 ++ 0x0#7 ++ a ++ 0x0#5 ++ ord ++ 0x2#5
  | .perf d imm => 0x35#6 ++ d ++ 0x0#7 ++ imm ++ 0x3#5
  | .clock d => 0x35#6 ++ d ++ 0x4#19
  | .digest a => 0x35#6 ++ 0x0#7 ++ a ++ 0x5#12
  | .loopi c n l => 0x36#6 ++ 0x0#5 ++ c ++ n ++ l
  | .loop c a l => 0x37#6 ++ 0x0#5 ++ c ++ a ++ 0x0#4 ++ l
  | .br off => 0x38#6 ++ 0x0#7 ++ off
  | .brz a off => 0x39#6 ++ a ++ off
  | .brnz a off => 0x3A#6 ++ a ++ off
  | .kbrz a off => 0x3B#6 ++ a ++ off
  | .kbrnz a off => 0x3C#6 ++ a ++ off
  | .call n off => 0x3D#6 ++ n ++ off
  | .ret => 0x3E#6 ++ 0x0#26
  | .jmpv a => 0x3E#6 ++ 0x0#7 ++ a ++ 0x1#12
  | .callv a n => 0x3E#6 ++ 0x0#7 ++ a ++ n ++ 0x2#5
  | .exit => 0x3E#6 ++ 0x3#26
  | .wslide sv => 0x3E#6 ++ 0x0#7 ++ sv ++ 0x4#12
  | .yield => 0x3E#6 ++ 0x5#26
  | .nop => 0x3E#6 ++ 0x6#26
  | .trap n => 0x3E#6 ++ 0x0#7 ++ n ++ 0x7#12
  | .rft c => 0x3E#6 ++ 0x0#13 ++ c ++ 0x8#12
  | .waitf m m2 => 0x3E#6 ++ m ++ 0x0#2 ++ m2 ++ 0x9#12
  | .waitc n c => 0x3E#6 ++ n ++ 0x0#4 ++ c ++ 0xA#12
  | .sleep n => 0x3E#6 ++ n ++ 0xB#12
  | .runHeader len wait sf1 sf2 opn => 0x3F#6 ++ len ++ wait ++ sf1 ++ sf2 ++ opn
  | _ => 0

/-- Whether the constructor is one of R48's word forms. -/
def Instr.hasWord : Instr → Bool
  | .deviceReset => false
  | .bootVerify _ _ _ _ _ _ => false
  | .queueEnable _ => false
  | .queueDisable _ => false
  | .writeIndexUpdate _ => false
  | .nopPacket _ => false
  | .launch _ => false
  | .launchAccept _ => false
  | .fencePacket _ => false
  | .fenceEvaluation _ => false
  | .signalSet _ => false
  | .signalAdd _ => false
  | .signalDec _ => false
  | .fork _ => false
  | .forkProceed _ => false
  | .commitPacket _ => false
  | .squashPacket _ => false
  | .flip _ => false
  | .flipQueueAdmit _ => false
  | .copy _ => false
  | .copyFill _ => false
  | .copyStop _ => false
  | .copyRetire _ => false
  | .timestamp _ => false
  | .deadline _ => false
  | .deadlineFire _ => false
  | .serialWaitEnd _ => false
  | .teamDispatch _ => false
  | .clusterGroupDispatch _ => false
  | .jigFormWave _ _ => false
  | .jigTimeout _ _ => false
  | .jigDetPartialWave _ _ => false
  | .taskWavePlace _ => false
  | .continuationToPool _ => false
  | .traceqTaskHandoff _ => false
  | .cbReleaseTaskHandoff _ => false
  | .launchRetire _ => false
  | .runGrant _ => false
  | .runRaise _ => false
  | .sleepEnd _ => false
  | .loadReturn _ _ => false
  | .variableLatencyComplete _ _ => false
  | .storePerform _ _ => false
  | .atomicPerform _ _ => false
  | .queueOpPerform _ _ => false
  | .cascPerform _ _ _ => false
  | .cascRefusal _ _ _ => false
  | .blockStoreNameOpPerform _ _ => false
  | .copyEngineComplete _ => false
  | .copyEngineFault _ => false
  | .cpyringSlotAcquire _ => false
  | .cpyringSlotPublish _ => false
  | .copyDrainTimeout _ => false
  | .rayEnd _ => false
  | .jointOpReserve _ _ => false
  | .matrixGrant _ => false
  | .matrixEntryRaise _ => false
  | .matrixPassComplete _ => false
  | .accOpComplete _ => false
  | .gangWatchdog _ _ => false
  | .cbMoveComplete _ => false
  | .cbDeadline _ => false
  | .cbopenWaitGrant _ => false
  | .enqtAccept _ => false
  | .commitQuiescent _ _ => false
  | .scrub _ => false
  | .waveRetire _ => false
  | .trapEntry _ => false
  | .unitSave _ => false
  | .unitRestore _ => false
  | .pageWalk _ _ => false
  | .faultRecordPost _ => false
  | .faultReplay _ => false
  | .faultCancel _ => false
  | .tlbinvRange _ => false
  | .tlbinvDomain _ => false
  | .tlbinvAll _ => false
  | .tlbinvDone => false
  | .lineMove _ _ => false
  | .checkRetry _ _ _ _ _ => false
  | .hostMemRead _ _ _ => false
  | .hostMemWrite _ _ _ => false
  | .peerAccess _ _ _ _ => false
  | .headEnable _ => false
  | .headDisable _ => false
  | .vblank _ => false
  | .powerArbiterTick _ _ _ => false
  | .columnOverheat _ => false
  | .columnCool _ => false
  | .columnIdle _ => false
  | .columnOff _ => false
  | .columnWake _ => false
  | .d3hotEntry => false
  | .d0Return => false
  | .d3cold => false
  | .measurementExtend _ => false
  | .extendDone => false
  | .attestationRequest _ => false
  | .attestationDone => false
  | .preemptSuspend _ => false
  | .preemptResume _ => false
  | .qtbaseWrite _ => false
  | .domtbaseWrite _ => false
  | .sramcfgWrite _ => false
  | .kvcfgWrite _ => false
  | .ctxPoolWrite _ _ => false
  | .partcfgWrite _ => false
  | .partqWrite _ _ => false
  | .peermapWrite _ _ => false
  | .headConfigWrite _ _ _ => false
  | .powerLimitWrite _ => false
  | .lostClear => false
  | .registerWrite _ _ => false
  | .inletPowerReport _ => false
  | _ => true

/-- The instruction the decoder reads from a word given as the opcode table numbers its bits. -/
def decodeTableWord (nbits w : Nat) : Option Instr :=
  if nbits = 32 then
    match decode (BitVec.ofNat 32 w) with
    | .ok i => some i
    | .error _ => none
  else none

end Sys2Proof
end

