-- ==== Sys2Proof/Machine/Integer.lean ====
section
/-!
DEFINITION. The integer, bit, comparison, immediate, 64-bit and selection instructions (R217 to R222).
-/

namespace Sys2Proof.Machine

/-- Operand b of a lane: v[b], or the low half of k[b] (R41). -/
def Ctx.operandB (c : Ctx) (kb : BitVec 1) (b : BitVec 7) (l : Nat) : Word :=
  if kb = 1 then (c.w.kreg b.toNat).setWidth 32 else c.w.reg l b.toNat

/-- The vector fields that operand b names (R41). -/
def bFields (kb : BitVec 1) (b : BitVec 7) : List Nat := if kb = 1 then [] else [b.toNat]

/-- The k registers that operand b names (R41). -/
def bKregs (kb : BitVec 1) (b : BitVec 7) : List Nat := if kb = 1 then [b.toNat] else []

/-- The operand format (R61): that of the first data operand that is not RAW, or the default. -/
def Wave.operandFmt (w : Wave) (l : Nat) (fields : List Nat) (dflt : Nat) : Nat :=
  ((fields.map (w.fmtAt l)).find? (fun f => f != 0)).getD dflt

/-- A vector instruction of two sources whose result is found lane by lane: `acc` are the accepted formats, `dSrc` makes d
a third data operand, and `f` gets the lane, x, y and d and answers the element and the tag. -/
def Ctx.binary (c : Ctx) (acc : Option (List Nat)) (bData dSrc : Bool) (d a b : BitVec 7) (kb : BitVec 1)
    (f : Nat → Word → Word → Word → Word × BitVec 16) : Except Raise State :=
  let dn := d.toNat
  let srcs := [a.toNat] ++ bFields kb b ++ (if dSrc then [dn] else [])
  let datas := [a.toNat] ++ (if bData then bFields kb b else []) ++ (if dSrc then [dn] else [])
  c.vector
    { regs := dn :: srcs
      data := match acc with
        | none => []
        | some fs => datas.map (fun r => (r, fs))
      reads := srcs, kreads := bKregs kb b
      writes := c.act.map (fun l =>
        let r := f l (c.w.reg l a.toNat) (c.operandB kb b l) (c.w.reg l dn)
        c.w.put l dn r.1 r.2) } 0 id

/-- Integer arithmetic of major 0x01 (R217): I32 and UI32, the result in the operand format; `f` gets whether the format is
signed, x, y and d. -/
def Ctx.arith (c : Ctx) (dSrc : Bool) (d a b : BitVec 7) (kb : BitVec 1) (f : Bool → Word → Word → Word → Word) :
    Except Raise State :=
  c.binary (some [2, 3]) true dSrc d a b kb (fun l x y z =>
    let fmt := c.w.operandFmt l ([a.toNat] ++ bFields kb b ++ (if dSrc then [d.toNat] else [])) 2
    (f (fmt == 2) x y z, mkTag fmt 0))

/-- Bit operations of major 0x02 (R218): any tag, the result takes operand a's. -/
def Ctx.bitwise (c : Ctx) (d a b : BitVec 7) (kb : BitVec 1) (f : Word → Word → Word) : Except Raise State :=
  c.binary none false false d a b kb (fun l x y _ => (f x y, c.w.tagAt l a.toNat))

/-- Unary bit operations (R218). -/
def Ctx.unaryBits (c : Ctx) (d a : BitVec 7) (f : Word → Word) : Except Raise State :=
  c.vector
    { regs := [d.toNat, a.toNat], reads := [a.toNat]
      writes := c.act.map (fun l => c.w.put l d.toNat (f (c.w.reg l a.toNat)) (c.w.tagAt l a.toNat)) } 0 id

/-- A condition as 1 or 0. -/
def boolWord (b : Bool) : Word := if b then 1 else 0

/-- Comparisons (R219): 1 or 0 with tag I32. -/
def Ctx.compare (c : Ctx) (d a b : BitVec 7) (kb : BitVec 1) (f : Word → Word → Bool) : Except Raise State :=
  c.binary (some [2, 3]) true false d a b kb (fun _ x y _ => (boolWord (f x y), mkTag 2 0))

/-- Immediate forms that accept any tag (R220). -/
def Ctx.immAny (c : Ctx) (d a : BitVec 7) (f : Word → Word) : Except Raise State := c.unaryBits d a f

/-- An integer read by the signedness of its format (R201). -/
def asInt (signed : Bool) (x : Word) : Int := if signed then x.toInt else x.toNat

/-- A sum or difference clamped to its format's range (R217). -/
def clampInt (signed : Bool) (i : Int) : Word :=
  if signed then BitVec.ofInt 32 (max (-2147483648) (min 2147483647 i))
  else BitVec.ofInt 32 (max 0 (min 4294967295 i))

/-- The number of set bits. -/
def popCount (x : Word) : Nat := ((List.range 32).filter (fun i => x.getLsbD i)).length

/-- Bit i moved to bit 31 − i. -/
def reverseBits (x : Word) : Word := (List.range 32).foldl (fun a i =>
  if x.getLsbD i then a ||| (1#32 <<< (31 - i)) else a) 0

/-- Shifts by a count that may reach the width (R218). -/
def shlW (x y : Word) : Word := if y.toNat ≥ 32 then 0 else x <<< y.toNat

/-- Logical shift right (R218). -/
def shrW (x y : Word) : Word := if y.toNat ≥ 32 then 0 else x >>> y.toNat

/-- Arithmetic shift right (R218). -/
def sarW (x y : Word) : Word := x.sshiftRight (Nat.min y.toNat 32)

/-- Rotation left by the count modulo 32 (R218). -/
def rotlW (x y : Word) : Word := x.rotateLeft (y.toNat % 32)

/-- ADD (R217): x + y. -/
def execAdd (d a b : BitVec 7) (kb : BitVec 1) (s : State) : Host.Outcome State Fault Refusal :=
  s.issue (fun c => c.arith false d a b kb (fun _ x y _ => x + y))

/-- SUB (R217): x − y. -/
def execSub (d a b : BitVec 7) (kb : BitVec 1) (s : State) : Host.Outcome State Fault Refusal :=
  s.issue (fun c => c.arith false d a b kb (fun _ x y _ => x - y))

/-- MUL (R217): x × y. -/
def execMul (d a b : BitVec 7) (kb : BitVec 1) (s : State) : Host.Outcome State Fault Refusal :=
  s.issue (fun c => c.arith false d a b kb (fun _ x y _ => x * y))

/-- MULH (R217): the high half of the signed product. -/
def execMulh (d a b : BitVec 7) (kb : BitVec 1) (s : State) : Host.Outcome State Fault Refusal :=
  s.issue (fun c => c.arith false d a b kb (fun _ x y _ => BitVec.ofInt 32 (x.toInt * y.toInt / 4294967296)))

/-- MULHU (R217): the high half of the unsigned product. -/
def execMulhu (d a b : BitVec 7) (kb : BitVec 1) (s : State) : Host.Outcome State Fault Refusal :=
  s.issue (fun c => c.arith false d a b kb (fun _ x y _ => BitVec.ofNat 32 (x.toNat * y.toNat / 4294967296)))

/-- MAD (R217): x × y + d, d a data operand. -/
def execMad (d a b : BitVec 7) (kb : BitVec 1) (s : State) : Host.Outcome State Fault Refusal :=
  s.issue (fun c => c.arith true d a b kb (fun _ x y z => x * y + z))

/-- MIN (R217): signed minimum. -/
def execMin (d a b : BitVec 7) (kb : BitVec 1) (s : State) : Host.Outcome State Fault Refusal :=
  s.issue (fun c => c.arith false d a b kb (fun _ x y _ => if x.toInt ≤ y.toInt then x else y))

/-- MAX (R217): signed maximum. -/
def execMax (d a b : BitVec 7) (kb : BitVec 1) (s : State) : Host.Outcome State Fault Refusal :=
  s.issue (fun c => c.arith false d a b kb (fun _ x y _ => if x.toInt ≤ y.toInt then y else x))

/-- MINU (R217): unsigned minimum. -/
def execMinu (d a b : BitVec 7) (kb : BitVec 1) (s : State) : Host.Outcome State Fault Refusal :=
  s.issue (fun c => c.arith false d a b kb (fun _ x y _ => if x.toNat ≤ y.toNat then x else y))

/-- MAXU (R217): unsigned maximum. -/
def execMaxu (d a b : BitVec 7) (kb : BitVec 1) (s : State) : Host.Outcome State Fault Refusal :=
  s.issue (fun c => c.arith false d a b kb (fun _ x y _ => if x.toNat ≤ y.toNat then y else x))

/-- ABSD (R217): the absolute exact difference, signed by format. -/
def execAbsd (d a b : BitVec 7) (kb : BitVec 1) (s : State) : Host.Outcome State Fault Refusal :=
  s.issue (fun c => c.arith false d a b kb (fun g x y _ => BitVec.ofNat 32 (asInt g x - asInt g y).natAbs))

/-- ADDS (R217): the exact sum, clamped. -/
def execAdds (d a b : BitVec 7) (kb : BitVec 1) (s : State) : Host.Outcome State Fault Refusal :=
  s.issue (fun c => c.arith false d a b kb (fun g x y _ => clampInt g (asInt g x + asInt g y)))

/-- SUBS (R217): the exact difference, clamped. -/
def execSubs (d a b : BitVec 7) (kb : BitVec 1) (s : State) : Host.Outcome State Fault Refusal :=
  s.issue (fun c => c.arith false d a b kb (fun g x y _ => clampInt g (asInt g x - asInt g y)))

/-- AVG (R217): floor((x + y + 1) ÷ 2) of the exact values. -/
def execAvg (d a b : BitVec 7) (kb : BitVec 1) (s : State) : Host.Outcome State Fault Refusal :=
  s.issue (fun c => c.arith false d a b kb (fun g x y _ => BitVec.ofInt 32 ((asInt g x + asInt g y + 1) / 2)))

/-- AND (R218): x AND y. -/
def execAnd (d a b : BitVec 7) (kb : BitVec 1) (s : State) : Host.Outcome State Fault Refusal :=
  s.issue (fun c => c.bitwise d a b kb (fun x y => x &&& y))

/-- OR (R218): x OR y. -/
def execOr (d a b : BitVec 7) (kb : BitVec 1) (s : State) : Host.Outcome State Fault Refusal :=
  s.issue (fun c => c.bitwise d a b kb (fun x y => x ||| y))

/-- XOR (R218): x XOR y. -/
def execXor (d a b : BitVec 7) (kb : BitVec 1) (s : State) : Host.Outcome State Fault Refusal :=
  s.issue (fun c => c.bitwise d a b kb (fun x y => x ^^^ y))

/-- ANDN (R218): x AND NOT y. -/
def execAndn (d a b : BitVec 7) (kb : BitVec 1) (s : State) : Host.Outcome State Fault Refusal :=
  s.issue (fun c => c.bitwise d a b kb (fun x y => x &&& ~~~y))

/-- SHL (R218): x << c, 0 from 32 on. -/
def execShl (d a b : BitVec 7) (kb : BitVec 1) (s : State) : Host.Outcome State Fault Refusal :=
  s.issue (fun c => c.bitwise d a b kb shlW)

/-- SHR (R218): logical x >> c, 0 from 32 on. -/
def execShr (d a b : BitVec 7) (kb : BitVec 1) (s : State) : Host.Outcome State Fault Refusal :=
  s.issue (fun c => c.bitwise d a b kb shrW)

/-- SAR (R218): arithmetic x >> c. -/
def execSar (d a b : BitVec 7) (kb : BitVec 1) (s : State) : Host.Outcome State Fault Refusal :=
  s.issue (fun c => c.bitwise d a b kb sarW)

/-- ROTL (R218): x rotated left by c mod 32. -/
def execRotl (d a b : BitVec 7) (kb : BitVec 1) (s : State) : Host.Outcome State Fault Refusal :=
  s.issue (fun c => c.bitwise d a b kb rotlW)

/-- NOT (R218): NOT x. -/
def execNot (d a : BitVec 7) (s : State) : Host.Outcome State Fault Refusal :=
  s.issue (fun c => c.unaryBits d a (fun x => ~~~x))

/-- POPC (R218): the number of set bits. -/
def execPopc (d a : BitVec 7) (s : State) : Host.Outcome State Fault Refusal :=
  s.issue (fun c => c.unaryBits d a (fun x => BitVec.ofNat 32 (popCount x)))

/-- CLZ (R218): leading zeros, 32 for 0. -/
def execClz (d a : BitVec 7) (s : State) : Host.Outcome State Fault Refusal :=
  s.issue (fun c => c.unaryBits d a (fun x => BitVec.ofNat 32 (32 - bitLen x.toNat)))

/-- BREV (R218): bit i moved to bit 31 − i. -/
def execBrev (d a : BitVec 7) (s : State) : Host.Outcome State Fault Refusal :=
  s.issue (fun c => c.unaryBits d a reverseBits)

/-- CMP.EQ (R219). -/
def execCmpEq (d a b : BitVec 7) (kb : BitVec 1) (s : State) : Host.Outcome State Fault Refusal :=
  s.issue (fun c => c.compare d a b kb (fun x y => x == y))

/-- CMP.NE (R219). -/
def execCmpNe (d a b : BitVec 7) (kb : BitVec 1) (s : State) : Host.Outcome State Fault Refusal :=
  s.issue (fun c => c.compare d a b kb (fun x y => x != y))

/-- CMP.LT (R219). -/
def execCmpLt (d a b : BitVec 7) (kb : BitVec 1) (s : State) : Host.Outcome State Fault Refusal :=
  s.issue (fun c => c.compare d a b kb (fun x y => x.slt y))

/-- CMP.LE (R219). -/
def execCmpLe (d a b : BitVec 7) (kb : BitVec 1) (s : State) : Host.Outcome State Fault Refusal :=
  s.issue (fun c => c.compare d a b kb (fun x y => x.sle y))

/-- CMP.LTU (R219). -/
def execCmpLtu (d a b : BitVec 7) (kb : BitVec 1) (s : State) : Host.Outcome State Fault Refusal :=
  s.issue (fun c => c.compare d a b kb (fun x y => x.ult y))

/-- CMP.LEU (R219). -/
def execCmpLeu (d a b : BitVec 7) (kb : BitVec 1) (s : State) : Host.Outcome State Fault Refusal :=
  s.issue (fun c => c.compare d a b kb (fun x y => x.ule y))

/-- ADDI (R220): x + sext(imm12), in the operand format. -/
def execAddi (d a : BitVec 7) (imm : BitVec 12) (s : State) : Host.Outcome State Fault Refusal :=
  s.issue (fun c => c.vector
    { regs := [d.toNat, a.toNat], data := [(a.toNat, [2, 3])], reads := [a.toNat]
      writes := c.act.map (fun l => c.w.put l d.toNat (c.w.reg l a.toNat + imm.signExtend 32)
        (mkTag (c.w.operandFmt l [a.toNat] 2) 0)) } 0 id)

/-- ANDI (R220). -/
def execAndi (d a : BitVec 7) (imm : BitVec 12) (s : State) : Host.Outcome State Fault Refusal :=
  s.issue (fun c => c.immAny d a (fun x => x &&& imm.signExtend 32))

/-- ORI (R220). -/
def execOri (d a : BitVec 7) (imm : BitVec 12) (s : State) : Host.Outcome State Fault Refusal :=
  s.issue (fun c => c.immAny d a (fun x => x ||| imm.signExtend 32))

/-- XORI (R220). -/
def execXori (d a : BitVec 7) (imm : BitVec 12) (s : State) : Host.Outcome State Fault Refusal :=
  s.issue (fun c => c.immAny d a (fun x => x ^^^ imm.signExtend 32))

/-- SHLI (R220). -/
def execShli (d a : BitVec 7) (n : BitVec 5) (s : State) : Host.Outcome State Fault Refusal :=
  s.issue (fun c => c.immAny d a (fun x => x <<< n.toNat))

/-- SHRI (R220). -/
def execShri (d a : BitVec 7) (n : BitVec 5) (s : State) : Host.Outcome State Fault Refusal :=
  s.issue (fun c => c.immAny d a (fun x => x >>> n.toNat))

/-- SARI (R220). -/
def execSari (d a : BitVec 7) (n : BitVec 5) (s : State) : Host.Outcome State Fault Refusal :=
  s.issue (fun c => c.immAny d a (fun x => x.sshiftRight n.toNat))

/-- ROTLI (R220). -/
def execRotli (d a : BitVec 7) (n : BitVec 5) (s : State) : Host.Outcome State Fault Refusal :=
  s.issue (fun c => c.immAny d a (fun x => x.rotateLeft n.toNat))

/-- The condition of CMPI by its code (R45, R219); codes 6 and 7 do not decode. -/
def cmpCode (n : Nat) (x y : Word) : Bool :=
  match n with
  | 0 => x == y
  | 1 => x != y
  | 2 => x.slt y
  | 3 => x.sle y
  | 4 => x.ult y
  | _ => x.ule y

/-- CMPI (R219): compares with sext(imm9). -/
def execCmpi (d a : BitVec 7) (k : BitVec 3) (imm : BitVec 9) (s : State) : Host.Outcome State Fault Refusal :=
  s.issue (fun c => c.vector
    { regs := [d.toNat, a.toNat], data := [(a.toNat, [2, 3])], reads := [a.toNat]
      writes := c.act.map (fun l => c.w.put l d.toNat
        (boolWord (cmpCode k.toNat (c.w.reg l a.toNat) (imm.signExtend 32))) (mkTag 2 0)) } 0 id)

/-- MOVI (R46): sext(imm19); the tag stays. -/
def execMovi (d : BitVec 7) (imm : BitVec 19) (s : State) : Host.Outcome State Fault Refusal :=
  s.issue (fun c => c.vector
    { regs := [d.toNat], writes := c.act.map (fun l => c.w.putSame l d.toNat (imm.signExtend 32)) } 0 id)

/-- MOVHI (R46): (d << 19) OR imm19; the tag stays. -/
def execMovhi (d : BitVec 7) (imm : BitVec 19) (s : State) : Host.Outcome State Fault Refusal :=
  s.issue (fun c => c.vector
    { regs := [d.toNat], reads := [d.toNat]
      writes := c.act.map (fun l => c.w.putSame l d.toNat ((c.w.reg l d.toNat <<< 19) ||| imm.setWidth 32)) } 0 id)

/-- The mask of a bit field (R220). -/
def fieldMask (p n : Nat) : Word := BitVec.ofNat 32 ((2 ^ n - 1) * 2 ^ p)

/-- BFX (R220): n bits from position p, zero-extended. -/
def execBfx (d a : BitVec 7) (p n : BitVec 6) (s : State) : Host.Outcome State Fault Refusal :=
  s.issue (fun c => c.immAny d a (fun x => (x &&& fieldMask p.toNat n.toNat) >>> p.toNat))

/-- BFI (R220): the low n bits of x put into d at position p. -/
def execBfi (d a : BitVec 7) (p n : BitVec 6) (s : State) : Host.Outcome State Fault Refusal :=
  s.issue (fun c => c.vector
    { regs := [d.toNat, a.toNat], reads := [a.toNat, d.toNat]
      writes := c.act.map (fun l =>
        let m := fieldMask p.toNat n.toNat
        c.w.put l d.toNat ((c.w.reg l d.toNat &&& ~~~m) ||| ((c.w.reg l a.toNat <<< p.toNat) &&& m))
          (c.w.tagAt l a.toNat)) } 0 id)

/-- The two writes of a 64-bit result: tag I64 on the even register, RAW on the odd one (R64, R221). -/
def Wave.putPair (w : Wave) (l d v : Nat) : List RegW :=
  [w.put l d (BitVec.ofNat 32 v) (mkTag 19 0), w.put l (d + 1) (BitVec.ofNat 32 (v / 2 ^ 32)) (mkTag 0 0)]

/-- ADD64 and SUB64 (R221). -/
def Ctx.wide (c : Ctx) (d a b : BitVec 7) (kb : BitVec 1) (f : Nat → Nat → Nat) : Except Raise State :=
  let bs := if kb = 1 then [] else [b.toNat, b.toNat + 1]
  c.vector
    { regs := [d.toNat, d.toNat + 1, a.toNat, a.toNat + 1] ++ bs
      pairs := [d.toNat, a.toNat] ++ bFields kb b
      data := ([a.toNat] ++ bFields kb b).map (fun r => (r, [19]))
      reads := [a.toNat, a.toNat + 1] ++ bs, kreads := bKregs kb b
      writes := c.act.flatMap (fun l => c.w.putPair l d.toNat
        (f (c.w.pair l a.toNat) (if kb = 1 then (c.w.kreg b.toNat).toNat else c.w.pair l b.toNat))) } 0 id

/-- The LEA forms (R221): pair(a) + ext(b) × scale. -/
def Ctx.lea (c : Ctx) (scale : Nat) (d a b : BitVec 7) (kb : BitVec 1) : Except Raise State :=
  c.vector
    { regs := [d.toNat, d.toNat + 1, a.toNat, a.toNat + 1] ++ bFields kb b
      pairs := [d.toNat, a.toNat], same := false
      data := (a.toNat, [19]) :: (bFields kb b).map (fun r => (r, [2, 3]))
      reads := [a.toNat, a.toNat + 1] ++ bFields kb b, kreads := bKregs kb b
      writes := c.act.flatMap (fun l =>
        let y := c.operandB kb b l
        let e : Int := if kb = 0 ∧ c.w.fmtAt l b.toNat = 3 then y.toNat else y.toInt
        c.w.putPair l d.toNat (wrap ((c.w.pair l a.toNat : Int) + e * scale) 64)) } 0 id

/-- SEXT and ZEXT (R221). -/
def Ctx.extend (c : Ctx) (signed : Bool) (d a : BitVec 7) : Except Raise State :=
  c.vector
    { regs := [d.toNat, d.toNat + 1, a.toNat], pairs := [d.toNat], data := [(a.toNat, [2, 3])], reads := [a.toNat]
      writes := c.act.flatMap (fun l => c.w.putPair l d.toNat (wrap (asInt signed (c.w.reg l a.toNat)) 64)) } 0 id

/-- ADD64 (R221). -/
def execAdd64 (d a b : BitVec 7) (kb : BitVec 1) (s : State) : Host.Outcome State Fault Refusal :=
  s.issue (fun c => c.wide d a b kb (fun x y => (x + y) % 2 ^ 64))

/-- SUB64 (R221). -/
def execSub64 (d a b : BitVec 7) (kb : BitVec 1) (s : State) : Host.Outcome State Fault Refusal :=
  s.issue (fun c => c.wide d a b kb (fun x y => (x + 2 ^ 64 - y) % 2 ^ 64))

/-- LEA1 (R221). -/
def execLea1 (d a b : BitVec 7) (kb : BitVec 1) (s : State) : Host.Outcome State Fault Refusal :=
  s.issue (fun c => c.lea 1 d a b kb)

/-- LEA2 (R221). -/
def execLea2 (d a b : BitVec 7) (kb : BitVec 1) (s : State) : Host.Outcome State Fault Refusal :=
  s.issue (fun c => c.lea 2 d a b kb)

/-- LEA4 (R221). -/
def execLea4 (d a b : BitVec 7) (kb : BitVec 1) (s : State) : Host.Outcome State Fault Refusal :=
  s.issue (fun c => c.lea 4 d a b kb)

/-- LEA8 (R221). -/
def execLea8 (d a b : BitVec 7) (kb : BitVec 1) (s : State) : Host.Outcome State Fault Refusal :=
  s.issue (fun c => c.lea 8 d a b kb)

/-- SEXT (R221). -/
def execSext (d a : BitVec 7) (s : State) : Host.Outcome State Fault Refusal := s.issue (fun c => c.extend true d a)

/-- ZEXT (R221). -/
def execZext (d a : BitVec 7) (s : State) : Host.Outcome State Fault Refusal := s.issue (fun c => c.extend false d a)

/-- A write that carries the poison of the element it copies (R415). -/
def RegW.carrying (x : RegW) (p : Bool) : RegW := { x with pois := p }

/-- SEL (R222): a where d is not zero, else b; operand a's tag; the chosen operand's poison is carried. -/
def execSel (d a b : BitVec 7) (kb : BitVec 1) (s : State) : Host.Outcome State Fault Refusal :=
  s.issue (fun c => c.vector
    { regs := [d.toNat, a.toNat] ++ bFields kb b, reads := [d.toNat], carry := [a.toNat] ++ bFields kb b
      kreads := bKregs kb b
      writes := c.act.map (fun l =>
        let takeA := c.w.reg l d.toNat != 0
        (c.w.put l d.toNat (if takeA then c.w.reg l a.toNat else c.operandB kb b l) (c.w.tagAt l a.toNat)).carrying
          (if takeA then c.w.regPoison l a.toNat else kb == 0 && c.w.regPoison l b.toNat)) } 0 id)

/-- MOV (R222): payload, tag and poison copied. -/
def execMov (d a : BitVec 7) (s : State) : Host.Outcome State Fault Refusal :=
  s.issue (fun c => c.vector
    { regs := [d.toNat, a.toNat], carry := [a.toNat]
      writes := c.act.map (fun l => (c.w.put l d.toNat (c.w.reg l a.toNat) (c.w.tagAt l a.toNat)).carrying
        (c.w.regPoison l a.toNat)) } 0 id)

/-- MOVKV (R222): the low half of k[a] in every active lane; the tag stays. -/
def execMovkv (d a : BitVec 7) (s : State) : Host.Outcome State Fault Refusal :=
  s.issue (fun c => c.vector
    { regs := [d.toNat], kreads := [a.toNat]
      writes := c.act.map (fun l => c.w.putSame l d.toNat ((c.w.kreg a.toNat).setWidth 32)) } 0 id)

/-- MOVVK (R222): k[d] becomes the lowest active lane's element. -/
def execMovvk (d a : BitVec 7) (s : State) : Host.Outcome State Fault Refusal :=
  s.issue (fun c => c.vector
    { regs := [a.toNat], first := [a.toNat], kwrites := [d.toNat] } 0
    (fun w => w.setK d.toNat ((c.w.reg c.first a.toNat).setWidth 64)))

end Sys2Proof.Machine
end

