-- ==== Sys2Proof/Machine/Control.lean ====
section
/-!
DEFINITION. Control: loops (R181), branches (R47, R209), calls, returns, jumps and window moves (R206, R210 to R213), EXIT,
SLEEP, YIELD, NOP, WAITF, WAITC, TRAP and RFT (R179, R180, R214 to R216, R281, R395, R398, R399).
-/

namespace Sys2Proof.Machine

/-- The size of the code segment of the wave's launch (R19). -/
def Ctx.codeBytes (c : Ctx) : Nat :=
  match c.launch? with
  | some l => l.codeBytes
  | none => 0

/-- The illegal-instruction raise of an instruction with a reason code: its word and the reason (R391, R395). -/
def Ctx.illegal (c : Ctx) (i : Instr) (reason : Nat) : Raise := c.raiseAll 0 ((encode i).toNat + reason * 2 ^ 32)

/-- A control instruction completes: active lanes get the next addresses named, the others of them fall through. -/
def Ctx.control (c : Ctx) (w : Wave) (next : List (Nat × Nat)) : State :=
  c.done c.s { w with target := next.foldl (fun t x => tset t x.1 (BitVec.ofNat 32 x.2)) [] }

/-- The target of a branch with an offset in blocks (R47). -/
def branchTarget (p : Nat) (off : BitVec 19) : Int := (p / 64 * 64 : Nat) + off.toInt * 64

/-- A branch (R209): `taken` says which active lanes take it. -/
def Ctx.branch (c : Ctx) (off : BitVec 19) (regs : List Nat) (kregs : List Nat) (taken : Nat → Bool) :
    Except Raise State := do
  c.checkRegs regs
  c.checkPoison regs [] kregs
  let t := branchTarget c.w.pc off
  let go := c.act.filter taken
  if !go.isEmpty && (decide (t < 0) || decide (t ≥ c.codeBytes)) then throw (c.raiseIn 3 go (wrap t 64))
  let w ← c.region (c.rowKeys regs ++ kregs.map (fun k => 2048 + k)) []
  pure (c.control w (go.map (fun l => (l, t.toNat))))

/-- BR (R209). -/
def execBr (off : BitVec 19) (s : State) : Host.Outcome State Fault Refusal :=
  s.issue (fun c => c.branch off [] [] (fun _ => true))

/-- BRZ (R209). -/
def execBrz (a : BitVec 7) (off : BitVec 19) (s : State) : Host.Outcome State Fault Refusal :=
  s.issue (fun c => c.branch off [a.toNat] [] (fun l => c.w.reg l a.toNat == 0))

/-- BRNZ (R209). -/
def execBrnz (a : BitVec 7) (off : BitVec 19) (s : State) : Host.Outcome State Fault Refusal :=
  s.issue (fun c => c.branch off [a.toNat] [] (fun l => c.w.reg l a.toNat != 0))

/-- KBRZ (R209). -/
def execKbrz (a : BitVec 7) (off : BitVec 19) (s : State) : Host.Outcome State Fault Refusal :=
  s.issue (fun c => c.branch off [] [a.toNat] (fun _ => c.w.kreg a.toNat == 0))

/-- KBRNZ (R209). -/
def execKbrnz (a : BitVec 7) (off : BitVec 19) (s : State) : Host.Outcome State Fault Refusal :=
  s.issue (fun c => c.branch off [] [a.toNat] (fun _ => c.w.kreg a.toNat != 0))

/-- A loop instruction with its count (R181): the body starts at the word that follows, so its lanes fall through to it. -/
def Ctx.loopOn (c : Ctx) (i : Instr) (cnt : Nat) (kregs : List Nat) (n len : Nat) : Except Raise State := do
  if c.w.mode then throw (c.illegal i 7)
  c.checkPoison [] [] kregs
  let start := c.w.pc + 4
  if start + 4 * len > c.codeBytes then throw (c.raiseAll 3 (start + 4 * len))
  let w ← c.region (kregs.map (fun k => 2048 + k)) []
  let stop := c.w.pc + 4 * len
  let old := (tget w.loops cnt).getD { active := false, start := 0, stop := 0, seq := 0 }
  let seq := maxOf ((tvals w.loops).map (·.seq)) + 1
  if n = 0 then
    pure (c.control { w with loops := tset w.loops cnt { old with active := false } }
      (c.act.map (fun l => (l, stop + 4))))
  else
    pure (c.control { w with
        lc := tset w.lc cnt (BitVec.ofNat 32 n)
        loops := tset w.loops cnt { active := true, start := start, stop := stop, seq := seq } } [])

/-- LOOPI (R181). -/
def execLoopi (k : BitVec 2) (n : BitVec 11) (l : BitVec 8) (s : State) : Host.Outcome State Fault Refusal :=
  s.issue (fun c => c.loopOn (.loopi k n l) k.toNat [] n.toNat (l.toNat + 1))

/-- LOOP (R181): the count is k[a][31:0]. -/
def execLoop (k : BitVec 2) (a : BitVec 7) (l : BitVec 8) (s : State) : Host.Outcome State Fault Refusal :=
  s.issue (fun c => c.loopOn (.loop k a l) k.toNat [a.toNat] ((c.w.kreg a.toNat).toNat % 2 ^ 32) (l.toNat + 1))

/-- A spill or fill raise (R206, R391): reason, position, and the positions that the retry needs in the lanes struck. A
position of 2^30 does not fit the field and is written modulo 2^30 (DESIGN CHOICE, log 97). -/
def Ctx.window (_ : Ctx) (cause reason pos : Nat) (lanes : List Nat) (needs : List (Nat × Int × Int)) : Raise :=
  { cause := cause, lanes := maskOf lanes, info := BitVec.ofNat 64 (reason * 2 ^ 30 + pos % 2 ^ 30)
    needs := needs.filter (fun x => lanes.contains x.1), consumed := [] }

/-- The window-move checks of R206 on the active lanes' new bases. -/
def Ctx.checkMove (c : Ctx) (up : Bool) (moves : List (Nat × Int)) (needs : List (Nat × Int × Int)) :
    Except Raise Unit := do
  let win := c.w.win
  let a := c.w.allot
  let neg := moves.filter (fun m => decide (m.2 < 0))
  if !neg.isEmpty then throw (c.window 7 2 0 (neg.map (·.1)) needs)
  let m := moves.map (fun x => (x.1, x.2.toNat))
  let far := m.filter (fun x => decide (x.2 + win > 2 ^ 30))
  if !far.isEmpty then throw (c.window 6 3 (2 ^ 30 - 1) (far.map (·.1)) needs)
  let bases := c.w.live.map (fun l => match m.find? (fun x => x.1 == l) with
    | some x => x.2
    | none => tgetD c.w.wbase l 0)
  let span := maxOf bases + win - minOf 0 bases
  if span > a then throw (c.window (if up then 6 else 7) 1 span (m.map (·.1)) needs)
  let hi := m.filter (fun x => decide (x.2 + win > c.w.wtop))
  if !hi.isEmpty then throw (c.window 6 0 (maxOf (hi.map (fun x => x.2 + win))) (hi.map (·.1)) needs)
  let lo := m.filter (fun x => decide (x.2 + a < c.w.wtop))
  if !lo.isEmpty then throw (c.window 7 0 (minOf 0 (lo.map (·.2))) (lo.map (·.1)) needs)

/-- The new windows that a move needs resident (R207); one that begins below position 0 never is. -/
def Ctx.moveNeeds (c : Ctx) (moves : List (Nat × Int)) : List (Nat × Int × Int) :=
  moves.map (fun m => (m.1, m.2, m.2 + c.w.win))

/-- The link position of each active lane, below its window (R207, R212): alone, as the rule says of a RET whose link was not
resident; the worked example's step 10 counts the lanes' windows beside it (DESIGN CHOICE, log 89). -/
def Ctx.linkNeeds (c : Ctx) : List (Nat × Int × Int) :=
  c.act.map (fun l => (l, ((tgetD c.w.wbase l 0 : Nat) : Int) - 1, ((tgetD c.w.wbase l 0 : Nat) : Int)))

/-- The alignment check of computed targets (R47, R211, R213): multiples of 64 below code_bytes. -/
def Ctx.checkTargets (c : Ctx) (ts : List (Nat × Nat)) : Except Raise Unit :=
  let bad := ts.filter (fun x => x.2 % 64 != 0 || decide (x.2 ≥ c.codeBytes))
  if bad.isEmpty then .ok () else .error (c.raiseIn 3 (bad.map (·.1)) (minOf 0 (bad.map (·.2))))

/-- The window bases of some lanes replaced. -/
def Wave.rebase (w : Wave) (moves : List (Nat × Int)) : Wave :=
  { w with wbase := moves.foldl (fun t m => tset t m.1 m.2.toNat) w.wbase }

/-- CALL and CALLV, from each lane's target (R210, R211). -/
def Ctx.callTo (c : Ctx) (i : Instr) (n : Nat) (regs : List Nat) (target : Nat → Int) : Except Raise State := do
  if c.w.mode then throw (c.illegal i 7)
  c.checkRegs regs
  c.checkPoison regs [] []
  let ts := c.act.map (fun l => (l, target l))
  let bad := ts.filter (fun x => decide (x.2 < 0) || x.2 % 64 != 0 || decide ((c.codeBytes : Int) ≤ x.2))
  if !bad.isEmpty then throw (c.raiseIn 3 (bad.map (·.1)) (minOf 0 (bad.map (fun x => wrap x.2 64))))
  let moves := c.act.map (fun l => (l, ((tgetD c.w.wbase l 0 + n : Nat) : Int)))
  c.checkMove true moves (c.moveNeeds moves)
  let link := BitVec.ofNat 32 (n * 2 ^ 25 + (c.w.pc + 4))
  let rowAt := fun (m : Nat × Int) => (m.2.toNat - 1) % c.w.allot
  let w ← c.region (c.rowKeys regs) (moves.map (fun m => (rowAt m, n - 1)))
  let w := moves.foldl (fun w m => w.writeElem (rowAt m) m.1 link false) w
  pure (c.control (w.rebase moves) (ts.map (fun x => (x.1, x.2.toNat))))

/-- CALL (R211). -/
def execCall (n : BitVec 7) (off : BitVec 19) (s : State) : Host.Outcome State Fault Refusal :=
  s.issue (fun c => c.callTo (.call n off) n.toNat [] (fun _ => branchTarget c.w.pc off))

/-- CALLV (R211). -/
def execCallv (a n : BitVec 7) (s : State) : Host.Outcome State Fault Refusal :=
  s.issue (fun c => c.callTo (.callv a n) n.toNat [a.toNat] (fun l => (c.w.reg l a.toNat).toNat))

/-- RET (R212): the fill checks on the link position come first, then the link's alignment, then the window move. A poisoned link
lies in no register field, and the field that sr.trapinfo names for it is an open value (DESIGN CHOICE, log 98). -/
def execRet (s : State) : Host.Outcome State Fault Refusal :=
  s.issue (fun c =>
    let base := fun l => tgetD c.w.wbase l 0
    let a := c.w.allot
    let link := fun l => (c.w.elem ((base l - 1) % a) l).toNat
    do
      if c.w.mode then throw (c.illegal .ret 7)
      let zero := c.act.filter (fun l => base l == 0)
      if !zero.isEmpty then throw (c.window 7 2 0 zero c.linkNeeds)
      let out := c.act.filter (fun l => decide (base l - 1 + a < c.w.wtop))
      if !out.isEmpty then
        throw (c.window 7 0 (minOf 0 (c.act.map (fun l => base l - 1))) out c.linkNeeds)
      let pois := c.act.filter (fun l => (c.w.row ((base l - 1) % a)).poison.getLsbD l)
      if !pois.isEmpty then
        throw { c.raiseIn 16 pois (Config.pick c.key % 128) with consumed := pois.map (fun l => (l, (base l - 1) % a)) }
      let bad := c.act.filter (fun l => bits (link l) 31 25 == 0 || bits (link l) 1 0 != 0 ||
        decide (bits (link l) 24 0 ≥ c.codeBytes))
      if !bad.isEmpty then throw (c.raiseIn 3 bad (minOf 0 (bad.map (fun l => bits (link l) 24 0))))
      let moves := c.act.map (fun l => (l, (base l : Int) - (bits (link l) 31 25 : Nat)))
      c.checkMove false moves (c.moveNeeds moves ++ c.linkNeeds)
      let w ← c.region (c.act.map (fun l => (base l - 1) % a)) []
      pure (c.control (w.rebase moves) (c.act.map (fun l => (l, bits (link l) 24 0)))))

/-- JMPV (R213). -/
def execJmpv (a : BitVec 7) (s : State) : Host.Outcome State Fault Refusal :=
  s.issue (fun c => do
    c.checkRegs [a.toNat]
    c.checkPoison [a.toNat] [] []
    let ts := c.act.map (fun l => (l, (c.w.reg l a.toNat).toNat))
    c.checkTargets ts
    let w ← c.region (c.rowKeys [a.toNat]) []
    pure (c.control w ts))

/-- WSLIDE (R213). -/
def execWslide (sv : BitVec 7) (s : State) : Host.Outcome State Fault Refusal :=
  s.issue (fun c => do
    if c.w.mode then throw (c.illegal (.wslide sv) 7)
    let moves := c.act.map (fun l => (l, ((tgetD c.w.wbase l 0 : Nat) : Int) + sv.toInt))
    c.checkMove (decide (sv.toInt ≥ 0)) moves (c.moveNeeds moves)
    pure (c.control (c.w.rebase moves) []))

/-- EXIT (R214): the active lanes are no longer live; a switch point (R166). -/
def execExit (s : State) : Host.Outcome State Fault Refusal :=
  s.issue (fun c => pure ((c.control { c.w with vpc := setLanes c.w.vpc c.act exited } []).yieldTurn c.w))

/-- The wave's next run becomes ready only at a clk count of its column. -/
def Ctx.pause (c : Ctx) (wait : Wait) (ready : Nat) : State :=
  c.control { c.w with wait := wait, ready := ready, raised := false } []

/-- YIELD (R180): the next run is ready from the clk after; in deterministic mode a switch point (R166). -/
def execYield (s : State) : Host.Outcome State Fault Refusal :=
  s.issue (fun c =>
    let t := c.s.clkOf c.w + 1
    if c.s.isDet c.w.launch then pure ((c.control c.w []).yieldTurn c.w) else pure (c.pause (.yield t) t))

/-- SLEEP (R215): the next run is ready no earlier than count × 16 clk from now; a count of 0 is a YIELD. -/
def execSleep (n : BitVec 14) (s : State) : Host.Outcome State Fault Refusal :=
  s.issue (fun c =>
    let now := c.s.clkOf c.w
    if n = 0 then
      if c.s.isDet c.w.launch then pure (c.control c.w []) else pure (c.pause (.yield (now + 1)) (now + 1))
    else pure (c.pause (.sleep (now + n.toNat * 16)) (now + n.toNat * 16)))

/-- NOP (R216). -/
def execNop (s : State) : Host.Outcome State Fault Refusal := s.issue (fun c => pure (c.done c.s c.w))

/-- WAITF (R179): the wave makes no further issue until every named flag is clear. -/
def execWaitf (m : BitVec 7) (m2 : BitVec 5) (s : State) : Host.Outcome State Fault Refusal :=
  s.issue (fun c =>
    let mask : BitVec 12 := m2 ++ m
    pure (c.control { c.w with wait := if mask = 0 then .none else .flags mask } []))

/-- WAITC (R281): the wave makes no further issue until the class's counter is at most n. -/
def execWaitc (n : BitVec 7) (k : BitVec 3) (s : State) : Host.Outcome State Fault Refusal :=
  s.issue (fun c => pure (c.control { c.w with
    wait := if c.s.engCount c.w.uid k.toNat ≤ n.toNat then .none else .counter k.toNat n.toNat } []))

/-- TRAP (R398): cause 32 + n in the active lanes; in trap mode a double fault. -/
def execTrap (n : BitVec 7) (s : State) : Host.Outcome State Fault Refusal :=
  s.issue (fun c =>
    if c.w.mode then throw (c.illegal (.trap n) 7) else throw (c.raiseAll (32 + n.toNat) n.toNat))

/-- RFT (R399): parks the active lanes; the handler is left when no live lane remains unparked. -/
def execRft (k : BitVec 1) (s : State) : Host.Outcome State Fault Refusal :=
  s.issue (fun c => do
    if !c.w.mode then throw (c.illegal (.rft k) 6)
    let atHeader := match c.w.frame with
      | some f => f.run.isNone && (c.w.trapcause == 1 || c.w.trapcause == 9)
      | none => false
    if k = 1 && atHeader then throw (c.illegal (.rft k) 7)
    let m := maskOf c.act
    pure (c.control { c.w with parked := c.w.parked ||| m,
                               parkMode := if k = 1 then c.w.parkMode ||| m else c.w.parkMode &&& ~~~m } []))

end Sys2Proof.Machine
end

