-- ==== Sys2Proof/Machine/Special.lean ====
section
/-!
DEFINITION. Special registers (R405, R406, R207, R395), CACHE (R407), PERF and CLOCK (R408).
-/

namespace Sys2Proof.Machine

/-- The special registers of 64 bits: sr.traplanes, sr.trapinfo, sr.seed, sr.clock and sr.errstat (R405). -/
def isWideSr (n : Nat) : Bool := n == 10 || n == 11 || n == 16 || n == 17 || n == 18

/-- The value of a special register as a lane reads it (R405). -/
def Ctx.readSr (c : Ctx) (n l : Nat) : Nat :=
  let w := c.w
  match n with
  | 0 => l
  | 1 => w.idx
  | 2 => if w.accepts.isEmpty then c.s.teamIndex w else 0xFFFFFFFF
  | 3 => match c.launch? with
    | some x => x.gridTeams
    | none => 0
  | 4 => w.lcore
  | 5 => w.lcore / 16
  | 6 => w.tag.toNat
  | 7 => w.fpctl.toNat
  | 8 => w.fpflags.toNat
  | 9 => w.trapcause.toNat
  | 10 => w.traplanes.toNat
  | 11 => w.trapinfo.toNat
  | 12 => tgetD w.wbase l 0
  | 13 => w.wtop
  | 14 => tgetD w.hbase l 0
  | 15 => match w.frame with
    | some f => (tgetD f.curVpc l exited).toNat
    | none => (Config.freeWord (c.s.free + l)).toNat
  | 16 => w.seed.toNat
  | 17 => c.s.ns
  | 18 => w.errstat.toNat
  | _ => (tgetD w.draw l 0).toNat

/-- The writes of a 32-bit or 64-bit value to d, with tag UI32 or to the pair d, d + 1 with tag I64 (R406, R408). -/
def Ctx.srWrites (c : Ctx) (d : Nat) (wide : Bool) (v : Nat → Nat) : List RegW :=
  c.act.flatMap (fun l =>
    if wide then [c.w.put l d (BitVec.ofNat 32 (v l)) (mkTag 19 0), c.w.put l (d + 1) (BitVec.ofNat 32 (v l / 2 ^ 32)) 0]
    else [c.w.put l d (BitVec.ofNat 32 (v l)) (mkTag 3 0)])

/-- An instruction that writes a value of the machine to d or to the pair d, d + 1. -/
def Ctx.readOut (c : Ctx) (d : Nat) (wide : Bool) (v : Nat → Nat) : Except Raise State :=
  c.vector { regs := if wide then [d, d + 1] else [d], pairs := if wide then [d] else [],
             writes := c.srWrites d wide v } 0 id

/-- Free values used up: those that a read of sr.trapvpc before any trap gives, one a lane, or a timing count. -/
def State.spend (s : State) (n : Nat) : State := { s with free := s.free + n }

/-- GETSR (R406). -/
def execGetsr (d a : BitVec 7) (s : State) : Host.Outcome State Fault Refusal :=
  s.issue (fun c =>
    let free := a == 15 && c.w.frame.isNone
    ({ c with s := if free then c.s.spend 64 else c.s } : Ctx).readOut d.toNat (isWideSr a.toNat) (c.readSr a.toNat))

/-- The bits of a writable special register that are not reserved (R5, R67, R69, R420). -/
def srMask (n : Nat) : Nat :=
  if n = 7 then 0x7 else if n = 8 then 0x1F else if n = 18 then 0xFFFF00000000FF0F else 0xFFFFFFFF

/-- The stack positions that a write of sr.wtop must keep resident (R207): what the retried instruction needs in each lane
that the current spill or fill trap struck, and the window of every other live lane. -/
def Wave.needed (w : Wave) : List (Nat × Int × Int) :=
  let struck := match w.frame with
    | some f => if w.trapcause == 6 || w.trapcause == 7 then f.needs else []
    | none => []
  let lanes := if w.trapcause == 6 || w.trapcause == 7 then w.traplanes else 0
  struck.filter (fun x => w.isLive x.1) ++ (w.live.filter (fun l => !lanes.getLsbD l)).map (fun l =>
    (l, ((tgetD w.wbase l 0 : Nat) : Int), ((tgetD w.wbase l 0 + w.win : Nat) : Int)))

/-- Whether R207 performs a write of sr.wtop. -/
def Wave.mayTop (w : Wave) (v : Nat) : Bool :=
  decide (v ≥ w.allot) && w.needed.all (fun x => decide ((v : Int) ≤ x.2.1 + w.allot) && decide (x.2.2 ≤ (v : Int)))

/-- The rows of the positions that become resident (R204, R207). -/
def Wave.newRows (w : Wave) (v : Nat) : List Nat :=
  let p := (List.range w.allot).map (fun i => v - w.allot + i)
  (p.filter (fun x => !w.resident x)).map (fun x => x % w.allot)

/-- Writes sr.wtop: positions that become resident hold free values and tag 0x0000 (R207). -/
def State.setTop (s : State) (w : Wave) (v : Nat) : State × Wave :=
  let rows := w.newRows v
  let lost := rows.any (fun r => (w.row r).poison != 0)
  ({ s with free := s.free + rows.length * w.width },
   (if lost then Wave.settleLatent else id) { (rows.zipIdx).foldl (fun (w' : Wave) r =>
      let e := (List.range w.width).map (fun l => (l, Config.freeWord (s.free + r.2 * w.width + l)))
      let row : Row := { tag := 0, poison := 0, seen := 0, elems := e }
      { w' with rows := tset w'.rows r.1 row }) w with
     wtop := v })

/-- Writes a special register held per wave, other than sr.wtop. -/
def Wave.writeSr (w : Wave) (n v : Nat) : Wave :=
  if n = 7 then { w with fpctl := BitVec.ofNat 32 v }
  else if n = 8 then { w with fpflags := BitVec.ofNat 32 v }
  else { w with errstat := BitVec.ofNat 64 v }

/-- SETSR (R406, R207, R395). A write of sr.wtop that R207 refuses is cause 0 and comes before every other check (R392), but
for a source field that names no register in the lowest active lane, whose value cannot be read. -/
def execSetsr (d a : BitVec 7) (s : State) : Host.Outcome State Fault Refusal :=
  s.issue (fun c =>
    let n := d.toNat
    let wide := isWideSr n
    let fs := if wide then [a.toNat, a.toNat + 1] else [a.toNat]
    let first := c.first
    let v := (if wide then c.w.pair first a.toNat else (c.w.reg first a.toNat).toNat) &&& srMask n
    do
      if !(n == 7 || n == 8 || n == 13 || n == 14 || n == 18) then throw (c.illegal (.setsr d a) 3)
      if (n == 13 || n == 14) && !c.w.mode then throw (c.illegal (.setsr d a) 6)
      if n = 13 && c.w.fieldOk [first] a.toNat && !c.w.mayTop v then throw (c.illegal (.setsr d a) 8)
      let pairs := if wide then [a.toNat] else []
      c.checkRegs (pairFields fs pairs)
      c.checkFormat pairs [] true
      c.checkPoison (if n = 14 then fs else []) (if n = 14 then [] else fs) []
      let w ← c.region (if n = 14 then c.rowKeys fs else fs.map (fun f => c.w.rowOf first f)) []
      if n = 13 then
        let (s, w) := c.s.setTop w v
        pure (c.doneEffect s w)
      else if n = 14 then
        pure (c.doneEffect c.s { w with hbase := c.act.foldl (fun t l => tset t l (c.w.reg l a.toNat).toNat) w.hbase })
      else pure (c.doneEffect c.s (w.writeSr n v)))

/-- The lines of the active lanes' addresses, of those that translate (R407). -/
def Ctx.laneLines (c : Ctx) (a : Nat) : List Nat :=
  c.act.filterMap (fun l => (c.s.translate c.dom (c.addrAt a 0 l) .read).toOption.map (fun x => lineOf x.key))

/-- CACHE (R407): L1EV (0) and L1ALL (3) drop the core's L1 copies, a failed one among them (R411); L2WB (1) and L2EV (2) change
no value that the memory model lets anyone see. -/
def execCache (a : BitVec 7) (ord : BitVec 2) (s : State) : Host.Outcome State Fault Refusal :=
  s.issue (fun c =>
    let fs := if ord = 3 then [] else [a.toNat, a.toNat + 1]
    do
      c.check { regs := fs, pairs := if ord = 3 then [] else [a.toNat], reads := fs }
      let w ← c.region (c.rowKeys fs) []
      let lines := if ord = 0 then c.laneLines a.toNat else []
      pure (c.done { c.s with badCopies := c.s.badCopies.filter (fun x =>
        !(x.1 == c.w.pcore && (ord == 3 || lines.contains (x.2 / 4)))) } w))

/-- PERF (R408): items 0 to 3 count for the wave; items 4 and 5 are counts of the caches, which the specification does not
fix. -/
def execPerf (d imm : BitVec 7) (s : State) : Host.Outcome State Fault Refusal :=
  s.issue (fun c =>
    let v := match imm.toNat with
      | 0 => c.w.issued
      | 1 => c.w.runs
      | 2 => c.w.stallClk
      | 3 => ((c.s.clkOf c.w : Int) - c.w.startClk).toNat
      | n => (Config.timing n c.s.free).toNat
    ({ c with s := if imm.toNat < 4 then c.s else c.s.spend 1 } : Ctx).readOut d.toNat true (fun _ => v))

/-- CLOCK (R408). -/
def execClock (d : BitVec 7) (s : State) : Host.Outcome State Fault Refusal :=
  s.issue (fun c => c.readOut d.toNat true (fun _ => c.s.clkOf c.w))

end Sys2Proof.Machine
end

