-- ==== Sys2Proof/Machine/Futures.lean ====
section
/-!
DEFINITION. The futures instructions and packets (R143 to R152, R431 to R437): BRID, VSTAT, COMMIT, SQUASH, FLIPQ and VDROP,
the COMMIT, SQUASH and FLIP packets, the commit and squash steps, and scrubbing.
-/

namespace Sys2Proof.Machine

/-- The value that BRID reads (R431): the tag, the branch index, the set id and whether the wave is tagged. -/
def State.branchWord (s : State) (tag : BitVec 4) : Nat :=
  if tag = 0 then 0
  else match s.setOf? tag with
    | none => tag.toNat + 2 ^ 10
    | some x => tag.toNat + (x.tags.findIdx (fun t => t == tag)) % 8 * 2 ^ 4 + x.id % 4 * 2 ^ 8 + 2 ^ 10

/-- BRID (R431). -/
def execBrid (d : BitVec 7) (s : State) : Host.Outcome State Fault Refusal :=
  s.issue (fun c => c.readOut d.toNat false (fun _ => c.s.branchWord c.w.tag))

/-- The code of a tag's state (R129). -/
def TagState.code : TagState → Nat
  | .free => 0
  | .live => 1
  | .doomed => 2
  | .committed => 3
  | .squashed => 4

/-- The states of all tags in one word (R432). -/
def State.tagWord (s : State) : Nat :=
  (List.range 15).foldl (fun v i => v + (s.tagState (i + 1)).code * 16 ^ (i + 1)) 0

/-- VSTAT (R432): the wave's earlier COMMIT, SQUASH and VDROP have been performed when the next instruction issues. -/
def execVstat (d : BitVec 7) (s : State) : Host.Outcome State Fault Refusal :=
  s.issue (fun c => c.readOut d.toNat true (fun _ => c.s.tagWord))

/-- Block-store references and blocks of a committed branch become those of tag 0; a name's older committed binding is
replaced (R141). -/
def State.kvCommit (s : State) (tag : BitVec 4) : State :=
  let mine := s.kvNames.filter (fun n => n.tag == tag)
  let old := s.kvNames.filter (fun n => n.tag == 0 && mine.any (fun m => m.domain == n.domain && m.name == n.name))
  let s1 := old.foldl (fun (s : State) n => s.kvUnbind n) s
  { s1 with
    kvNames := s1.kvNames.map (fun n => if n.tag = tag then { n with tag := 0 } else n)
    kvBlocks := s1.kvBlocks.map (fun e => (e.1, if e.2.owner = tag then { e.2 with owner := 0 } else e.2)) }

/-- The destination, lanes and tag of a wave that waits in COMMIT. -/
def Wait.commit? : Wait → Option (Nat × BitVec 64 × Nat)
  | .commit d lanes tag => some (d, lanes, tag)
  | _ => Option.none

/-- A COMMIT instruction that waited ends with a status (R433). -/
def State.endCommitWave (s : State) (w : Wave) (status : Nat) : State :=
  s.setWave (w.endWaitFor Wait.commit? (fun w x => w.writeLanes x.1 ((lanesOf x.2.1).filter w.isLive) status))

/-- A COMMIT or SQUASH packet ends (R143): its status word is written and it is consumed. A miss on the status word leaves
only that step waiting (R468), with the queue in HELD. -/
def State.endCommitPacket (s : State) (n addr status : Nat) : State :=
  match s.queueWrite n addr 2 (toBytes 4 status) with
  | .error t => t.modQueue n (fun q => { q with st := .held, held := 5, statusAddr := addr, ending := some status })
  | .ok t => t.consume n 1

/-- The status with which a waiting COMMIT of a tag ends at once (R144). -/
def State.commitOver (s : State) (tag : Nat) : Option Nat :=
  match s.tagState tag with
  | .committed => some 0
  | .squashed => some 4
  | _ => none

/-- The COMMITs whose branch has become COMMITTED or SQUASHED end (R144). -/
def State.resolveCommits (s : State) : State :=
  let s1 := (tvals s.waves).foldl (fun (s : State) w => match w.waitsFor Wait.commit? with
    | some x => (match s.commitOver x.2.2 with
      | some st => s.endCommitWave w st
      | none => s)
    | none => s) s
  s1.queues.foldl (fun (s : State) e =>
    if e.2.st == .held && e.2.held == 5 && e.2.ending.isNone then
      match s.commitOver e.2.commitTag with
      | some st => s.endCommitPacket e.1 e.2.statusAddr st
      | none => s
    else s) s1

/-- What follows every change of tag states: sets close, attachments of squashed tags go, waiting COMMITs and FORKs look
again (R130, R141, R144, R151). -/
def State.afterTags (s : State) : State := ((s.closeSets.sweep).resolveCommits).noteForks

/-- The commit step (R145): the branch becomes COMMITTED and every other LIVE or DOOMED tag of the set SQUASHED. -/
def State.commitStep (s : State) (tag : BitVec 4) : State :=
  match s.setOf? tag with
  | none => s
  | some x =>
    let others := x.tags.filter (fun t => t != 0 && t != tag &&
      (s.tagState t.toNat == .live || s.tagState t.toNat == .doomed))
    let s1 := others.foldl (fun (s : State) t => s.setTag t .squashed) (s.setTag tag .committed)
    (s1.kvCommit tag).afterTags

/-- The squash step (R146). -/
def State.squashStep (s : State) (x : SpecSet) (mask : Nat) : State :=
  let hit := (x.tags.zipIdx).filter (fun t => bit mask t.2 && t.1 != 0 &&
    (s.tagState t.1.toNat == .live || s.tagState t.1.toNat == .doomed))
  (hit.foldl (fun (s : State) t => s.setTag t.1 .squashed) s).afterTags

/-- What a COMMIT of a branch of a set comes to (R143, R144): a status at once, or the tag to wait for. -/
def State.commitStart (s : State) (dom set idx : Nat) : Except Nat (BitVec 4) :=
  match s.openSet? dom set with
  | none => .error 2
  | some x =>
    if idx ≥ x.tags.length then .error 3
    else if s.branchState x idx == .squashed then .error 4
    else .ok ((x.tags[idx]?).getD 0)

/-- The status of an instruction before its packet's own (R433): a bit outside the fields, no open set, or its own set. -/
def Ctx.futureStatus (c : Ctx) (v mask set : Nat) : Option Nat :=
  if v &&& mask ≠ v then some 3
  else match c.s.openSet? c.dom set with
    | none => some 2
    | some x => if c.w.tag != 0 && x.tags.contains c.w.tag then some 5 else none

/-- What COMMIT and SQUASH check and write (R433). -/
def Ctx.futureSpec (c : Ctx) (d a : Nat) : OpSpec :=
  { regs := [d, a], first := [a], writes := c.act.map (fun l => c.w.put l d 0 (mkTag 3 0)) }

/-- COMMIT (R433): it waits between runs for quiescence. -/
def execCommit (d a : BitVec 7) (s : State) : Host.Outcome State Fault Refusal :=
  s.issue (fun c =>
    let o := c.futureSpec d.toNat a.toNat
    let v := (c.w.reg c.first a.toNat).toNat
    do
      c.check o
      let w ← c.regionOf o
      let (s, w) := c.s.writeTags w o.writes
      let now := fun (st : Nat) => c.doneEffect s (w.writeLanes d.toNat c.act st)
      match c.futureStatus v 0x73 (bits v 1 0) with
      | some st => pure (now st)
      | none => match s.commitStart c.dom (bits v 1 0) (bits v 6 4) with
        | .error st => pure (now st)
        | .ok tag => pure (c.doneEffect s { w with wait := .commit d.toNat (maskOf c.act) tag.toNat }))

/-- The status of a SQUASH of a mask of a set (R143). -/
def squashStatus (x : SpecSet) (mask : Nat) : Nat := if mask = 0 ∨ mask ≥ 2 ^ x.tags.length then 3 else 0

/-- SQUASH (R433). -/
def execSquash (d a : BitVec 7) (s : State) : Host.Outcome State Fault Refusal :=
  s.issue (fun c =>
    let o := c.futureSpec d.toNat a.toNat
    let v := (c.w.reg c.first a.toNat).toNat
    do
      c.check o
      let w ← c.regionOf o
      let (s, w) := c.s.writeTags w o.writes
      let now := fun (st : Nat) => c.doneEffect s (w.writeLanes d.toNat c.act st)
      match c.futureStatus v 0xFF03 (bits v 1 0), s.openSet? c.dom (bits v 1 0) with
      | some st, _ => pure (now st)
      | none, none => pure (now 2)
      | none, some x =>
        let st := squashStatus x (bits v 15 8)
        pure (if st = 0 then (now 0).squashStep x (bits v 15 8) else now st))

/-- COMMIT_PACKET (R143, R144). -/
def execCommitPacket (q : Nat) (s : State) : Host.Outcome State Fault Refusal :=
  .next (s.onPacket q .parse 5 (fun _ _ => field 191 128 ||| field 70 68 ||| field 65 0) (fun s x slots =>
    let v := slots.headD 0
    let addr := bits v 191 128
    if addr % 4 ≠ 0 then s.reject q 3 (x.slotAddr 0) (some v) []
    else match s.commitStart x.domain (bits v 65 64) (bits v 70 68) with
      | .error st => s.endCommitPacket q addr st
      | .ok tag => s.setQueue q { x with st := .held, held := 5, commitTag := tag.toNat, statusAddr := addr }))

/-- SQUASH_PACKET (R143, R146). -/
def execSquashPacket (q : Nat) (s : State) : Host.Outcome State Fault Refusal :=
  .next (s.onPacket q .parse 6 (fun _ _ => field 191 128 ||| field 79 72 ||| field 65 0) (fun s x slots =>
    let v := slots.headD 0
    let addr := bits v 191 128
    if addr % 4 ≠ 0 then s.reject q 3 (x.slotAddr 0) (some v) []
    else match s.openSet? x.domain (bits v 65 64) with
      | none => s.endCommitPacket q addr 2
      | some y =>
        let st := squashStatus y (bits v 79 72)
        (if st = 0 then s.squashStep y (bits v 79 72) else s).endCommitPacket q addr st))

/-- The tag that a waiting COMMIT of a queue or wave names. -/
def State.waitingCommit? (s : State) (byQueue : Bool) (n : Nat) : Option Nat :=
  if byQueue then
    let q := s.queue n
    if q.st == .held && q.held == 5 && q.ending.isNone then some q.commitTag else none
  else match s.wave? n with
    | none => none
    | some w => (w.waitsFor Wait.commit?).map (·.2.2)

/-- The status that a COMMIT or SQUASH packet still has to write, once its page's miss has been answered (R468). -/
def State.statusDue? (s : State) (n : Nat) : Option Nat :=
  let q := s.queue n
  if q.st == .held && q.held == 5 && !s.isWaiting 0 n then q.ending else none

/-- COMMIT_QUIESCENT (R144, R145): the branch that a waiting COMMIT names is quiescent; the commit step is performed, or the
COMMIT of a DOOMED branch ends with status 1. A packet that only its status word kept writes it. -/
def execCommitQuiescent (byQueue : Bool) (n : Nat) (s : State) : Host.Outcome State Fault Refusal :=
  .next (match s.waitingCommit? byQueue n with
    | none => match (if byQueue then s.statusDue? n else none) with
      | some st => s.endCommitPacket n (s.queue n).statusAddr st
      | none => s
    | some t =>
      let tag := BitVec.ofNat 4 t
      match s.tagState t with
      | .live => if s.quiescent tag then s.commitStep tag else s
      | .doomed =>
        if !s.quiescent tag then s
        else if byQueue then s.endCommitPacket n (s.queue n).statusAddr 1
        else (match s.wave? n with
          | some w => s.endCommitWave w 1
          | none => s)
      | _ => s.resolveCommits)

/-- SCRUB (R149, R150): a home slice converts the COMMITTED version of a line, or releases its SQUASHED ones; attachments of
squashed tags that were found since go, and tags without attachments return to FREE. -/
def execScrub (line : Nat) (s : State) : Host.Outcome State Fault Refusal :=
  .next (if s.dev == .d3hot then s else
    let s1 := s.convert line
    let s2 : State := { s1 with
      versions := s1.versions.filter (fun v => !(v.line == line && s1.tagState v.tag.toNat == .squashed)) }
    (s2.sweep).freeTags)

/-- A flip's done word (R437): translated through the head's domain. -/
def State.flipDone (s : State) (h : Head) (addr v : Nat) : State :=
  if addr = 0 then s
  else s.devWrite { domain := h.domain, va := addr, bytes := toBytes 4 v, add := false, code := 5, lcore := 0xFFFF,
                    wave := 0xFF, launch := BitVec.allOnes 64, chain := none, waits := none }

/-- Puts a flip at the end of a head's queue. -/
def State.queueFlip (s : State) (h : Nat) (f : Flip) : State :=
  let x := s.head h
  s.setHead h { x with flips := x.flips ++ [f] }

/-- FLIPQ (R435). -/
def execFlipq (d a : BitVec 7) (s : State) : Host.Outcome State Fault Refusal :=
  s.issue (fun c =>
    let fs := (List.range 5).map (fun i => a.toNat + i)
    let o : OpSpec := { regs := d.toNat :: fs, pairs := [a.toNat], first := fs
                        writes := c.act.map (fun l => c.w.put l d.toNat 0 (mkTag 3 0)) }
    let surf := c.w.pair c.first a.toNat
    let done := c.w.pair c.first (a.toNat + 2)
    let hd := (c.w.reg c.first (a.toNat + 4)).toNat
    let h := c.s.head hd
    let st := if surf % 4096 ≠ 0 ∨ done % 4 ≠ 0 ∨ hd > 3 then 3
      else if h.domain ≠ c.dom then 3
      else if !h.scanning then 2 else if h.flips.length ≥ 16 then 1 else 0
    do
      c.check o
      let w ← c.regionOf o
      let (s, w) := c.s.writeTags w o.writes
      let t := c.doneEffect s (w.writeLanes d.toNat c.act st)
      pure (if st = 0 then t.queueFlip hd { surface := surf, doneAddr := done, tag := c.w.tag } else t))

/-- A FLIP packet is queued or discarded, and consumed (R436); while its head's queue is full, the queue is in HELD. -/
def State.takeFlip (s : State) (n : Nat) (q : Queue) (v : Nat) : State :=
  let hd := bits v 161 160
  let h := s.head hd
  let done := bits v 255 192
  if bits v 127 64 % 4096 ≠ 0 ∨ done % 4 ≠ 0 then s.reject n 3 (q.slotAddr 0) (some v) []
  else if h.domain ≠ q.domain then s.reject n 3 (q.slotAddr 0) (some v) []
  else if !h.scanning then s.reject n 10 (q.slotAddr 0) (some v) []
  else if h.flips.length ≥ 16 then (if q.st == .held then s else s.setQueue n { q with st := .held, held := 7 })
  else
    let f : Flip := { surface := bits v 127 64, doneAddr := done, tag := 0 }
    if !bit v 162 then (s.queueFlip hd f).consume n 1
    else match s.commitStart q.domain (bits v 169 168) (bits v 166 164) with
      | .error _ => (s.flipDone h done 2).consume n 1
      | .ok tag => (s.queueFlip hd { f with tag := tag }).consume n 1

/-- The bits of a FLIP packet that are not reserved (R435). -/
def flipUsed : Nat := field 255 192 ||| field 169 168 ||| field 166 164 ||| field 162 160 ||| field 127 0

/-- FLIP (R436). -/
def execFlip (q : Nat) (s : State) : Host.Outcome State Fault Refusal :=
  .next (s.onPacket q .parse 7 (fun _ _ => flipUsed) (fun s x slots => s.takeFlip q x (slots.headD 0)))

/-- FLIP_QUEUE_ADMIT (R436): the head's queue has room for a FLIP that waits in HELD. -/
def execFlipQueueAdmit (q : Nat) (s : State) : Host.Outcome State Fault Refusal :=
  .next (if (s.queue q).held = 7 then
    s.onPacket q .held 7 (fun _ _ => flipUsed) (fun s x slots => s.takeFlip q x (slots.headD 0))
  else s)

/-- The parts of a range that lie within one 2 KiB unit each: address and length. -/
def rangeUnits : Nat → Nat → Nat → List (Nat × Nat)
  | 0, _, _ => []
  | f + 1, va, n =>
    if n = 0 then []
    else
      let k := Nat.min n (2048 - va % 2048)
      (va, k) :: rangeUnits f ((va + k) % 2 ^ 64) (n - k)

/-- VDROP (R434): every page of the range is translated as a write, and the issuing branch's versions of its lines are
discarded. -/
def execVdrop (a b : BitVec 7) (s : State) : Host.Outcome State Fault Refusal :=
  s.issue (fun c =>
    let fs := [a.toNat, a.toNat + 1, b.toNat]
    let va := c.addrAt a.toNat 0 c.first
    let n := (c.w.reg c.first b.toNat).toNat
    do
      c.checkRegs fs
      c.checkFormat [a.toNat] [] true
      c.checkPoison [] fs []
      c.checkOnce [(va % 128 != 0, va), (n % 128 != 0 || decide (n > 2 ^ 31), n)]
      let units := rangeUnits (n / 2048 + 2) va n
      match ← c.onceXlate .write (units.map (·.1)) with
      | .wait t => pure t
      | .go xs =>
        let w ← c.region (fs.map (fun f => c.w.rowOf c.first f)) []
        let lines := (units.zip xs).filter (fun x => x.2.ver)
        let hit : Nat → Bool := fun line => lines.any (fun x =>
          decide (lineOf x.2.key ≤ line) && decide (line < lineOf x.2.key + x.1.2 / 128))
        let s1 : State := if c.w.tag = 0 then c.s else
          { c.s with versions := c.s.versions.filter (fun v => !(v.tag == c.w.tag && hit v.line)) }
        pure (c.doneEffect s1 w))

end Sys2Proof.Machine
end

