-- ==== Sys2Proof/Machine/Display.lean ====
section
/-!
DEFINITION. The display heads (R437, R445, R446): enabling, disabling, vertical blanks and configuration.
-/

namespace Sys2Proof.Machine

/-- HEADMODE's bytes per row. -/
def Head.pitch (h : Head) : Nat := bits h.mode.toNat 63 32

/-- Whether a head with its configuration scans out when it is enabled (R445). -/
def Head.canScan (h : Head) : Bool := h.refresh != 0 && h.vtotal != 0 && decide (h.height < h.vtotal)

/-- Whether a head's enable bit is 1. -/
def Head.enabled (h : Head) : Bool := h.ctl.getLsbD 0

/-- The first page of a surface, from a page on, that does not translate for scan-out: its error. -/
def State.surfaceError (s : State) (h dom va : Nat) : List Nat → Option (Nat × XErr)
  | [] => none
  | i :: t =>
    match s.xlateFor 4 h dom (va + 4096 * i) .read with
    | .error e => some (va + 4096 * i, e)
    | .ok _ => s.surfaceError h dom va t

/-- A head scans out a surface (R445, R446): one that faults in translation is shown as black, with a record of source 0x11; a
replayable miss waits. A frame of a surface that the frame before it showed already (`again`) has its record only where the
fault is new (DEDUCED; log entry 94). -/
def State.present (s : State) (h surface : Nat) (again : Bool) : State :=
  let x := s.head h
  let put := fun (s : State) (black : Bool) => s.setHead h { s.head h with current := surface, black := black }
  if surface = 0 then put s true
  else match s.surfaceError h x.domain surface (List.range ((x.pitch * x.height + 4095) / 4096)) with
    | none => put (s.goneOn 4 h) false
    | some (_, .cause c) =>
      if again && x.black && !s.isWaiting 4 h then s
      else (put (s.goneOn 4 h) true).errorRecord 0x11 c surface Who.none [(0, h)]
    | some (va, .miss level) =>
      put (s.waitOn 4 h x.domain va level (accessBits .read false) (BitVec.ofNat 64 (2 ^ 64 - 1)) 0xFFFFFFFF) true

/-- Removes flips with done word 2 (R437). -/
def State.discardFlips (s : State) (h : Nat) (gone : Flip → Bool) : State :=
  let x := s.head h
  (x.flips.filter gone).foldl (fun (s : State) f => s.flipDone x f.doneAddr 2)
    (s.setHead h { x with flips := x.flips.filter (fun f => !gone f) })

/-- One vertical blank (R437); a surface that is kept is read again for the frame that follows (R445). -/
def State.blank (s : State) (h : Nat) : State :=
  let s1 := s.discardFlips h (fun f => s.dropsTag f.tag)
  let x := s1.head h
  let s2 := s1.setHead h { x with frames := x.frames + 1 }
  match x.flips with
  | [] => s2.present h x.current true
  | f :: rest =>
    if f.tag = 0 ∨ s.tagState f.tag.toNat = .committed then
      let s3 := (s2.setHead h { x with frames := x.frames + 1, flips := rest }).present h f.surface false
      (s3.flipDone x f.doneAddr 1).freeTags
    else s2.present h x.current true

/-- Whether a head's next vertical blank has come (R445). -/
def State.blankDue (s : State) (h : Nat) : Bool :=
  let x := s.head h
  x.scanning && decide (s.ns ≥ x.blankAt x.frames)

/-- VBLANK (R437): the head's next vertical blank begins. -/
def execVblank (h : Nat) (s : State) : Host.Outcome State Fault Refusal :=
  .next (if s.blankDue h then (s.blank h).freeTags else s)

/-- HEAD_ENABLE (R445, R446): enable becomes 1; the head scans out HEADSURF, unless its mode has no frames. -/
def execHeadEnable (h : Nat) (s : State) : Host.Outcome State Fault Refusal :=
  .next (
    let x := s.head h
    if h ≥ 4 || x.enabled || s.dev != .d0 then s
    else
      let on := x.canScan
      let y := { x with ctl := (x.ctl &&& ~~~3#64) ||| (if on then 3 else 1), scanning := on, enabledAt := s.ns, frames := 0,
                        flips := [], black := true, current := 0 }
      if on then (s.setHead h y).present h (bits x.surf.toNat 63 12 * 4096) false else s.setHead h y)

/-- HEAD_DISABLE (R437, R446): enable becomes 0; scan-out stops and the queued flips are removed. -/
def execHeadDisable (h : Nat) (s : State) : Host.Outcome State Fault Refusal :=
  .next (
    let x := s.head h
    if h ≥ 4 || !x.enabled || s.dev != .d0 then s
    else
      let s1 := s.discardFlips h (fun _ => true)
      let y := s1.head h
      ((s1.setHead h { y with ctl := y.ctl &&& ~~~3#64, scanning := false, black := true }).goneOn 4 h).freeTags)

/-- HEAD_CONFIG_WRITE (R446): HEADCTL's fields but enable and scanning (0), HEADMODE (1), HEADSURF (2) and HEADDOM (3), only
while enable is 0. -/
def execHeadConfigWrite (h reg : Nat) (v : DWord) (s : State) : Host.Outcome State Fault Refusal :=
  .next (
    let x := s.head h
    if h ≥ 4 || x.enabled || s.dev != .d0 then s
    else match reg with
      | 0 => s.setHead h { x with ctl := v &&& 0xFFFFFFFF000000FC#64 }
      | 1 => s.setHead h { x with mode := v }
      | 2 => s.setHead h { x with surf := v &&& 0xFFFFFFFFFFFFF000#64 }
      | 3 => s.setHead h { x with dom := v &&& 0xFFFF#64 }
      | _ => s)

end Sys2Proof.Machine
end

