-- ==== Sys2Proof/Machine/Classes.lean ====
section
/-!
DEFINITION. The issue classes of instruction words (R48, R50) and what a word may have to wait for in its slot (R177).
-/

namespace Sys2Proof.Machine

/-- The classes of an instruction (R50): memory-class, other variable latency, effect and control; none set is plain. -/
structure IssueClass where
  s1 : Bool := false
  s2 : Bool := false
  effect : Bool := false
  control : Bool := false
  deriving DecidableEq, Repr

/-- The major opcode of a word (R36). -/
def major (w : Word) : Nat := bits w.toNat 31 26

/-- The function of a word of formats A and G. -/
def fnA (w : Word) : Nat := bits w.toNat 3 0

/-- The function of a word of format T. -/
def fnT (w : Word) : Nat := bits w.toNat 1 0

/-- Plain. -/
def IssueClass.plain : IssueClass := {}

/-- An effect. -/
def IssueClass.eff : IssueClass := { effect := true }

/-- The class of an atomic (R38, R48): memory-class unless its d field is 0x7F. -/
def amoClass (w : Word) : IssueClass :=
  { s1 := bits w.toNat 25 19 != 0x7F || (major w == 0x29 && fnT w == 3), effect := true }

/-- The classes that the opcode map gives a legal word (R48), by its major. -/
def mapClass (w : Word) : IssueClass :=
  match major w with
  | 0x12 => { s2 := true }
  | 0x14 => { s2 := decide (8 ≤ bits w.toNat 11 7) && decide (bits w.toNat 11 7 ≤ 18) }
  | 0x16 => { s2 := true }
  | 0x18 => { s2 := true }
  | 0x20 => { s1 := true }
  | 0x21 => .eff
  | 0x22 => { s1 := true }
  | 0x24 => { s1 := true }
  | 0x25 => .eff
  | 0x26 => amoClass w
  | 0x27 => amoClass w
  | 0x28 => amoClass w
  | 0x29 => amoClass w
  | 0x2A => { s1 := true, effect := fnT w != 2 }
  | 0x2B => { effect := fnA w != 0 }
  | 0x2C => { effect := fnA w != 5 }
  | 0x2D => { effect := fnA w != 5 }
  | 0x2E => { s1 := fnA w == 5, control := fnA w == 6, effect := decide (fnA w < 5) }
  | 0x2F => { s1 := fnA w == 3, effect := fnA w != 3 }
  | 0x30 => .eff
  | 0x31 => { effect := fnA w == 1 }
  | 0x32 => .eff
  | 0x33 => { effect := fnA w == 3 || fnA w == 5 || fnA w == 6 }
  | 0x34 => { control := fnA w == 1, effect := decide (fnA w ≥ 2) }
  | 0x35 => { effect := fnA w == 1 || fnA w == 5 }
  | 0x36 => { control := true }
  | 0x37 => { control := true }
  | 0x3E => { control := fnA w != 6 }
  | m => { control := decide (0x38 ≤ m) && decide (m ≤ 0x3D) }

/-- The classes of a word; an illegal word counts as plain (R54). -/
def classOf (w : Word) : IssueClass :=
  match decode w with
  | .ok _ => mapClass w
  | .error _ => .plain

/-- Whether one word of a run keeps the placement rules (R50): effects and control stand last, and a variable-latency class
needs its flag. -/
def placed (sf1 sf2 : Nat) (last : Bool) (k : IssueClass) : Bool :=
  (last || !(k.effect || k.control)) && (!k.s1 || decide (sf1 < 12)) && (!k.s2 || decide (sf2 < 12))

/-- Whether a run's words keep the placement rules (R50, R54). -/
def placementOk (sf1 sf2 : Nat) : List Word → Bool
  | [] => true
  | [w] => placed sf1 sf2 true (classOf w)
  | w :: t => placed sf1 sf2 false (classOf w) && placementOk sf1 sf2 t

/-- How far an instruction word that is performed at issue releases what its wave did before (R345, R285): 0 not at all, 1
within the team for BARA, BARW, RPUB and RREL, 2 within the cluster group for CBAR, 3 for every agent for ENQT, ENQTN, TRACEQ,
CBPUT, COMMIT, SQUASH and FLIPQ. -/
def releaseScope (w : Word) : Nat :=
  match major w with
  | 0x2B => if fnA w = 0 then 0 else if fnA w = 3 then 2 else 1
  | 0x2D => if fnA w = 2 ∨ fnA w = 4 then 1 else 0
  | 0x2F => if fnA w = 1 then 3 else 0
  | 0x30 => 3
  | 0x31 => if fnA w = 1 then 3 else 0
  | 0x34 => if fnA w = 2 ∨ fnA w = 3 ∨ fnA w = 4 then 3 else 0
  | _ => 0

/-- Whether an instruction word reads memory as it issues: CBOPEN, ENQT, ENQTN and DIGEST. The queue operations look at their
blocks too, for their checks alone. -/
def readsAtIssue (w : Word) : Bool :=
  match major w with
  | 0x2F => fnA w == 0
  | 0x30 => true
  | 0x35 => fnA w == 5
  | _ => false

/-- How many registers a register field of a word may span at most, for the interlock of R177. -/
def fieldSpan (w : Word) : Nat :=
  match major w with
  | 0x22 => 2 ^ bits w.toNat 6 5
  | 0x23 => 2 ^ bits w.toNat 6 5
  | 0x26 => 3
  | 0x27 => 3
  | 0x28 => 4
  | 0x29 => 5
  | 0x2A => 8
  | 0x2C => 4
  | 0x2E => 4
  | 0x2F => 8
  | 0x30 => 8
  | 0x31 => 16
  | 0x32 => 128
  | 0x33 => 128
  | 0x34 => 8
  | 0x35 => 4
  | _ => 2

/-- The field below the window that a call with n registers writes its link to, v[n − 1] (R210, R211). -/
def linkFields (w : Word) : List Nat :=
  match decode w with
  | .ok (.call n _) => [n.toNat - 1]
  | .ok (.callv _ n) => [n.toNat - 1]
  | _ => []

/-- The register fields of a word, as fields 0 to 127, with that of a call's link. -/
def wordFields (w : Word) : List Nat :=
  linkFields w ++ [bits w.toNat 25 19, bits w.toNat 18 12, bits w.toNat 11 5].flatMap (fun f =>
    (List.range (fieldSpan w)).map (fun i => f + i))

end Sys2Proof.Machine
end

