-- ==== Sys2Proof/Machine/Placement.lean ====
section
/-!
DEFINITION. Placement (R153 to R167): the resources of cores, the launch processor's order, the checks at dispatch (R19,
R111) and the start of a wave (R114, R122).
-/

namespace Sys2Proof.Machine

/-- The registers per lane that an allotment code stands for (R21). -/
def allotOf (code : Nat) : Nat := ([64, 96, 128, 192, 256, 384, 512][code]?).getD 64

/-- A role of a launch record (R21): waves, allotment and issue priority. -/
structure RoleWord where
  waves : Nat
  allot : Nat
  prio : Nat
  deriving DecidableEq, Repr

/-- A launch's role (R21, R110). -/
def Launch.role (l : Launch) (i : Nat) : RoleWord :=
  let v := l.field (287 + 32 * i) (256 + 32 * i)
  { waves := bits v 31 24, allot := allotOf (bits v 23 20), prio := bits v 18 16 }

/-- The lanes of a launch's waves (R110). -/
def Launch.width (l : Launch) : Nat := 16 * 2 ^ l.field 113 112

/-- The roles of a team's waves in wave order: role 0's waves first (R34, R154). -/
def Launch.waveRoles (l : Launch) : List Nat :=
  (List.range 4).flatMap (fun i => List.replicate (l.role i).waves i)

/-- The register rows that a wave takes (R153). -/
def rowCost (allot width : Nat) : Nat := (allot + 32) * width / 32

/-- What is free in a quarter of a core: register rows and wave slots (R153). -/
structure QuarterFree where
  rows : Nat
  slots : Nat
  deriving DecidableEq, Repr

/-- An empty quarter. -/
def QuarterFree.empty : QuarterFree := { rows := 1024, slots := 16 }

/-- Whether a wave's unit has been saved, so that it holds nothing on a core (R402). -/
def State.waveSaved (s : State) (w : Wave) : Bool :=
  match s.team? w.team with
  | none => false
  | some t => match tget s.grps t.grp with
    | some g => decide (g.status ≥ 2)
    | none => false

/-- Whether a team's unit has been saved. -/
def State.teamSaved (s : State) (t : Team) : Bool :=
  match tget s.grps t.grp with
  | some g => decide (g.status ≥ 2)
  | none => false

/-- What is free in the quarters of a physical core. -/
def State.quarters (s : State) (core : Nat) : List QuarterFree :=
  (List.range 4).map (fun q =>
    let here := (tvals s.waves).filter (fun w => w.pcore == core && w.quarter == q && !s.waveSaved w)
    { rows := 1024 - here.foldl (fun n w => n + rowCost w.allot w.width) 0, slots := 16 - here.length })

/-- The scratchpad bytes free on a physical core (R153). -/
def State.scratchFree (s : State) (core : Nat) : Nat :=
  262144 - ((tvals s.teams).filter (fun t => t.pcore == core && !s.teamSaved t)).foldl (fun n t => n + t.granted) 0

/-- The accumulator tiles free in a physical cluster (R153). -/
def State.tilesFree (s : State) (cluster : Nat) : Nat :=
  64 - ((tvals s.teams).filter (fun t => t.pcore / 4 == cluster && !s.teamSaved t)).foldl (fun n t => n + t.accTiles) 0

/-- The quarter with the most free rows among those that a wave fits, ties to the lowest number (R154). -/
def pickQuarter (qs : List QuarterFree) (rows : Nat) : Option Nat :=
  let fit := (qs.zipIdx).filter (fun q => decide (q.1.slots > 0) && decide (rows ≤ q.1.rows))
  match fit with
  | [] => none
  | q :: t => some (t.foldl (fun b x => if x.1.rows > b.1.rows then x else b) q).2

/-- The free resources after a wave has taken its quarter. -/
def takeQuarter (qs : List QuarterFree) (i rows : Nat) : List QuarterFree :=
  (qs.zipIdx).map (fun q => if q.2 = i then { rows := q.1.rows - rows, slots := q.1.slots - 1 } else q.1)

/-- Assigns waves to quarters in order (R154): each is given by which of the unit's cores it runs on and its rows; answers
the quarters. The procedure does not backtrack. -/
def assignQuarters : List (List QuarterFree) → List (Nat × Nat) → Option (List Nat)
  | _, [] => some []
  | cores, (c, rows) :: t =>
    match pickQuarter ((cores[c]?).getD []) rows with
    | none => none
    | some q => match assignQuarters (lset cores c (takeQuarter ((cores[c]?).getD []) q rows)) t with
      | none => none
      | some qs => some (q :: qs)

/-- The waves of a team as quarters are assigned: which core of a pair (R157), and the rows. -/
def Launch.waveCosts (l : Launch) : List (Nat × Nat) :=
  (l.waveRoles.zipIdx).map (fun r =>
    (if l.field 114 114 = 1 then r.2 % 2 else 0, rowCost (l.role r.1).allot l.width))

/-- The scratchpad bytes granted to a team (R153). -/
def Launch.granted (l : Launch) : Nat := (l.field 415 384 + 1023) / 1024 * 1024

/-- The cores that a team takes from a first one on (R157). -/
def Launch.cores (l : Launch) (p : Nat) : List Nat := if l.field 114 114 = 1 then [p, p + 1] else [p]

/-- Whether a team fits the physical core p, or the pair from p on (R153, R154): the quarters of its waves. -/
def State.teamFits (s : State) (l : Launch) (p : Nat) : Option (List Nat) :=
  if l.granted > s.scratchFree p ∨ l.field 247 240 > s.tilesFree (p / 4) then none
  else assignQuarters ((l.cores p).map s.quarters) l.waveCosts

/-- Whether a team, pair or cluster group fits otherwise empty cores (R155): every team of a group has cores of its own. -/
def Launch.fitsEmpty (l : Launch) : Bool :=
  decide (l.granted ≤ 262144) &&
    (assignQuarters [List.replicate 4 QuarterFree.empty, List.replicate 4 QuarterFree.empty] l.waveCosts).isSome

/-- Whether a physical column is closed to dispatch (R448). -/
def State.isClosed (s : State) (col : Nat) : Bool := (tgetD s.columns col Column.reset).closed

/-- The nearest open physical column of a partition to a physical column (R167). -/
def State.nearestOpen (s : State) (partition col : Nat) : Option Nat :=
  (nearest col).find? (fun c => c / s.partitionColumns == partition && !s.isClosed c)

/-- The physical core for a logical core in deterministic mode: its host, or the core of the same index in the nearest open
column (R167). -/
def State.detCore (s : State) (partition lcore : Nat) : Option Nat :=
  let p := s.hostCore partition lcore
  if s.isClosed (p / 16) then (s.nearestOpen partition (p / 16)).map (fun c => 16 * c + p % 16) else some p

/-- The effective priority of a launch's next unit (R95). -/
def Launch.effective (l : Launch) : Nat := let p := l.field 251 248; if p = 0 then l.qprio else p - 1

/-- The spill areas of a launch that no wave holds, ascending (R114). -/
def State.spillFree (s : State) (l : Launch) : List Nat :=
  let held := ((tvals s.waves).filter (fun w => w.launch == l.uid)).filterMap (·.spill)
  (List.range (l.field 959 928)).filter (fun i => !held.contains i)

/-- Whether the spill areas suffice for some waves more (R114). -/
def State.spillFor (s : State) (l : Launch) (n : Nat) : Bool :=
  l.field 895 832 == 0 || decide ((s.spillFree l).length ≥ n)

/-- One team's place: its index, rank, logical core, physical core and the quarters of its waves. -/
structure Place where
  index : Nat
  rank : Nat
  lcore : Nat
  pcore : Nat
  quarters : List Nat
  deriving DecidableEq, Repr

/-- The places of the teams of a cluster group on the cores or pairs of a logical cluster (R158): distinct ones, in
ascending order, each team taking the first that it fits. -/
def State.groupPlaces (s : State) (l : Launch) (host : Nat → Option Nat) (det : Bool) :
    List (Nat × Nat) → List Nat → Option (List Place)
  | [], _ => some []
  | (t, rank) :: rest, cores =>
    let fit := cores.filterMap (fun c => match host c with
      | none => none
      | some p => (s.teamFits l p).map (fun q => (c, p, q)))
    let mine := if det then (fit.filter (fun f => some f.1 == cores.head?)).head? else fit.head?
    match mine with
    | none => none
    | some (c, p, q) => match s.groupPlaces l host det rest (cores.filter (fun x => x != c)) with
      | none => none
      | some ps => some ({ index := t, rank := rank, lcore := c, pcore := p, quarters := q } :: ps)

/-- The teams of a unit: index and rank (R158). -/
def Launch.unitTeams (l : Launch) (u : Nat) : List (Nat × Nat) :=
  let c := l.groupSize
  let n := Nat.min c (l.gridTeams - c * u)
  (List.range n).map (fun r => (c * u + r, if l.field 118 116 = 0 then 0 else r))

/-- The places of a unit on the site numbered i: a core, a pair (with pair_span), or a logical cluster (with cluster_teams),
on cores from a first one on. Its waves need their spill areas (R114). -/
def State.unitAt (s : State) (l : Launch) (u i first : Nat) : Option (List Place) :=
  let det := l.field 119 119 == 1
  let pair := l.field 114 114 == 1
  let host : Nat → Option Nat := fun c =>
    if det then s.detCore l.partition c
    else let p := s.hostCore l.partition c; if s.isClosed (p / 16) then none else some p
  let step := if pair then 2 else 1
  let onward : List Nat → List Nat := fun cs => cs.filter (fun c => decide (first ≤ c))
  if !s.spillFor l (l.waveRoles.length * (l.unitTeams u).length) then none
  else if l.field 118 116 = 0 then s.groupPlaces l host det (l.unitTeams u) (onward [step * i])
  else
    let cores := onward ((List.range (4 / step)).map (fun k => 4 * i + step * k))
    let ps := s.groupPlaces l host det (l.unitTeams u) cores
    match ps with
    | some (p :: t) =>
      if s.tilesFree (p.pcore / 4) < l.field 247 240 * (t.length + 1) then none else ps
    | _ => ps

/-- The number of sites of a launch's units: logical cores, pairs or clusters (R156, R164). -/
def Launch.sites (l : Launch) : Nat := if l.field 118 116 ≠ 0 then 64 else if l.field 114 114 = 1 then 128 else 256

/-- The instance of a launch that dispatches next: the first that has units left (R132). -/
def Launch.nextInst (l : Launch) : Option (Nat × Inst) :=
  ((l.insts.zipIdx).find? (fun i => decide (l.leftToDispatch i.1 > 0))).map (fun i => (i.2, i.1))

/-- The sites at which the search for a unit's place looks outside deterministic mode, each with the first core that it may take
there (R156): from the core that follows the one that received the previous team, on to the last and around. -/
def Launch.searchOrder (l : Launch) : List (Nat × Nat) :=
  let m := l.sites
  match l.lastCore with
  | none => (List.range m).map (fun j => (j, 0))
  | some c =>
    let k := c / (256 / m)
    (k, c + 1) :: (List.range m).map (fun j => ((k + 1 + j) % m, 0))

/-- The next unit of a launch and where it goes: instance, unit, residue counter and places; none while nothing fits. Outside
deterministic mode the search starts after the core that received the previous team (R156); in deterministic mode each
site takes its own units in order (R164), and of the units that each have room on their site the one of the lowest index
is dispatched first: the specification does not order them, and this is the model's choice (DESIGN CHOICE, log entry 74). -/
def State.nextUnit (s : State) (l : Launch) : Option (Nat × Nat × Nat × List Place) :=
  match l.nextInst with
  | none => none
  | some (k, i) =>
    let m := l.sites
    if l.field 119 119 = 1 then
      ((List.range m).map (fun r => (r + m * tgetD i.next r 0, r))).foldl (fun best x =>
        if x.1 ≥ l.units || (match best with | some b => decide (b.2.1 ≤ x.1) | none => false) then best
        else match s.unitAt l x.1 x.2 0 with
          | some ps => some (k, x.1, x.2, ps)
          | none => best) none
    else
      let u := tgetD i.next 0 0
      (l.searchOrder.findSome? (fun x => s.unitAt l u x.1 x.2)).map (fun ps => (k, u, 0, ps))

/-- A wave that a Jig has formed: where it goes (R161, R165, R167), with its role's cost. -/
def State.taskPlace (s : State) (l : Launch) (f : Formed) (role : Nat) : Option Place :=
  let cost := [(0, rowCost (l.role role).allot l.width)]
  let fits : Nat → Nat → Option Place := fun lc p =>
    (assignQuarters [s.quarters p] cost).map (fun q => { index := 0, rank := 0, lcore := lc, pcore := p, quarters := q })
  if !s.spillFor l 1 then none
  else if l.field 119 119 = 1 then
    let n := match f.tasks with
      | t :: _ => t.accept % 256
      | [] => 0
    match s.detCore l.partition n with
    | none => none
    | some p => fits n p
  else
    let home := s.hostCore l.partition (16 * f.column) / 16
    if !s.isClosed home then
      (List.range 16).findSome? (fun i => let lc := 16 * f.column + i; fits lc (s.hostCore l.partition lc))
    else match s.nearestOpen l.partition home with
      | none => none
      | some c => (List.range 256).findSome? (fun lc =>
          let p := s.hostCore l.partition lc
          if p / 16 = c then fits lc p else none)

/-- The lane limit of a team (R111). -/
def Launch.laneLimit (l : Launch) : Nat := if l.field 114 114 = 1 then 2048 else 1024

/-- The launch fault cause that the record alone gives at the first dispatch (R111), lowest first. -/
def Launch.shapeFault (l : Launch) : Option Nat :=
  let waves := l.waveRoles.length
  let lanes := l.field 207 192 * Nat.max 1 (l.field 223 208) * Nat.max 1 (l.field 239 224)
  if waves = 0 ∨ waves > 64 ∨ lanes ≠ waves * l.width ∨ lanes > l.laneLimit then some 4
  else if l.field 415 384 > 262144 ∨ l.field 247 240 > 64 ∨ l.field 247 240 * Nat.min l.groupSize l.gridTeams > 64 then some 5
  else if l.field 114 114 = 1 ∧ l.field 118 116 > 2 then some 6
  else if !l.fitsEmpty then some 7 else none

/-- What the reads at dispatch come to: go on with a launch, wait for a miss, or a launch fault with its address. -/
inductive DispatchRead where
  | go (l : Launch)
  | miss (va level : Nat)
  | fault (cause addr : Nat)

/-- Reads the loaded-object header at a dispatch (R19). -/
def State.readHeader (s : State) (l : Launch) : DispatchRead :=
  let va := l.field 63 0
  match s.launchRead l va 64 with
  | .miss va level => .miss va level
  | .bad _ => .fault 3 va
  | .value h =>
    if bits h 319 304 ≠ 1 ∨ bits h 303 0 ≠ 0 then .fault 3 va
    else .go { l with dataAddr := bits h 511 448, handlerAddr := bits h 447 384, codeBytes := bits h 383 352 }

/-- The checks at dispatch, in ascending cause (R111); those of the record and the digest list are made at the first. -/
def State.dispatchChecks (s : State) (l : Launch) : DispatchRead :=
  match s.readHeader l with
  | .go m =>
    if l.headerRead then .go m
    else match l.shapeFault with
      | some c => .fault c l.recAddr
      | none =>
        let list := l.field 767 704
        if list = 0 then .go { m with headerRead := true }
        else match s.launchRead l list 16 with
          | .miss va level => .miss va level
          | .bad _ => .fault 8 list
          | .value h => if (digestHeader h).isNone then .fault 8 list else .go { m with headerRead := true }
  | r => r

/-- The places that the reads at a dispatch of a launch reach: its loaded-object header, and at the first its digest list. -/
def State.dispatchPlaces (s : State) (l : Launch) : List (Nat × Nat × Nat) :=
  s.launchPlaces l (l.field 63 0) 64 ++
    (if l.headerRead || l.field 767 704 == 0 then [] else s.launchPlaces l (l.field 767 704) 16)

/-- A launch fault at dispatch (R19, R111): no further team or task wave of the launch starts. -/
def State.dispatchFault (s : State) (l : Launch) (cause addr : Nat) : State :=
  let s1 := (s.launchFault l cause addr).goneOn 1 l.uid
  { s1 with
    pool := s1.pool.filter (fun t => t.launch != l.uid)
    heldTasks := s1.heldTasks.filter (fun h => h.task.launch != l.uid)
    formed := s1.formed.filter (fun f => !f.tasks.any (fun t => t.launch == l.uid)) }

/-- Whether a launch's next unit of teams could be dispatched now, its faults at dispatch included. -/
def State.unitReady (s : State) (l : Launch) : Bool :=
  !l.suspended && l.nextInst.isSome &&
    ((!l.headerRead && l.shapeFault.isSome) || (s.nextUnit l).isSome)

/-- The role that a task's entry names, where the Jig's read of the table gives one (R23, R122). -/
def State.taskRole (s : State) (l : Launch) (t : Task) : TableRead :=
  s.taskEntry l (s.cancelledPages 3 l.uid l.domain) t.tag t.entry

/-- Whether a task wave of a launch could be placed now. -/
def State.taskReady (s : State) (l : Launch) : Bool :=
  !l.suspended && s.formed.any (fun f => match f.tasks with
    | t :: _ => t.launch == l.uid && (match s.taskRole l t with
      | .entry _ role _ => (s.taskPlace l f role).isSome
      | _ => true)
    | [] => false)

/-- Whether a launch stands first, by effective priority and then acceptance, among those whose next unit fits (R96). A launch
whose dispatch waits for the answer to a page miss on its header, digest list or task table still counts as ready and holds
the launches behind it: the specification does not say, and this is the model's choice (DESIGN CHOICE, log entry 70). -/
def State.isServed (s : State) (l : Launch) : Bool :=
  !(tvals s.launches).any (fun m => m.uid != l.uid &&
    (decide (m.effective > l.effective) || (m.effective == l.effective && decide (m.order < l.order))) &&
    (s.unitReady m || s.taskReady m))

/-- A 64-bit value made of fields: value and lowest bit. -/
def fields64 (l : List (Nat × Nat)) : DWord := BitVec.ofNat 64 (l.foldl (fun n x => n + x.1 * 2 ^ x.2) 0)

/-- The values of k0 to k15 that all waves of a launch share (R114). -/
def Launch.commonK (l : Launch) : List (Nat × DWord) :=
  let one := fun hi lo => Nat.max 1 (l.field hi lo)
  [(1, fields64 [(l.field 159 128, 0), (one 175 160, 32), (one 191 176, 48)]),
   (2, fields64 [(l.field 207 192, 0), (one 223 208, 16), (one 239 224, 32)]),
   (4, BitVec.ofNat 64 (l.field 511 448)), (5, BitVec.ofNat 64 l.dataAddr), (6, BitVec.ofNat 64 l.recAddr),
   (7, BitVec.ofNat 64 (l.field 575 512)), (8, BitVec.ofNat 64 (l.field 639 576)),
   (10, BitVec.ofNat 64 (l.field 831 768)), (11, BitVec.ofNat 64 (l.field 703 640)), (13, l.id)] ++
  (l.args.zipIdx).map (fun a => (16 + a.2, a.1))

/-- The k registers of a wave: the common values and its own (R114). -/
def Launch.kStart (l : Launch) (own : List (Nat × DWord)) : Tbl DWord :=
  (l.commonK ++ own).foldl (fun t x => tset t x.1 x.2) []

/-- The address of a spill area (R114). -/
def Launch.spillAddr (l : Launch) (area : Option Nat) : DWord :=
  match area with
  | some i => BitVec.ofNat 64 (l.field 895 832 + i * l.field 927 896)
  | none => 0

/-- The lowest-numbered free spill area for a new wave (R114). -/
def State.spillArea (s : State) (l : Launch) : Option Nat :=
  if l.field 895 832 = 0 then none else (s.spillFree l).head?

/-- The start of a wave (R63, R64, R83, R114, R175, R178, R203, R204, R280, R405): live lanes stand at the entry, every other
lane has exited. -/
def newWave (uid team : Nat) (l : Launch) (idx role lcore pcore quarter entry clk : Nat) (spill : Option Nat)
    (tag : BitVec 4) (depth : Nat) (accepts : List Nat) (live : Nat) (rows : Tbl Row) (k : Tbl DWord) : Wave :=
  let r := l.role role
  let vpc := (List.range l.width).map (fun i => (i, if i < live then BitVec.ofNat 32 entry else exited))
  { uid := uid, team := team, launch := l.uid, idx := idx, role := role, width := l.width, allot := r.allot, prio := r.prio,
    lcore := lcore, pcore := pcore, quarter := quarter, spill := spill, tag := tag, depth := depth, accepts := accepts,
    vpc := vpc, wbase := [], hbase := [], wtop := r.allot, draw := [], rows := rows, k := k, kpoison := 0, fpctl := 0,
    fpflags := 0, trapcause := 0, traplanes := 0, trapinfo := 0, errstat := 0, seed := BitVec.ofNat 64 (l.field 703 640),
    lc := [], loops := [], recipes := [], run := none, pc := 0, target := [], reached := [], afterEffect := false,
    resume := []
    region := { vpc := vpc, wbase := [], wtop := r.allot, draw := [], lc := [], loops := [], parked := 0, parkMode := 0, mode := false }
    regionReads := [], regionWrites := [], regionSerial := 0, laterRegion := none, wait := .none, frame := none, mode := false, parked := 0, parkMode := 0, trap := none,
    fpPending := [], pend := [], nextPend := 0, debts := [], serial := 0, faultWait := none, cancelled := [], seenSc := false,
    ready := clk, raised := false, issued := 0, runs := 0, stallClk := 0, startClk := clk, stopping := false,
    taken := false, stall := none }

/-- A team as it is dispatched (R153, R264, R282, R373). -/
def newTeam (uid grp inst waves : Nat) (l : Launch) (p : Place) (isTask : Bool) : Team :=
  { uid := uid, launch := l.uid, inst := inst, index := p.index, isTask := isTask, grp := grp, rank := p.rank,
    lcore := p.lcore, pcore := p.pcore, pair := !isTask && l.field 114 114 == 1, waves := waves, retired := false,
    granted := if isTask then 0 else l.granted, scratch := [], scratchPoison := [], tiles := []
    accTiles := if isTask then 0 else l.field 247 240, barriers := [], rings := [] }

/-- A unit as it is dispatched (R95, R294, R309, R377). -/
def newGrp (uid : Nat) (l : Launch) (cluster : Nat) : Grp :=
  { uid := uid, launch := l.uid, teams := [], cluster := cluster, gangs := [], streams := [], cbar := Barrier.idle,
    status := 0, prio := l.effective, migrate := false, blocks := [], saved := [], drainClk := 0 }

/-- The k registers of a team's wave (R114). -/
def Launch.teamK (l : Launch) (p : Place) (branch : Nat) (tag : BitVec 4) (idx role : Nat) (spill : Option Nat) :
    Tbl DWord :=
  let gx := l.field 159 128
  let gy := Nat.max 1 (l.field 175 160)
  l.kStart [
    (0, fields64 [(p.index % gx, 0), (p.index / gx % gy, 32), (p.index / (gx * gy), 48)]),
    (3, fields64 [(idx, 0), (role, 8), (l.width, 16), (l.waveRoles.length % 256, 24), (idx * l.width, 32)]),
    (9, fields64 [(l.granted, 0), (p.rank, 32)]), (12, 0),
    (14, if tag = 0 then 0 else BitVec.ofNat 64 branch), (15, l.spillAddr spill)]

/-- Starts the waves of a team in order (R114, R154, R157). -/
def State.startWaves (s : State) (l : Launch) (team : Nat) (p : Place) (inst : Inst) :
    List ((Nat × Nat) × Nat) → State
  | [] => s
  | ((idx, role), quarter) :: rest =>
    let off := if l.field 114 114 = 1 then idx % 2 else 0
    let spill := s.spillArea l
    let (uid, s1) := s.newId
    let w := newWave uid team l idx role (p.lcore + off) (p.pcore + off) quarter (l.field 95 64)
      (s1.colClk ((p.pcore + off) / 16)) spill inst.tag 0 [] l.width [] (l.teamK p inst.branch inst.tag idx role spill)
    ({ s1 with waves := tset s1.waves uid w } : State).startWaves l team p inst rest

/-- Dispatches one team of a unit. -/
def State.startTeam (s : State) (l : Launch) (grp k : Nat) (inst : Inst) (p : Place) : State :=
  let (uid, s1) := s.newId
  let t := newTeam uid grp k l.waveRoles.length l p false
  let s2 : State := { s1 with teams := tset s1.teams uid t }
  let s3 := s2.modGrp grp (fun g => { g with teams := g.teams ++ [uid] })
  s3.startWaves l uid p inst (((l.waveRoles.zipIdx).map (fun r => (r.2, r.1))).zip p.quarters)

/-- A dispatch to a column ends its idle time (R449). -/
def State.wake (s : State) (col : Nat) : State :=
  s.modColumn col (fun c => if c.power == .active then { c with idleSince := c.clk } else { c with waking := true })

/-- Dispatches the next unit of a launch in one step (R153, R156, R158, R164). The header that this dispatch reads (R19) gives
the launch its code's bounds and its data and handler addresses, for the waves that already run too: the specification
does not say whether a later reading reaches them, and this is the model's choice (DESIGN CHOICE, log entry 72). -/
def State.dispatch (s : State) (l : Launch) (cluster : Bool) : State :=
  if l.suspended || s.isWaiting 1 l.uid || (l.field 118 116 != 0) != cluster || !s.isServed l || !s.unitReady l then s
  else match s.dispatchChecks l with
    | .miss va level => s.waitOn 1 l.uid l.domain va level (accessBits .read false) l.id 0xFFFFFFFF
    | .fault cause addr => s.dispatchFault l cause addr
    | .go m =>
      match s.nextUnit l with
      | none => s
      | some (k, _, key, ps) =>
        match l.insts[k]? with
        | none => s
        | some inst =>
          let (grp, s1) := (s.convertAt (s.dispatchPlaces l)).newId
          let first := match ps with
            | p :: _ => p.pcore / 4
            | [] => 0
          let last := match ps.getLast? with
            | some p => if l.field 114 114 = 1 then p.lcore + 1 else p.lcore
            | none => 0
          let m1 := { m with
            lastCore := some last
            insts := lset m.insts k { inst with next := tset inst.next key (tgetD inst.next key 0 + 1) } }
          let s2 : State := { s1 with launches := tset s1.launches l.uid m1, grps := tset s1.grps grp (newGrp grp l first) }
          let s3 := ps.foldl (fun (s : State) p => (s.startTeam m1 grp k inst p).wake (p.pcore / 16)) s2
          s3.goneOn 1 l.uid

/-- TEAM_DISPATCH (R153, R156). -/
def execTeamDispatch (l : Nat) (s : State) : Host.Outcome State Fault Refusal :=
  .next (match s.launch? l with
    | some x => s.dispatch x false
    | none => s)

/-- CLUSTER_GROUP_DISPATCH (R158). -/
def execClusterGroupDispatch (l : Nat) (s : State) : Host.Outcome State Fault Refusal :=
  .next (match s.launch? l with
    | some x => s.dispatch x true
    | none => s)

end Sys2Proof.Machine
end

