-- ==== Sys2Proof/Machine/Jig.lean ====
section
/-!
DEFINITION. The Jig (R120 to R122): bins of a column's tasks, the waves formed from them, and their placement (R161).
-/

namespace Sys2Proof.Machine

/-- Whether two tasks of a column's share belong to one bin (R120). -/
def Task.sameBin (a b : Task) : Bool :=
  a.launch == b.launch && a.entry == b.entry && a.key == b.key && a.tag == b.tag && a.depth == b.depth

/-- The bin of a task in a column's share, in ascending acceptance number (R120). -/
def State.bin (s : State) (col : Nat) (t : Task) : List Task :=
  sortBy (fun a b => decide (a.accept ≤ b.accept)) (s.pool.filter (fun x => x.share == col && x.sameBin t))

/-- The task of a column's share with an id. -/
def State.poolTask? (s : State) (col id : Nat) : Option Task :=
  s.pool.find? (fun t => t.id == id && t.share == col)

/-- The tasks of a bin of a launch leave the pool as one wave, with their acceptance numbers (R81, R117, R120). -/
def State.formWave (s : State) (col : Nat) (l : Launch) (ts : List Task) : State :=
  let (id, s1) := s.newId
  { s1 with pool := s1.pool.filter (fun t => !ts.any (fun x => x.id == t.id))
            formed := s1.formed ++ [{ id := id, column := col, tasks := ts.map (fun t => { t with accept := l.numberOf t.accept }) }] }

/-- Whether a launch's tasks may be formed into waves: it is not suspended (R401), and no dispatch of it has failed (R19). -/
def State.mayForm (s : State) (t : Task) : Option Launch :=
  match s.launch? t.launch with
  | some l => if l.suspended || l.stopDispatch then none else some l
  | none => none

/-- JIG_FORM_WAVE (R120, R121): a bin holds a full wave of tasks. In deterministic mode no task of an earlier number is still on
its way, so that the wave's content is the same from run to run. -/
def execJigFormWave (col task : Nat) (s : State) : Host.Outcome State Fault Refusal :=
  .next (match s.poolTask? col task with
    | none => s
    | some t => match s.mayForm t with
      | none => s
      | some l =>
        let b := s.bin col t
        let ts := b.take l.width
        if b.length < l.width ∨ (l.field 119 119 = 1 ∧ s.earlierTasks l (maxOf (ts.map (·.accept)))) then s
        else s.formWave col l ts)

/-- JIG_TIMEOUT (R121): the bin's oldest task has waited 2,048 clk; a partial wave is formed outside deterministic mode. -/
def execJigTimeout (col task : Nat) (s : State) : Host.Outcome State Fault Refusal :=
  .next (match s.poolTask? col task with
    | none => s
    | some t => match s.mayForm t with
      | none => s
      | some l =>
        let b := s.bin col t
        let oldest := minOf 0 (b.map (·.clk))
        if b.length ≥ l.width ∨ l.field 119 119 = 1 ∨ s.hostClk l.uid col < oldest + 2048 then s else s.formWave col l b)

/-- Whether nothing of a launch is left that could bring a task or take a place before a partial wave (R121): no wave of it is
resident, none is formed or still to be dispatched, no bin is full, no task, ray or combine-buffer move of it is under way, and
no token of its combine groups may be released now; when a group's deadline comes is a matter of time. -/
def State.isQuiet (s : State) (l : Launch) : Bool :=
  !(tvals s.waves).any (fun w => w.launch == l.uid) && !l.insts.any (fun i => decide (l.leftToDispatch i > 0)) &&
    !s.formed.any (fun f => f.tasks.any (fun t => t.launch == l.uid)) &&
    !s.heldTasks.any (fun h => h.task.launch == l.uid) && !(tvals s.rays).any (fun r => r.launch == l.uid) &&
    !(tvals s.moves).any (fun m => m.launch == l.uid) &&
    !(tvals s.groups).any (fun g => g.launch == l.uid && g.nextToken.isSome) &&
    s.pool.all (fun t => t.launch != l.uid || decide ((s.bin t.share t).length < l.width))

/-- JIG_DET_PARTIAL_WAVE (R121): in deterministic mode a partial wave is formed when no wave of the launch is resident, and so
that the content of every wave is the same from run to run: when the launch is quiet, of the bin that holds its task of the
lowest acceptance number (DEDUCED, log entry 75). -/
def execJigDetPartialWave (col task : Nat) (s : State) : Host.Outcome State Fault Refusal :=
  .next (match s.poolTask? col task with
    | none => s
    | some t => match s.mayForm t with
      | none => s
      | some l =>
        let b := s.bin col t
        let first := b.any (fun x => s.pool.all (fun y => y.launch != l.uid || decide (x.accept ≤ y.accept)))
        if l.field 119 119 ≠ 1 ∨ !s.isQuiet l ∨ !first then s else s.formWave col l b)

/-- The rows that hold the tasks' records at the start of a task wave (R122): v0 to v7, tag 0x0000. -/
def taskRows (ts : List Task) : Tbl Row :=
  (List.range 8).map (fun i =>
    (i, { tag := 0, poison := 0, seen := 0, elems := (ts.zipIdx).map (fun t => (t.2, (t.1.record[i]?).getD 0)) }))

/-- The branch index of a tag in its set (R133). -/
def State.branchIndex (s : State) (tag : BitVec 4) : Nat :=
  match s.setOf? tag with
  | some x => x.tags.findIdx (fun t => t == tag)
  | none => 0

/-- The k registers of a task wave (R114). -/
def State.taskK (s : State) (l : Launch) (t : Task) (n role : Nat) (spill : Option Nat) : Tbl DWord :=
  l.kStart [
    (0, 0), (3, fields64 [(role, 8), (l.width, 16), (1, 24)]), (9, 0),
    (12, fields64 [(t.entry % 65536, 0), (t.key.toNat, 16), (n, 32), (t.depth, 40)]),
    (14, if t.tag = 0 then 0 else BitVec.ofNat 64 (s.branchIndex t.tag % 8)), (15, l.spillAddr spill)]

/-- A task wave starts (R114, R122): a team of its own without scratchpad or tiles. -/
def State.startTasks (s : State) (l : Launch) (f : Formed) (t : Task) (off role : Nat) (p : Place) : State :=
  let spill := s.spillArea l
  let (grp, s1) := s.newId
  let (team, s2) := s1.newId
  let (uid, s3) := s2.newId
  let tm := newTeam team grp 0 1 l p true
  let g := { newGrp grp l (p.pcore / 4) with teams := [team] }
  let n := f.tasks.length
  let w := newWave uid team l 0 role p.lcore p.pcore (p.quarters.headD 0) off (s.colClk (p.pcore / 16)) spill t.tag t.depth
    (f.tasks.map (·.accept)) n (taskRows f.tasks) (s.taskK l t n role spill)
  ({ s3 with
    grps := tset s3.grps grp g, teams := tset s3.teams team tm, waves := tset s3.waves uid w
    formed := s3.formed.filter (fun x => x.id != f.id) } : State).wake (p.pcore / 16)

/-- A formed wave whose table entry the Jig cannot use is discarded (R23); a fault in the read is recorded. -/
def State.dropFormed (s : State) (f : Formed) : State := { s with formed := s.formed.filter (fun x => x.id != f.id) }

/-- TASK_WAVE_PLACE (R122, R161, R165): the entry and the role come from the table, and the wave takes its resources in one
step. -/
def execTaskWavePlace (f : Nat) (s : State) : Host.Outcome State Fault Refusal :=
  .next (match s.formed.find? (fun x => x.id == f) with
    | none => s
    | some x => match x.tasks with
      | [] => s.dropFormed x
      | t :: _ => match s.launch? t.launch with
        | none => s
        | some l =>
          if l.suspended || l.stopDispatch || s.isWaiting 1 l.uid || s.isWaiting 3 l.uid || !s.isServed l then s
          else match s.taskRole l t with
            | .miss va level => s.waitOn 3 l.uid l.domain va level (accessBits .read false) l.id 0xFFFFFFFF
            | .invalid => s.dropFormed x
            | .fault cause addr =>
              ((s.tableFault l.uid l.who 0xFF cause addr 0).dropFormed x).goneOn 3 l.uid
            | .entry off role _ => match s.dispatchChecks l with
              | .miss va level => s.waitOn 1 l.uid l.domain va level (accessBits .read false) l.id 0xFFFFFFFF
              | .fault cause addr => s.dispatchFault l cause addr
              | .go m => match s.taskPlace m x role with
                | none => s
                | some p =>
                  let s1 := (s.convertAt (s.dispatchPlaces l ++
                    s.tablePlaces l (s.cancelledPages 3 l.uid l.domain) t.entry)).modLaunch l.uid (fun _ => m)
                  ((s1.startTasks m x t off role p).goneOn 1 l.uid).goneOn 3 l.uid)

end Sys2Proof.Machine
end

