-- ==== Sys2Proof/Machine/Issue.lean ====
section
/-!
DEFINITION. Fetch and issue (R172 to R192): code words, run headers, the run that a wave resumes after a handler, readiness,
the grant of run slots, and traps taken at run headers and between runs (R54, R55, R393, R400, R418).
-/

namespace Sys2Proof.Machine

/-- The virtual address of a code offset (R19, R172). -/
def Launch.codeAddr (l : Launch) (off : Nat) : Nat := l.field 63 0 + 0x40 + off

/-- The word at a code offset of a wave and whether it or the core's copy of it has failed (R172, R418); a page whose fault was
cancelled gives a fault of cause 1 (R250). A word is always the one that stands in memory when it is fetched, where R173 lets an old
one be issued (DESIGN CHOICE; log entry 96). -/
def State.codeWord (s : State) (w : Wave) (l : Launch) (off : Nat) : Except XErr (Word × Bool) :=
  match s.translateFor w.cancelled l.domain (l.codeAddr off) .fetch with
  | .error e => .error e
  | .ok x => .ok (BitVec.ofNat 32 (s.readNat w.tag x.ver x.key 4), s.anyPoison w.tag x.ver x.key 4 || s.badCopy (256 + w.pcore) x.key 4)

/-- The fetch of a run's header and words, at most 100 bytes, converts the lines that it reaches (R149). -/
def State.fetchTouch (s : State) (w : Wave) (addr : Nat) : State :=
  match s.launch? w.launch with
  | some l => s.convertAt ((pageParts 2 (l.codeAddr addr) 100).filterMap (fun p =>
      (s.translateFor w.cancelled l.domain p.1 .fetch).toOption.map (fun x => (0, x.key, p.2))))
  | none => s

/-- A fetch misses: the wave waits for the replayable fault (R172, R250). -/
def State.fetchMiss (s : State) (w : Wave) (l : Launch) (off level : Nat) : State :=
  let (s1, id) := s.replayMiss l.domain (l.codeAddr off) level (accessBits .fetch false) l.id (BitVec.ofNat 32 w.lcore)
  s1.setWave { w with faultWait := some id }

/-- A wave issues a word, or reaches a header, whose code lies in a failed unit: it halts with event 9 (R418). The causes
that the record of the halt names are free values: there is no inner cause. The core's failed copy is gone with that: a later
fetch is checked anew. -/
def State.codeHalt (s : State) (w : Wave) (l : Launch) (off : Nat) : State :=
  let (inner, s1) := s.fresh
  let (outer, s2) := s1.fresh
  let spans := (s.translateFor w.cancelled l.domain (l.codeAddr off) .fetch).toOption.toList.map (fun x => (x.key, 4))
  let s3 := (s2.transferred (256 + w.pcore) spans).waveRecord w 3 9 (l.codeAddr off) []
  s3.haltWave ((s3.wave? w.uid).getD w) (inner.toNat % 256) 0 off (outer.toNat % 256) off

/-- The active lanes of a run that starts at the issue address (R191). -/
def Wave.activeAt (w : Wave) (addr : Nat) : List Nat := w.unparked.filter (fun l => (w.vpcOf l).toNat == addr)

/-- The offset of the instruction that reached the run at the issue address, all ones where none did (R54). -/
def Wave.reachedBy (w : Wave) (lanes : List Nat) : Nat :=
  choose w.uid 0xFFFFFFFF (dedup (lanes.map (fun l => tgetD w.reached l 0xFFFFFFFF)))

/-- A trap taken at a run header (R54, R55, R172, R198): the active lanes' vpc holds the header's offset. -/
def State.headerTrap (s : State) (w : Wave) (hdr : Nat) (word : Word) (cause info : Nat) : State :=
  s.raiseTrap { w with cancelled := [] }
    { cause := cause, lanes := maskOf (w.activeAt hdr), info := BitVec.ofNat 64 info, offset := hdr, atHeader := true,
      header := word, run := none, needs := [] }

/-- The fields of a run header (R36). -/
structure Header where
  len : Nat
  wait : BitVec 12
  sf1 : Nat
  sf2 : Nat
  opens : Bool
  deriving DecidableEq, Repr

/-- Whether a header's own fields are legal (R54). -/
def Header.legal (h : Header) : Bool :=
  decide (1 ≤ h.len) && decide (h.len ≤ 24) && (decide (h.sf1 < 12) || h.sf1 == 15) && (decide (h.sf2 < 12) || h.sf2 == 15)

/-- The words of a run after its header, or what stops their fetch: the first word that does not translate. -/
def State.runWords (s : State) (w : Wave) (l : Launch) : List Nat → Except (Nat × XErr) (List Word)
  | [] => .ok []
  | off :: t =>
    match s.codeWord w l off with
    | .error e => .error (off, e)
    | .ok (x, _) => match s.runWords w l t with
      | .error e => .error e
      | .ok xs => .ok (x :: xs)

/-- Whether the wave's completion flags named by a mask are all clear (R176, R179). -/
def Wave.maskClear (w : Wave) (m : BitVec 12) : Bool := (List.range 12).all (fun n => !(m.getLsbD n && w.flagSet n))

/-- The interrupted runs in which a live lane's vpc still lies (R399). -/
def Wave.resumable (w : Wave) : List RunCtx :=
  w.resume.filter (fun r => w.live.any (fun l => decide (r.hdr < (w.vpcOf l).toNat) && decide ((w.vpcOf l).toNat ≤ r.last)))

/-- The interrupted run that the issue address lies inside, after its header (R399). -/
def Wave.resumeAt? (w : Wave) (addr : Nat) : Option RunCtx :=
  w.resume.find? (fun r => decide (r.hdr < addr) && decide (addr ≤ r.last))

/-- The wave starts issuing a run at an offset (R176, R191, R399). -/
def State.enterRun (s : State) (w : Wave) (r : RunCtx) (pc : Nat) : State :=
  s.setWave { w with
    run := some { r with serial := w.serial + 1, active := maskOf (w.activeAt pc) }
    serial := w.serial + 1, pc := if pc = r.hdr then r.hdr + 4 else pc
    target := [], afterEffect := false, resume := w.resumable, cancelled := [], ready := s.clkOf w, raised := false
    wait := .none, runs := w.runs + 1 }

/-- An open run records the region entry (R195); while a held copy keeps the entry of its own region, the new one is kept for
when the copy is complete (R170). -/
def State.openRegion (s : State) (w : Wave) : Wave :=
  if s.regionHeld w then
    { w with laterRegion := some (w.snapshot, w.serial + 1), regionReads := [], regionWrites := [] }
  else
    { w with region := w.snapshot, regionReads := [], regionWrites := [], regionSerial := w.serial + 1, laterRegion := none }

/-- The checks of a run header that its wave has reached, after those of its own fields (R54, R55, R172, R198): the trap's
cause and record, a miss, or none. -/
inductive HeaderCheck where
  | ok
  | trap (cause info : Nat)
  | miss (off level : Nat)

/-- The checks of R54, R55, R19, R172, R182 and R198 at a run header. -/
def State.checkHeader (s : State) (w : Wave) (l : Launch) (hdr : Nat) (h : Header) : HeaderCheck :=
  let by_ := w.reachedBy (w.activeAt hdr)
  let last := hdr + 4 * h.len
  if !h.legal then .trap 1 by_
  else if last + 4 > l.codeBytes then .trap 3 hdr
  else match s.runWords w l ((List.range h.len).map (fun i => hdr + 4 + 4 * i)) with
    | .error (off, .miss level) => .miss off level
    | .error (off, .cause c) => .trap 9 (c * 2 ^ 56 + l.codeAddr off % 2 ^ 52)
    | .ok words =>
      if !placementOk h.sf1 h.sf2 words then .trap 1 by_
      else if (tvals w.loops).any (fun e => e.active && decide (hdr ≤ e.stop) && decide (e.stop < last)) then .trap 1 by_
      else if w.afterEffect && !h.opens then (if l.checking then .trap 14 (2 * 2 ^ 9) else .trap 1 by_)
      else if l.checking && by_ == 0xFFFFFFFF && !h.opens then .trap 14 (2 ^ 9)
      else .ok

/-- The wave has reached a run header: the run starts when its checks pass and its wait mask is clear. A wave that stops for
pre-emption starts no open run (R402). -/
def State.reachHeader (s : State) (w : Wave) (word : Word) (h : Header) : State :=
  match s.launch? w.launch, w.issueAddr? with
  | some l, some hdr =>
    match s.checkHeader w l hdr h with
    | .trap cause info => s.headerTrap w hdr word cause info
    | .miss off level => s.fetchMiss w l off level
    | .ok =>
      if !w.maskClear h.wait || (w.stopping && h.opens) then s
      else
        let w1 := if h.opens then s.openRegion w else w
        s.enterRun w1 { hdr := hdr, word := word, last := hdr + 4 * h.len, active := 0, serial := 0 } hdr
  | _, _ => s

/-- Whether a wave stands between runs with nothing that keeps it from its next header: no trap to enter, no fault to wait
for and a live lane that is not parked. -/
def Wave.betweenRuns (w : Wave) : Bool :=
  w.run.isNone && w.trap.isNone && w.faultWait.isNone && !w.unparked.isEmpty

/-- A run header at issue (R39, R54, R175, R176, R194): inside a run it is an illegal word (R53, reason 4); between runs the
wave reaches the run. -/
def execRunHeader (len : BitVec 5) (wait : BitVec 12) (sf1 sf2 : BitVec 4) (opn : BitVec 1) (s : State) :
    Host.Outcome State Fault Refusal :=
  let i : Instr := .runHeader len wait sf1 sf2 opn
  match s.wave? s.cur with
  | none => .fault .noWave
  | some w =>
    if w.run.isSome then s.issue (fun c => .error (c.illegal i 4))
    else if !w.betweenRuns || w.wait != .none then .next s
    else .next (s.reachHeader w (encode i)
      { len := len.toNat, wait := wait, sf1 := sf1.toNat, sf2 := sf2.toNat, opens := opn == 1 })

/-- Whether an operation that the run in progress issued still owes a register that a word names (R177). -/
def Ctx.interlocked (c : Ctx) (word : Word) : Bool :=
  let owed := (c.w.pend.filter (fun p => p.serial == c.r.serial)).flatMap (·.dests)
  !owed.isEmpty && (wordFields word).any (fun f =>
    owed.contains (2048 + f) || c.act.any (fun l => owed.contains (c.w.rowOf l f)))

/-- The scratchpad ranges that an STS word would write: a lane's offset and bytes (R266). -/
def Ctx.stsRanges (c : Ctx) (word : Word) : List (Nat × Nat) :=
  match decode word with
  | .ok (.sts _ a _ n off) => c.act.map (fun l => (c.scratchAt a.toNat (off.toInt * (4 * groupCount n)) l, 4 * groupCount n))
  | _ => []

/-- Whether a queue operation's word must wait for a store of its wave to a block that it looks at (R341, R370). -/
def Ctx.blockHeld (c : Ctx) (word : Word) : Bool :=
  let blocks := c.act.map (fun l => (1, c.addrAt (bits word.toNat 18 12) 0 l, 32))
  major word == 0x2A && c.w.pend.any (fun p => p.kind.writes && rangesMeet (c.s.places c.w p.kind) blocks)

/-- Whether a COMMIT of the code that a handler interrupted is still to be performed (R432). -/
def Wave.commitHeld (w : Wave) : Bool := match w.heldWait with
  | some (.commit _ _ _) => true
  | _ => false

/-- Whether a word must wait in its slot for its wave's earlier operations: the interlock (R177), the orders of a wave's own
accesses and its engines' reads that an instruction performed at issue has to keep (R341 to R345, R350), the copies of R170, and
another wave's ordering within an instance (R339). -/
def Ctx.mustWait (c : Ctx) (word : Word) : Bool :=
  let access : Pend → Bool := fun p => p.kind.accesses || p.kind.isFence
  let k := releaseScope word
  c.interlocked word || c.blockHeld word ||
    (major word == 0x23 && (c.w.pend.any (fun p => p.kind.reads || p.kind.isFence) || c.s.isBarred c.w ||
      !c.s.mayStore c.w (c.stsRanges word))) ||
    (k != 0 && (c.s.isBarred c.w || !(c.s.engReads c.w).isEmpty)) ||
    (decide (k ≥ 3) && c.w.pend.any access) ||
    (readsAtIssue word && (c.w.pend.any access || c.s.isBarred c.w || !(c.s.engReads c.w).isEmpty)) ||
    (major word == 0x34 && fnA word == 5 && (c.w.pend.any access || !(c.s.engReads c.w).isEmpty || c.w.commitHeld)) ||
    ((classOf word).effect && c.s.regionHeld c.w)

/-- Whether a stalled bulk instruction could start now (R279). -/
def Ctx.stallOver (c : Ctx) : Bool :=
  match c.w.stall with
  | some (_, cls) => decide (cls ≥ 2) || c.mayBulk cls
  | none => true

/-- A floating-point exception whose instruction has completed is taken at this boundary (R400): every active lane's vpc
holds the next unissued position. -/
def State.takeFp (s : State) (w : Wave) (t : Trap) (rest : List Trap) : State :=
  match w.run with
  | some r => s.raiseTrap
      { w with fpPending := rest, vpc := setLanes w.vpc ((lanesOf r.active).filter w.isLive) (BitVec.ofNat 32 w.pc) }
      { t with header := r.word, run := some r }
  | none => s.raiseTrap { w with fpPending := rest } t

/-- What the current wave does next: an instruction for `exec`, a change of the state, or nothing. -/
inductive Work where
  | issue (i : Instr)
  | goes (s : State)
  | idle

/-- No wave is current any more. -/
def State.release (s : State) : State := { s with cur := 0 }

/-- The next word of a run in progress (R53, R177, R418). -/
def Ctx.nextWord (c : Ctx) (l : Launch) : Work :=
  match c.s.codeWord c.w l c.w.pc with
  | .error (.miss level) => .goes (c.s.fetchMiss c.w l c.w.pc level)
  | .error (.cause k) => .goes (c.trap (c.raiseAll 9 (k * 2 ^ 56 + l.codeAddr c.w.pc % 2 ^ 52)))
  | .ok (word, pois) =>
    if pois then .goes (c.s.codeHalt c.w l c.w.pc)
    else match decode word with
      | .error r => .goes (c.trap (c.raiseAll 0 (word.toNat + r.code * 2 ^ 32)))
      | .ok i => if c.mustWait word then .goes c.s.release else .issue i

/-- The next run of a wave between runs (R47, R54, R172, R191, R399). A direct branch or CALL to a multiple of 64 where no
header stands takes the illegal-run trap when the run is reached, as R47, R54 and R209 say, not the alignment trap of R34's
table (DEDUCED; log entry 63). A wave that runs past the last word takes the alignment trap with code_bytes itself, the offset
it has come to, as its offset and record (R19 says `at the last run`; DEDUCED, log entry 34). -/
def State.nextHeader (s : State) (w : Wave) (l : Launch) (addr : Nat) : Work :=
  match w.resumeAt? addr with
  | some r => .goes (s.enterRun w r addr)
  | none =>
    if addr + 4 > l.codeBytes then .goes (s.headerTrap w addr 0 3 addr)
    else match s.codeWord w l addr with
      | .error (.miss level) => .goes (s.fetchMiss w l addr level)
      | .error (.cause k) => .goes (s.headerTrap w addr 0 9 (k * 2 ^ 56 + l.codeAddr addr % 2 ^ 52))
      | .ok (word, pois) =>
        if pois then .goes (s.codeHalt w l addr)
        else match decode word with
          | .ok (.runHeader len wait sf1 sf2 opn) => .issue (.runHeader len wait sf1 sf2 opn)
          | _ => .goes (s.headerTrap w addr word 1 (w.reachedBy (w.activeAt addr)))

/-- What the current wave does next. -/
def State.nextWork (s : State) : Work :=
  match s.wave? s.cur with
  | none => .idle
  | some w =>
    match s.launch? w.launch with
    | none => .idle
    | some l =>
      if w.trap.isSome || w.faultWait.isSome then .goes s.release
      else match w.fpPending, w.mode with
        | t :: rest, false => .goes (s.takeFp w t rest)
        | _, _ =>
          match w.run with
          | some r => Ctx.nextWord { s := s, w := w, r := r } l
          | none => match w.issueAddr? with
            | none => .goes s.release
            | some addr => s.nextHeader w l addr

/-- Whether a wave went on between two states: it started a run, or issued an instruction of one. -/
def Wave.wentOn (a b : Wave) : Bool := (a.run.isNone && b.run.isSome) || b.issued != a.issued

/-- After a step from a state, a wave that is between runs, waits for a fault or holds its slot in STALL is no longer
current. -/
def State.settle (before s : State) : State :=
  match before.wave? s.cur, s.wave? s.cur with
  | some a, some b => if b.run.isNone || b.faultWait.isSome || !a.wentOn b then s.release else s
  | _, _ => s

/-- Whether what a wave between runs waits for has come about. -/
def State.waitOver (s : State) (w : Wave) : Bool :=
  match w.wait with
  | .none => true
  | .flags m => w.maskClear m
  | .counter k n => decide (s.engCount w.uid k ≤ n)
  | .barrier n phase => (s.barrier (.named w.team n)).phase.toNat != phase
  | .cbar phase => match s.team? w.team with
    | some t => (s.barrier (.cluster t.grp)).phase.toNat != phase
    | none => false
  | .yield t => decide (s.clkOf w ≥ t)
  | .sleep t => decide (s.clkOf w ≥ t)
  | .ops => !w.pend.any (fun p => match p.kind with | .kvName _ _ _ _ => true | _ => false)
  | .kvstat _ _ => !w.pend.any (fun p => match p.kind with | .kvName _ _ _ _ => true | _ => false)
  | _ => false

/-- The wave's wait ends; KVSTAT then writes its counts (R291). -/
def State.endWait (s : State) (w : Wave) : State :=
  match w.wait with
  | .kvstat d lanes => s.kvstatEnd w d lanes
  | _ => s.setWave { w with wait := .none }

/-- Whether a wave's column may issue (R449) and its unit is on a core (R402). -/
def State.mayIssue (s : State) (w : Wave) : Bool :=
  (tgetD s.columns (w.pcore / 16) Column.reset).power == .active && !s.waveSaved w && s.dev == .d0

/-- Whether the run at a wave's issue address is ready (R176): every flag in its wait mask is clear, and a wave that stops
starts no open run (R402). A header that cannot be read, or is none, is ready for its trap. -/
def State.headerReady (s : State) (w : Wave) : Bool :=
  match s.launch? w.launch, w.issueAddr? with
  | some l, some addr =>
    if (w.resumeAt? addr).isSome then true
    else match s.codeWord w l addr with
      | .ok (word, _) => match decode word with
        | .ok (.runHeader _ wait _ _ opn) => w.maskClear wait && !(w.stopping && opn == 1)
        | _ => true
      | .error _ => true
  | _, _ => false

/-- Whether a wave has a ready run (R176, R179, R180, R215, R281): not before a floating-point exception that is still to be
taken (R400), and not once pre-emption has taken the wave (R402). -/
def State.runReady (s : State) (w : Wave) : Bool :=
  w.betweenRuns && !w.taken && s.mayIssue w && s.waitOver w && w.fpPending.isEmpty && s.headerReady w

/-- Whether a wave that holds a slot can issue its next word. -/
def State.slotReady (s : State) (w : Wave) : Bool :=
  match w.run, s.launch? w.launch with
  | some r, some l =>
    let c : Ctx := { s := s, w := w, r := r }
    w.trap.isNone && w.faultWait.isNone && s.mayIssue w && (match s.codeWord w l w.pc with
      | .ok (word, _) => c.stallOver && !c.mustWait word
      | .error _ => true)
  | _, _ => false

/-- Whether a wave's run is raised (R186): ready for 4,096 clk or more. -/
def State.isRaised (s : State) (w : Wave) : Bool := w.raised || decide (s.clkOf w ≥ w.ready + 4096)

/-- Whether a wave's ready run stands ahead of another's (R186). -/
def State.ahead (s : State) (a b : Wave) : Bool :=
  if s.isRaised a || s.isRaised b then s.isRaised a && (!s.isRaised b || decide (a.ready < b.ready))
  else decide (a.prio > b.prio) || (a.prio == b.prio && decide (a.ready < b.ready))

/-- Whether two waves share a quarter. -/
def Wave.sameQuarter (a b : Wave) : Bool := a.pcore == b.pcore && a.quarter == b.quarter

/-- Whether a quarter has a free run slot for a wave (R185). -/
def State.slotFree (s : State) (w : Wave) : Bool :=
  decide (((tvals s.waves).filter (fun v => v.sameQuarter w && v.run.isSome)).length < 2)

/-- A wave's place in the logical wave order (R165): team waves by team and wave index, then task waves by acceptance. Waves
that this leaves equal, of two launches or of two instances of a fan launch, stand in the order of their dispatch: the
specification does not order them, and this is the model's choice (DESIGN CHOICE, log entry 73). -/
def State.waveOrder (s : State) (w : Wave) : List Nat :=
  match w.accepts with
  | n :: _ => [1, n, 0, w.uid]
  | [] => [0, s.teamIndex w, w.idx, w.uid]

/-- The lexicographic order of two lists. -/
def lexLt : List Nat → List Nat → Bool
  | a :: s, b :: t => decide (a < b) || (a == b && lexLt s t)
  | [], _ :: _ => true
  | _, _ => false

/-- Whether a wave is blocked at a switch point (R166). -/
def State.blockedAtSwitch (s : State) (w : Wave) : Bool :=
  match w.wait with
  | .barrier _ _ => !s.waitOver w
  | .barrierAgain _ _ _ _ => true
  | .cbar _ => !s.waitOver w
  | .cbarAgain _ => true
  | .gang _ => true
  | .racq _ _ _ => true
  | .rget ring _ _ => !s.ringCopying w.team ring
  | _ => false

/-- Whether the logical core of a wave in deterministic mode is a wave's to issue on (R165): it holds the core, or it is next
in the logical order among the waves that are not blocked. A wave in RGET holds the core for as long as a CPYRING into the ring is
outstanding (R166). -/
def State.hasTurn (s : State) (w : Wave) : Bool :=
  let mates := (tvals s.waves).filter (fun v =>
    s.coreKey v == s.coreKey w && !v.live.isEmpty && !s.waveSaved v && s.isDet v.launch)
  let here := s.waveOrder w
  let free := (mates.filter (fun v => !s.blockedAtSwitch v)).map s.waveOrder
  let next : List Nat → Bool := fun k =>
    let later := free.filter (fun x => lexLt k x)
    let from_ := if later.isEmpty then free else later
    !from_.any (fun x => lexLt x here) && from_.contains here
  match tget s.turns (s.coreKey w) with
  | some (k, holds) => if holds && mates.any (fun v => s.waveOrder v == k && !s.blockedAtSwitch v) then k == here else next k
  | none => next []

/-- Takes the logical core for a wave in deterministic mode (R165). -/
def State.takeTurn (s : State) (w : Wave) : State :=
  if s.isDet w.launch then { s with turns := tset s.turns (s.coreKey w) (s.waveOrder w, true) } else s

/-- RUN_GRANT (R185 to R188, R165): a free slot of its quarter goes to the wave's ready run when no other stands ahead; a wave
that holds a slot issues next. A wave of a SQUASHED branch is terminated (R147). -/
def execRunGrant (w : Nat) (s : State) : Host.Outcome State Fault Refusal :=
  .next (match s.wave? w with
    | none => s
    | some x =>
      let grant := fun (s : State) => { s.fetchTouch x (match x.run with
        | some r => r.hdr
        | none => x.issueAddr?.getD 0) with cur := w }
      if s.mustEnd x then s.terminate x
      else if x.run.isSome then (if s.slotReady x then grant s else s)
      else if !s.runReady x || !s.slotFree x then s
      else if s.isDet x.launch && !s.hasTurn x then s
      else if (tvals s.waves).any (fun v => v.uid != w && v.sameQuarter x && s.runReady v && s.ahead v x &&
          (!s.isDet v.launch || s.hasTurn v)) then s
      else grant ((s.endWait x).takeTurn x))

/-- RUN_RAISE (R187): a run that has been ready for 4,096 clk is raised. -/
def execRunRaise (w : Nat) (s : State) : Host.Outcome State Fault Refusal :=
  .next (match s.wave? w with
    | none => s
    | some x => if s.runReady x && !x.raised && decide (s.clkOf x ≥ x.ready + 4096) then s.setWave { x with raised := true }
      else s)

/-- SLEEP_END (R215): the clk that SLEEP named has come. -/
def execSleepEnd (w : Nat) (s : State) : Host.Outcome State Fault Refusal :=
  .next (match s.wave? w with
    | none => s
    | some x => match x.wait with
      | .sleep t => if s.clkOf x ≥ t then s.setWave { x with wait := .none } else s
      | .yield t => if s.clkOf x ≥ t then s.setWave { x with wait := .none } else s
      | _ => s)

/-- A floating-point exception of a wave between runs is taken (R400), whatever the wave waits for, its next header among it. -/
def State.takeFpBetween (s : State) (x : Wave) : State :=
  match x.fpPending with
  | t :: rest => if x.run.isSome || x.mode || x.live.isEmpty || !s.mayIssue x then s else s.takeFp x t rest
  | [] => s

/-- TRAP_ENTRY (R393): every operation attached to the wave's flags has completed, and the trap is entered; in trap mode it is
a double fault (R395, R396). A wave between runs that has none to enter takes its floating-point exception (R400). -/
def execTrapEntry (w : Nat) (s : State) : Host.Outcome State Fault Refusal :=
  .next (match s.wave? w with
    | none => s
    | some x => match x.trap with
      | none => s.takeFpBetween x
      | some t =>
        if s.mustEnd x then s.terminate x
        else if x.faultWait.isSome || !s.mayIssue x then s
        else if x.mode then s.doubleFault { x with run := none } t.cause t.info t.offset
        else if x.flagsClear then s.enterTrap x t else s)

/-- The clk at which a wave's next run became ready, kept up to date as the clk of its column moves on to a new count (R186):
a run not ready before the move has not been ready earlier than it; a pause counts from its end. -/
def State.notedReady (s : State) (clkNew : Nat) (w : Wave) : Nat :=
  if s.runReady w then w.ready
  else match w.wait with
    | .sleep t => if t ≤ s.clkOf w then clkNew else t
    | .yield t => if t ≤ s.clkOf w then clkNew else t
    | _ => clkNew

end Sys2Proof.Machine
end

