-- ==== Sys2Proof/Machine/Lanes.lean ====
section
/-!
DEFINITION. The tag instructions (R234), the cross-lane instructions (R235, R236), recipes (R237 to R240) and the random
numbers (R241).
-/

namespace Sys2Proof.Machine

/-- Whether a value may be written as a vector tag (R61, R234): a format below 20, bits 10 to 8 zero, and no I64 on an odd
register. -/
def legalTag (d : Nat) (t : BitVec 16) : Bool :=
  decide (tagFmt t < 20) && t.extractLsb' 8 3 == 0 && !(tagFmt t == 19 && d % 2 == 1)

/-- An instruction that writes only tags (R234): `new` answers a lane's new tag, none where it is out of range; `fmtNew` says
that it gives the format, so that I64 may not go to an odd register. No split applies to a field of 32 or above in trap mode
(R394). -/
def Ctx.tagOp (c : Ctx) (d : Nat) (srcs first : List Nat) (readsOld fmtNew : Bool) (new : Nat → Option (BitVec 16)) :
    Except Raise State := do
  c.checkRegs (d :: srcs)
  let bad := c.act.filter (fun l => match new l with
    | none => true
    | some t => !legalTag (if fmtNew then d else 0) t)
  if !bad.isEmpty then throw (c.raiseIn 4 bad (c.formatInfo (bad.headD 0) d))
  let writes := c.act.map (fun l =>
    { field := d, row := c.w.rowOf l d, lane := l, val := c.w.reg l d, tag := new l, pois := false : RegW })
  if !(c.w.mode && decide (d ≥ 32)) then c.checkSplit writes
  c.checkPoison [] first []
  let w ← c.region ((if readsOld then c.rowKeys [d] else []) ++ first.map (fun f => c.w.rowOf c.first f))
    (writes.map (fun x => (x.row, x.field)))
  let (s, w) := c.s.writeTags w writes
  pure (c.done s w)

/-- A tag with another scale. -/
def withScale (t : BitVec 16) (sc : BitVec 8) : BitVec 16 := (t &&& 0xFF00#16) ||| sc.setWidth 16

/-- TAGSET (R234): the lowest active lane's v[a][15:0]. -/
def execTagset (d a : BitVec 7) (s : State) : Host.Outcome State Fault Refusal :=
  s.issue (fun c => c.tagOp d.toNat [a.toNat] [a.toNat] false true (fun _ =>
    some ((c.w.reg c.first a.toNat).setWidth 16)))

/-- TAGGET (R234): the tag of v[a], zero-extended, with tag I32. -/
def execTagget (d a : BitVec 7) (s : State) : Host.Outcome State Fault Refusal :=
  s.issue (fun c => c.vector
    { regs := [d.toNat, a.toNat], carry := [a.toNat]
      writes := c.act.map (fun l =>
        c.w.put l d.toNat ((c.w.row (c.w.rowOf l a.toNat)).tag.setWidth 32) (mkTag 2 0)) } 0 id)

/-- SCALESET (R234). -/
def execScaleset (d : BitVec 7) (sv : BitVec 8) (s : State) : Host.Outcome State Fault Refusal :=
  s.issue (fun c => c.tagOp d.toNat [] [] false false (fun l => some (withScale (c.w.row (c.w.rowOf l d.toNat)).tag sv)))

/-- SCALEADD (R234): the format trap when the sum lies outside −128 to 127. -/
def execScaleadd (d : BitVec 7) (sv : BitVec 8) (s : State) : Host.Outcome State Fault Refusal :=
  s.issue (fun c => c.tagOp d.toNat [] [] true false (fun l =>
    let t := (c.w.row (c.w.rowOf l d.toNat)).tag
    let n := tagScale t + sv.toInt
    if n < -128 ∨ n > 127 then none else some (withScale t (BitVec.ofInt 8 n))))

/-- RETAG (R234): another format, the scale kept. -/
def execRetag (d : BitVec 7) (f : BitVec 5) (s : State) : Host.Outcome State Fault Refusal :=
  s.issue (fun c => c.tagOp d.toNat [] [] false true (fun l =>
    some (((c.w.row (c.w.rowOf l d.toNat)).tag &&& 0x07FF#16) ||| (f.setWidth 16 <<< 11))))

/-- A data-moving cross-lane form (R235): `src` answers the lane whose element a lane receives; poison travels with the
element (R415). The result takes the tag of the row that a is in the receiving lane's window, where the windows of the two lanes
differ (DEDUCED; log entry 90). The rows that it reads in the source lanes count as read (R198). -/
def Ctx.shuffle (c : Ctx) (d a : BitVec 7) (idx : List Nat) (src : Nat → Nat) : Except Raise State :=
  c.variable
    { regs := [d.toNat, a.toNat] ++ idx, reads := idx, carry := [a.toNat]
      laneCarry := c.act.map (fun l => (src l, a.toNat))
      writes := c.act.map (fun l => (c.w.put l d.toNat (c.w.reg (src l) a.toNat) (c.w.tagAt l a.toNat)).carrying
        (c.w.regPoison (src l) a.toNat)) } 0 id

/-- SHFL (R235). -/
def execShfl (d a b : BitVec 7) (s : State) : Host.Outcome State Fault Refusal :=
  s.issue (fun c => c.shuffle d a [b.toNat] (fun l => (c.w.reg l b.toNat).toNat % c.w.width))

/-- SHFLX (R235). -/
def execShflx (d a m : BitVec 7) (s : State) : Host.Outcome State Fault Refusal :=
  s.issue (fun c => c.shuffle d a [] (fun l => l ^^^ (m.toNat % c.w.width)))

/-- SHFLUP (R235). -/
def execShflup (d a n : BitVec 7) (s : State) : Host.Outcome State Fault Refusal :=
  s.issue (fun c => c.shuffle d a [] (fun l => if l ≥ n.toNat then l - n.toNat else l))

/-- SHFLDN (R235). -/
def execShfldn (d a n : BitVec 7) (s : State) : Host.Outcome State Fault Refusal :=
  s.issue (fun c => c.shuffle d a [] (fun l => if l + n.toNat < c.w.width then l + n.toNat else l))

/-- BCAST (R235). -/
def execBcast (d a k : BitVec 7) (s : State) : Host.Outcome State Fault Refusal :=
  s.issue (fun c => c.shuffle d a [] (fun _ => k.toNat % c.w.width))

/-- VOTE (R235): mode 0 ballot, 1 any, 2 all, 3 equal. -/
def execVote (d a m : BitVec 7) (s : State) : Host.Outcome State Fault Refusal :=
  s.issue (fun c =>
    let vals := c.act.map (fun l => c.w.reg l a.toNat)
    let set := c.act.filter (fun l => c.w.reg l a.toNat != 0)
    if m = 0 then
      c.variable
        { regs := [d.toNat, d.toNat + 1, a.toNat], pairs := [d.toNat], reads := [a.toNat]
          writes := c.act.flatMap (fun l => c.w.putPair l d.toNat (maskOf set).toNat) } 0 id
    else
      let r := if m = 1 then !set.isEmpty else if m = 2 then set.length == vals.length
        else vals.all (fun v => v == vals.headD 0)
      c.variable
        { regs := [d.toNat, a.toNat], reads := [a.toNat]
          writes := c.act.map (fun l => c.w.put l d.toNat (boolWord r) (mkTag 2 0)) } 0 id)

/-- A reduction of integers or F32 over the active lanes (R235): `f` gets the lane's operand format and the lane. `dflt` is the
format of a RAW operand, I32 for all of them: R61 asks for a default and no rule names one (DESIGN CHOICE; log entry 85). -/
def Ctx.reduce (c : Ctx) (acc : List Nat) (dflt : Nat) (d a : BitVec 7) (f : Nat → Nat → Word × FFlags) :
    Except Raise State :=
  let fmt := fun l => c.w.operandFmt l [a.toNat] dflt
  let res := c.act.map (fun l => (l, fmt l, f (fmt l) l))
  c.variable
    { regs := [d.toNat, a.toNat], data := [(a.toNat, acc)], reads := [a.toNat]
      writes := res.map (fun x => c.w.put x.1 d.toNat x.2.2.1 (mkTag x.2.1 0)) }
    (orFlags (res.map (fun x => x.2.2.2))) id

/-- The sum of the elements of some lanes, modulo 2^32. -/
def Ctx.sumOver (c : Ctx) (a : Nat) (lanes : List Nat) : Word := lanes.foldl (fun t l => t + c.w.reg l a) 0

/-- REDADD (R235). -/
def execRedadd (d a : BitVec 7) (s : State) : Host.Outcome State Fault Refusal :=
  s.issue (fun c => c.reduce [2, 3] 2 d a (fun _ _ => (c.sumOver a.toNat c.act, 0)))

/-- The minimum or maximum over the active lanes in a format (R235). -/
def Ctx.extreme (c : Ctx) (isMax : Bool) (a fmt : Nat) : Word × FFlags :=
  let vals := c.act.map (fun l => c.w.reg l a)
  if fmt = 1 then
    let fp := FpCtl.of c.w.fpctl
    let r := vals.foldl (fun (p : Nat × FFlags) v =>
      let q := fMinMax fp f32 isMax false p.1 v.toNat
      (q.1, p.2 ||| q.2)) ((vals.headD 0).toNat, 0)
    (BitVec.ofNat 32 r.1, r.2)
  else
    (vals.foldl (fun m v => if (if isMax then decide (asInt (fmt == 2) v > asInt (fmt == 2) m)
      else decide (asInt (fmt == 2) v < asInt (fmt == 2) m)) then v else m) (vals.headD 0), 0)

/-- REDMIN (R235). -/
def execRedmin (d a : BitVec 7) (s : State) : Host.Outcome State Fault Refusal :=
  s.issue (fun c => c.reduce [1, 2, 3] 2 d a (fun f _ => c.extreme false a.toNat f))

/-- REDMAX (R235). -/
def execRedmax (d a : BitVec 7) (s : State) : Host.Outcome State Fault Refusal :=
  s.issue (fun c => c.reduce [1, 2, 3] 2 d a (fun f _ => c.extreme true a.toNat f))

/-- A node of REDFADD's tree (R236), from its level and index: absent, a child's value unrounded, or the rounded sum. -/
def treeSum (fp : FpCtl) (leaf : Nat → Option Nat) : Nat → Nat → Option Nat × FFlags
  | 0, j => (leaf j, 0)
  | n + 1, j =>
    match treeSum fp leaf n (2 * j), treeSum fp leaf n (2 * j + 1) with
    | (none, f), (none, g) => (none, f ||| g)
    | (some x, f), (none, g) => (some x, f ||| g)
    | (none, f), (some y, g) => (some y, f ||| g)
    | (some x, f), (some y, g) => let r := fAdd fp f32 x y; (some r.1, f ||| g ||| r.2)

/-- REDFADD (R236). -/
def execRedfadd (d a : BitVec 7) (s : State) : Host.Outcome State Fault Refusal :=
  s.issue (fun c =>
    let r := treeSum (FpCtl.of c.w.fpctl)
      (fun j => if c.act.contains j then some (c.w.reg j a.toNat).toNat else none) (Nat.log2 c.w.width) 0
    c.reduce [1] 1 d a (fun _ _ => (BitVec.ofNat 32 (r.1.getD 0), r.2)))

/-- SCANADD (R235). -/
def execScanadd (d a : BitVec 7) (s : State) : Host.Outcome State Fault Refusal :=
  s.issue (fun c => c.reduce [2, 3] 2 d a (fun _ l => (c.sumOver a.toNat (c.act.filter (fun j => decide (j ≤ l))), 0)))

/-- FIRST (R235). -/
def execFirst (d a : BitVec 7) (s : State) : Host.Outcome State Fault Refusal :=
  s.issue (fun c =>
    let r := match c.act.find? (fun l => c.w.reg l a.toNat != 0) with
      | some l => BitVec.ofNat 32 l
      | none => 0xFFFFFFFF#32
    c.variable
      { regs := [d.toNat, a.toNat], reads := [a.toNat]
        writes := c.act.map (fun l => c.w.put l d.toNat r (mkTag 2 0)) } 0 id)

/-- The recipe "i0" that every slot holds at wave start (R238). -/
def recipeI0 : DWord := 0x1000000000000000#64

/-- The tokens of a recipe word that are performed, in order (R237). -/
def recipeTokens (r : DWord) : List Nat := (List.range (bits r.toNat 63 60)).map (fun j => bits r.toNat (5 * j + 4) (5 * j))

/-- How many values a token pops and pushes (R237). -/
def tokenArity (t : Nat) : Nat × Nat :=
  if t ≤ 7 then (0, 1) else if t ≤ 10 then (2, 1) else if t = 11 then (3, 1) else if t ≤ 13 then (2, 1)
  else if t ≤ 15 then (1, 1) else if t = 16 then (1, 2) else if t = 17 then (2, 2) else (1, 1)

/-- The depth after a list of tokens, or none where a token is reserved, pops too much or raises the depth above 4
(R238). -/
def recipeDepth : List Nat → Nat → Option Nat
  | [], n => some n
  | t :: ts, n =>
    let (p, q) := tokenArity t
    if t ≥ 20 ∨ n < p ∨ n - p + q > 4 then none else recipeDepth ts (n - p + q)

/-- Whether a recipe word is well formed (R238). -/
def recipeOk (r : DWord) : Bool :=
  let t := bits r.toNat 63 60
  decide (1 ≤ t) && decide (t ≤ 12) &&
    (List.range 12).all (fun j => decide (j < t) || bits r.toNat (5 * j + 4) (5 * j) == 0) &&
    recipeDepth (recipeTokens r) 0 == some 1

/-- One recipe token on a stack of F32 bits, top first (R237, R239). -/
def recipeStep (fp : FpCtl) (inputs : List Nat) (t : Nat) (st : List Nat) : List Nat × FFlags :=
  match t, st with
  | 4, _ => (0 :: st, 0)
  | 5, _ => (0x3F800000 :: st, 0)
  | 6, _ => (0x40000000 :: st, 0)
  | 7, _ => (0x3F000000 :: st, 0)
  | 8, y :: x :: r => let v := fAdd fp f32 x y; (v.1 :: r, v.2)
  | 9, y :: x :: r => let v := fSub fp f32 x y; (v.1 :: r, v.2)
  | 10, y :: x :: r => let v := fMul fp f32 x y; (v.1 :: r, v.2)
  | 11, z :: y :: x :: r => let v := fFma fp f32 false x y z; (v.1 :: r, v.2)
  | 12, y :: x :: r => let v := fMinMax fp f32 false false x y; (v.1 :: r, v.2)
  | 13, y :: x :: r => let v := fMinMax fp f32 true false x y; (v.1 :: r, v.2)
  | 14, x :: r => ((x + 2 ^ 31) % 2 ^ 32 :: r, 0)
  | 15, x :: r => (x % 2 ^ 31 :: r, 0)
  | 16, x :: r => (x :: x :: r, 0)
  | 17, y :: x :: r => (x :: y :: r, 0)
  | 18, x :: r =>
    let m := fMinMax fp f32 false false 0x3F800000 x
    let v := fMinMax fp f32 true false 0 m.1
    (v.1 :: r, m.2 ||| v.2)
  | 19, x :: r => let v := fMul fp f32 x x; (v.1 :: r, v.2)
  | n, _ => if n < 4 then ((inputs[n]?).getD 0 :: st, 0) else (st, 0)

/-- The tokens of a recipe performed in order (R239). -/
def recipeRun (fp : FpCtl) (inputs : List Nat) : List Nat → List Nat → FFlags → List Nat × FFlags
  | [], st, fl => (st, fl)
  | t :: ts, st, fl => let r := recipeStep fp inputs t st; recipeRun fp inputs ts r.1 (fl ||| r.2)

/-- EXPR (R239). -/
def execExpr (d a b : BitVec 7) (n : BitVec 4) (s : State) : Host.Outcome State Fault Refusal :=
  s.issue (fun c =>
    let toks := recipeTokens (tgetD c.w.recipes n.toNat recipeI0)
    let fields := [a.toNat, a.toNat + 1, b.toNat, d.toNat]
    let used := dedup ((fields.zipIdx).filterMap (fun p => if toks.contains p.2 then some p.1 else none))
    let res := c.act.map (fun l =>
      (l, recipeRun (FpCtl.of c.w.fpctl) (fields.map (fun f => (c.w.reg l f).toNat)) toks [] 0))
    let o : OpSpec :=
      { regs := dedup [d.toNat, a.toNat, a.toNat + 1, b.toNat]
        data := used.map (fun f => (f, [1])), reads := used
        writes := res.map (fun x => c.w.put x.1 d.toNat (BitVec.ofNat 32 (x.2.1.headD 0)) (mkTag 1 0)) }
    do
      c.check o
      let w ← c.region (c.rowKeys o.reads ++ [4096 + n.toNat]) (o.writes.map (fun x => (x.row, x.field)))
      let (s, w) := c.s.writeTags w o.writes
      pure (c.done s (c.raiseFlags (w.writeElems o.writes) (orFlags (res.map (fun x => x.2.2))))))

/-- RECIPE (R238): a word that is not well formed raises the illegal-instruction trap with reason 5. -/
def execRecipe (a : BitVec 7) (n : BitVec 4) (s : State) : Host.Outcome State Fault Refusal :=
  s.issue (fun c =>
    let word := 0x1E * 2 ^ 26 + a.toNat * 2 ^ 12 + n.toNat
    do
      if !recipeOk (c.w.kreg a.toNat) then throw (c.raiseAll 0 (word + 5 * 2 ^ 32))
      c.checkPoison [] [] [a.toNat]
      let w ← c.region [2048 + a.toNat] [(4096 + n.toNat, n.toNat)]
      pure (c.done c.s { w with recipes := tset w.recipes n.toNat (c.w.kreg a.toNat) }))

/-- RAND (R241): one draw a lane, with tag UI32. -/
def execRand (d : BitVec 7) (s : State) : Host.Outcome State Fault Refusal :=
  s.issue (fun c => c.variable
    { regs := [d.toNat]
      writes := c.act.map (fun l => c.w.put l d.toNat ((c.draws l 1).headD 0) (mkTag 3 0)) } 0
    (fun w => c.act.foldl (fun w l => w.drew l 1) w))

/-- RANDF (R241): (u >> 8) × 2^−24, exactly, with tag F32. -/
def execRandf (d : BitVec 7) (s : State) : Host.Outcome State Fault Refusal :=
  s.issue (fun c => c.variable
    { regs := [d.toNat]
      writes := c.act.map (fun l => c.w.put l d.toNat
        (BitVec.ofNat 32 (f32.round .rne false false (((c.draws l 1).headD 0).toNat / 256) (-24)).1) (mkTag 1 0)) } 0
    (fun w => c.act.foldl (fun w l => w.drew l 1) w))

end Sys2Proof.Machine
end

