-- ==== Sys2Proof/Machine/Context.lean ====
section
/-!
DEFINITION. Pre-emption and context (R168 to R171, R197, R318, R332, R401 to R404, R417): stopping a unit, rewinding its open
regions, the save blocks, and restoring it.
-/

namespace Sys2Proof.Machine

/-- Changes the management registers. -/
def State.modRegs (s : State) (f : Regs → Regs) : State := { s with regs := f s.regs }

/-- The waves of a unit. -/
def State.unitWaves (s : State) (grp : Nat) : List Wave :=
  (tvals s.waves).filter (fun w => match s.team? w.team with
    | some t => t.grp == grp
    | none => false)

/-- Whether the run at a wave's issue address is open: its open region is then empty (R197, R402). -/
def State.atOpenRun (s : State) (w : Wave) : Bool :=
  match s.launch? w.launch, w.issueAddr? with
  | some l, some addr =>
    (w.resumeAt? addr).isNone && (match s.codeWord w l addr with
      | .ok (word, _) => match decode word with
        | .ok (.runHeader _ _ _ _ opn) => opn == 1
        | _ => false
      | .error _ => false)
  | _, _ => false

/-- Whether a wave waits in an instruction that pre-emption withdraws (R286, R380, R382, R433). -/
def Wait.withdrawn : Wait → Bool
  | .racq _ _ _ => true
  | .rget _ _ _ => true
  | .enqt _ _ => true
  | .cbopen _ _ _ _ => true
  | .commit _ _ _ => true
  | _ => false

/-- Whether a wave has entered a handler of which no run has started, so that no region of the handler is open yet (R393). -/
def Wave.atHandler (w : Wave) : Bool :=
  w.mode && !w.region.mode && w.laterRegion.isNone && w.run.isNone && w.reached.isEmpty && w.parked == 0

/-- Whether the open region of a stopped wave is empty, so that nothing of it is discarded (R197, R402). -/
def State.regionEmpty (s : State) (w : Wave) : Bool :=
  w.run.isNone && !w.wait.withdrawn && (w.live.isEmpty || w.afterEffect || w.atHandler || s.atOpenRun w)

/-- Whether a wave waits between runs (R402): for what it waits for, for a flag of its next run's wait mask, or for a run slot,
which no step has granted it yet (R187). -/
def State.waitsBetween (s : State) (w : Wave) : Bool :=
  w.run.isNone && w.trap.isNone && s.cur != w.uid

/-- Whether a wave of a stopping unit has come to where it may be taken (R197, R249, R402, R461): at an open run, where it
waited when its unit was told to stop, or stalled on a replayable fault. A trap still to be entered is entered first, and so is
a floating-point exception whose region is not discarded (R400). -/
def State.stopped (s : State) (w : Wave) : Bool :=
  w.trap.isNone && (w.faultWait.isSome || w.taken || (w.run.isNone && (w.live.isEmpty || s.atOpenRun w))) &&
    (w.fpPending.isEmpty || !s.regionEmpty w)

/-- The recorded region entry is restored (R197, R208), with the lanes that were parked then. A record that a copy has held
since before the wave's handler (R170) takes the wave out of the handler, with the frame's sr.fpctl. Floating-point exceptions of
earlier regions are still to be taken (R400). -/
def Wave.rewound (w : Wave) : Wave :=
  let r := w.region
  let pending := match w.frame with
    | some f => if w.mode && !r.mode then f.fp else w.fpPending
    | none => w.fpPending
  { w with
    vpc := r.vpc, wbase := r.wbase, wtop := r.wtop, draw := r.draw, lc := r.lc, loops := r.loops, run := none, target := []
    wait := .none, afterEffect := false, faultWait := none, cancelled := [], stall := none
    fpPending := pending.filter (fun t => match t.run with
      | some c => decide (c.serial < w.regionSerial)
      | none => false)
    parked := r.parked, parkMode := r.parkMode, mode := r.mode
    fpctl := (match w.frame with | some f => if w.mode && !r.mode then f.fpctl else w.fpctl | none => w.fpctl)
    regionReads := [], regionWrites := [], laterRegion := none }

/-- Discards a wave's open region (R197, R286, R332, R380, R382, R433): a withdrawn instruction leaves its queues, and the
rays that the region issued are cancelled. -/
def State.discardRegion (s : State) (w : Wave) : State :=
  let gone := (tvals s.rays).filter (fun r => r.wave == w.uid && decide (r.serial ≥ w.regionSerial))
  let s0 := s.setWave w.rewound
  let s1 := if w.wait.withdrawn || w.mode != w.region.mode then s0.withdrawWait w else s0
  ({ s1 with rays := gone.foldl (fun t r => tdel t r.id) s1.rays } : State).engCancels (dedup (gone.filterMap (·.eng)))

/-- The bytes of a wave record (R404): a page and the rows of an allotment of A registers and width W. -/
def recordSize (allot width : Nat) : Nat := (4096 + (allot + 32) * width * 4 + 4095) / 4096 * 4096

/-- The fragment records that a group's root block may need at most (R404). -/
def maxFrags : Nat := 224

/-- The bytes of a fragment record (R404). -/
def fragSize : Nat := 64 + 8192

/-- The size of a team's save block with some waves and fragment records (R404). -/
def blockSize (t : Team) (waves : List Wave) (frags : Nat) : Nat :=
  (4096 + waves.foldl (fun n w => n + recordSize w.allot w.width) 0 + t.granted + t.accTiles * 32768 + frags * fragSize +
    4095) / 4096 * 4096

/-- The waves of a team, in wave index order. -/
def State.teamWaves (s : State) (team : Nat) : List Wave :=
  sortBy (fun a b => decide (a.idx ≤ b.idx)) ((tvals s.waves).filter (fun w => w.team == team))

/-- Whether a team's block is the root of its group (R404). -/
def Team.isRoot (t : Team) : Bool := t.rank == 0

/-- The save blocks that units hold: address and size. -/
def State.heldBlocks (s : State) : List (Nat × Nat) := (tvals s.grps).flatMap (·.blocks)

/-- A place in the save pool for a block beside others: at the pool's base or after a held block (R404 fixes only the 4 KiB
alignment). -/
def State.poolPlace (s : State) (held : List (Nat × Nat)) (size key : Nat) : Option Nat :=
  let base := s.regs.ctxbase.toNat
  let fits : Nat → Bool := fun a =>
    decide (base ≤ a) && decide (a + size ≤ base + s.regs.ctxsize.toNat) &&
      !held.any (fun b => decide (a < b.1 + b.2) && decide (b.1 < a + size))
  match (base :: held.map (fun b => b.1 + b.2)).filter fits with
  | [] => none
  | l => some (choose key base l)

/-- Room in the pool for each of some block sizes, or none (R404). -/
def State.poolRoom (s : State) : List (Nat × Nat) → List Nat → Nat → Option (List (Nat × Nat))
  | _, [], _ => some []
  | held, n :: rest, key =>
    match s.poolPlace held n key with
    | none => none
    | some a => match s.poolRoom ((a, n) :: held) rest (key + 1) with
      | none => none
      | some l => some ((a, n) :: l)

/-- Room in the save pool for the largest blocks that a unit's teams could need (R404). -/
def State.saveRoom (s : State) (g : Grp) : Option (List (Nat × Nat)) :=
  s.poolRoom s.heldBlocks
    ((s.unitTeams g.uid).map (fun t => blockSize t (s.teamWaves t.uid) (if t.isRoot then maxFrags else 0))) g.uid

/-- A unit begins to stop once the pool has room for its largest blocks (R402, R404); a wave that waits between runs is taken
there. -/
def State.stopUnit (s : State) (g : Grp) (migrate : Bool) : State :=
  match s.saveRoom g with
  | none => s
  | some blocks =>
    let s1 := s.modGrp g.uid (fun g => { g with status := 1, migrate := migrate, blocks := blocks, drainClk := s.colClk (g.cluster / 4) })
    (s1.unitWaves g.uid).foldl (fun s w => s.setWave { w with stopping := true, taken := s1.waitsBetween w }) s1

/-- The bytes of a number with no poison. -/
def cleanBytes (n v : Nat) : List (Byte × Bool) := (toBytes n v).map (fun b => (b, false))

/-- Bytes whose content the specification does not give. -/
def openBytes (area unit n : Nat) : List (Byte × Bool) := (List.range n).map (fun i => (Config.saveByte area unit i, false))

/-- A per-lane vector of a wave record: 64 words, 0 beyond the wave's width (R404). -/
def laneVector (width : Nat) (f : Nat → Nat) : List (Byte × Bool) :=
  (List.range 64).flatMap (fun l => cleanBytes 4 (if l < width then f l else 0))

/-- Fields of a wide number: value and lowest bit. -/
def fieldsNat (l : List (Nat × Nat)) : Nat := l.foldl (fun n x => n + x.1 * 2 ^ x.2) 0

/-- What a wave waits for, as its control block names it (R404): wait, object and phase. -/
def Wait.image : Wait → Nat × Nat × Nat
  | .barrier n phase => (1, n, phase)
  | .barrierAgain n phase _ _ => (1, n, phase)
  | .cbar phase => (2, 0, phase)
  | .cbarAgain phase => (2, 0, phase)
  | .gang g => (3, g, 0)
  | _ => (0, 0, 0)

/-- The fields of loop entries from a bit position on: S and E of each (R404). -/
def loopFields (loops : Tbl LoopEntry) (lo : Nat) : List (Nat × Nat) :=
  (List.range 3).flatMap (fun i => match tget loops i with
    | some e => [(e.start % 2 ^ 32, lo + 64 * i), (e.stop % 2 ^ 32, lo + 64 * i + 32)]
    | none => [])

/-- The loop active bits. -/
def loopActive (loops : Tbl LoopEntry) : Nat :=
  (List.range 3).foldl (fun n i => match tget loops i with
    | some e => if e.active then n + 2 ^ i else n
    | none => n) 0

/-- The wave control block (R404). -/
def State.controlBlock (s : State) (w : Wave) : Nat :=
  let count := fun k => s.engCount w.uid k % 256
  let (wait, object, phase) := w.wait.image
  let f := match w.frame with
    | some f => loopFields f.entry.loops 896 ++ [(f.fpctl.toNat % 8, 869), (loopActive f.entry.loops, 864),
        ((tgetD f.entry.lc 0 0).toNat, 768), ((tgetD f.entry.lc 1 0).toNat, 800), ((tgetD f.entry.lc 2 0).toNat, 832),
        (f.offset % 2 ^ 32, 544), (f.header.toNat, 512)]
    | none => []
  fieldsNat (f ++ loopFields w.loops 256 ++
    [(w.trapinfo.toNat, 704), (w.traplanes.toNat, 640), (w.trapcause.toNat % 256, 576), (w.fpflags.toNat % 32, 491),
     (w.fpctl.toNat % 8, 488), (count 4, 480), (count 3, 472), (count 2, 464), (count 1, 456), (count 0, 448),
     (loopActive w.loops, 224), ((tgetD w.lc 0 0).toNat, 128), ((tgetD w.lc 1 0).toNat, 160), ((tgetD w.lc 2 0).toNat, 192),
     (phase % 2 ^ 32, 64), (if w.mode then 1 else 0, 48), (object % 16, 40), (wait, 32), (w.wtop % 2 ^ 32, 0)])

/-- A row as it is saved: one element for each lane, with its poison (R404, R417). -/
def rowBytes (width : Nat) (r : Row) : List (Byte × Bool) :=
  (List.range width).flatMap (fun l =>
    (toBytes 4 (tgetD r.elems l 0).toNat).map (fun b => (b, r.poison.getLsbD l)))

/-- A wave record (R404). -/
def State.waveRecordBytes (s : State) (w : Wave) : List (Byte × Bool) :=
  let e := w.frame.map (·.entry)
  let f0 : Nat → Nat := fun l => match w.frame with
    | some f => (tgetD f.curVpc l exited).toNat
    | none => 0
  let f1 : (RegionEntry → Nat) → Nat := fun g => match e with
    | some r => g r
    | none => 0
  let body := laneVector w.width (fun l => (w.vpcOf l).toNat) ++ laneVector w.width (fun l => tgetD w.wbase l 0) ++
    laneVector w.width (fun l => (tgetD w.draw l 0).toNat) ++ laneVector w.width (fun l => tgetD w.hbase l 0) ++
    laneVector w.width f0 ++ laneVector w.width (fun l => f1 (fun r => (tgetD r.vpc l exited).toNat)) ++
    laneVector w.width (fun l => f1 (fun r => tgetD r.wbase l 0)) ++
    laneVector w.width (fun l => f1 (fun r => (tgetD r.draw l 0).toNat)) ++
    (List.range 64).flatMap (fun k => (toBytes 8 (w.kreg k).toNat).map (fun b => (b, w.kpoison.getLsbD k))) ++
    cleanBytes 256 (s.controlBlock w) ++
    (List.range 8).flatMap (fun n => cleanBytes 8 (tgetD w.recipes n recipeI0).toNat) ++
    (List.range 32).flatMap (fun j => cleanBytes 2 (w.row (1024 + j)).tag.toNat) ++
    openBytes 10 w.uid 128 ++
    (List.range w.allot).flatMap (fun r => cleanBytes 2 (w.row r).tag.toNat) ++
    openBytes 0 w.uid (1024 - 2 * w.allot) ++
    (List.range w.allot).flatMap (fun r => rowBytes w.width (w.row r)) ++
    (List.range 32).flatMap (fun j => rowBytes w.width (w.row (1024 + j)))
  body ++ openBytes 1 w.uid (recordSize w.allot w.width - body.length)

/-- The mask of the waves that have arrived at a barrier, from each wave's bit. -/
def arrivedMask (bitOf : Nat → Option Nat) (b : Barrier) : Nat :=
  (dedup (b.arrived.filterMap bitOf)).foldl (fun n i => n + 2 ^ i) 0

/-- A named barrier as it is saved (R404). -/
def State.barrierImage (s : State) (b : Barrier) : Nat :=
  fieldsNat [(b.phase.toNat, 0), (b.expected % 128, 32), (if b.filling then 1 else 0, 39),
    (arrivedMask (fun u => (s.wave? u).map (·.idx)) b % 2 ^ 64, 64)]

/-- The cluster barrier as it is saved: bit 64r + w for wave w of the team of rank r (R404). -/
def State.clusterBarrierImage (s : State) (b : Barrier) : Nat :=
  fieldsNat [(b.phase.toNat, 0), (b.expected % 512, 32), (if b.filling then 1 else 0, 41),
    (arrivedMask (fun u => match s.wave? u with
      | some w => (s.team? w.team).map (fun t => 64 * t.rank + w.idx)
      | none => none) b % 2 ^ 256, 256)]

/-- A ring as it is saved (R404). -/
def ringImage (r : Ring) : Nat :=
  fieldsNat ([(r.base % 2 ^ 32, 0), (r.sizeLog % 32 + r.countLog % 8 * 256, 32), (r.acq.toNat, 64), (r.pub.toNat, 96),
    (r.get.toNat, 128), (r.rel.toNat, 160), (if r.init then 1 else 0, 384)] ++
    (List.range 64).map (fun i => (tgetD r.slots i 0 % 8, 192 + 3 * i)))

/-- The fragment records of a unit (R404): arrivals, reuse latches and ungranted reservation entries. -/
def State.unitFrags (s : State) (g : Grp) : Nat :=
  let n := (tvals g.gangs).foldl (fun n x => n + x.latch.length + x.reuse.length) 0 +
    ((tvals s.resv).filter (fun r => !r.granted && (match s.team? r.team with
      | some t => t.grp == g.uid
      | none => false))).length
  Nat.min n maxFrags

/-- The team id as k0 holds it (R114, R404). -/
def Launch.teamId (l : Launch) (t : Team) : Nat :=
  if t.isTask then 0
  else
    let gx := l.field 159 128
    let gy := Nat.max 1 (l.field 175 160)
    fieldsNat [(t.index % gx, 0), (t.index / gx % gy, 32), (t.index / (gx * gy), 48)]

/-- A team's save block (R404). -/
def State.teamBlock (s : State) (l : Launch) (g : Grp) (t : Team) : List (Byte × Bool) :=
  let waves := s.teamWaves t.uid
  let frags := if t.isRoot then s.unitFrags g else 0
  let scratchOff := 4096 + waves.foldl (fun n w => n + recordSize w.allot w.width) 0
  let tileOff := scratchOff + t.granted
  let fragOff := tileOff + t.accTiles * 32768
  let header := fieldsNat [(fragOff % 2 ^ 32, 352), (tileOff % 2 ^ 32, 320), (scratchOff % 2 ^ 32, 288),
    (if t.pair then 1 else 0, 193), (if t.isRoot then 1 else 0, 192), (t.granted % 2 ^ 32, 160), (frags % 256, 152),
    (t.accTiles % 256, 144), (t.rank % 4, 136), (waves.length % 256, 128), (l.teamId t, 64), (l.id.toNat, 0)]
  let body := cleanBytes 64 header ++ openBytes 2 t.uid 192 ++
    (List.range 16).flatMap (fun n => cleanBytes 16 (s.barrierImage (tgetD t.barriers n Barrier.idle))) ++
    (List.range 16).flatMap (fun n => cleanBytes 64 (ringImage (s.ring t.uid n))) ++
    (if t.isRoot then cleanBytes 64 (s.clusterBarrierImage g.cbar) else openBytes 3 t.uid 64) ++ openBytes 4 t.uid 192 ++
    (List.range 64).flatMap (fun n =>
      let x := s.tile t.uid n
      cleanBytes 4 (if n < t.accTiles then x.tag.toNat + (if x.sticky then 65536 else 0) else 0)) ++
    openBytes 5 t.uid 1024 ++ openBytes 6 t.uid 256 ++ openBytes 7 t.uid 768 ++
    waves.flatMap s.waveRecordBytes ++
    (List.range t.granted).map (fun i => (tgetD t.scratch i 0, t.scratchPoison.contains (i / 4))) ++
    (List.range t.accTiles).flatMap (fun n =>
      let x := s.tile t.uid n
      (List.range 4096).flatMap (fun p => (toBytes 8 (tgetD x.elems p 0).toNat).map (fun b => (b, x.poison.contains p)))) ++
    openBytes 8 t.uid (frags * fragSize)
  body ++ openBytes 9 t.uid (blockSize t waves frags - body.length)

/-- Writes an image by 32-byte sectors: a sector with any poisoned byte is poisoned as a whole (R417). -/
def State.writeImage (s : State) (key : Nat) : List (List (Byte × Bool)) → State
  | [] => s
  | c :: t => (s.writeBytes key (c.map (·.1)) (c.any (·.2))).writeImage (key + 32) t

/-- Writes the save blocks of a unit's teams, and returns the room beyond them to the pool (R404). -/
def State.writeBlocks (s : State) (l : Launch) (g : Grp) : List (Team × Nat × Nat) → State
  | [] => s
  | (t, addr, _) :: rest => (s.writeImage (storageKey 0 addr) (chunks 32 (s.teamBlock l g t))).writeBlocks l g rest

/-- The poison of elements as a save block gives it back (R417): element i, of some bytes, stands at an offset, and is poisoned
when its sector is. -/
def poisonBack (bad : Nat → Bool) (n : Nat) (at_ : Nat → Nat) : List Nat := (List.range n).filter (fun i => bad (at_ i))

/-- A wave's registers as its record gives them back (R404, R417): `bad` says which offsets of the record lie in a poisoned
sector. sr.errstat starts anew (R420). -/
def Wave.reloaded (w : Wave) (bad : Nat → Bool) : Wave :=
  let rowsAt := (List.range w.allot).map (fun r => (r, r)) ++ (List.range 32).map (fun j => (1024 + j, w.allot + j))
  let rows := rowsAt.foldl (fun t r =>
    let m := maskOf (poisonBack bad w.width (fun l => 4096 + (r.2 * w.width + l) * 4))
    let old := w.row r.1
    if m = 0 && old.poison = 0 then t else tset t r.1 { old with poison := m, seen := 0 }) w.rows
  { w with
    rows := rows, kpoison := maskOf (poisonBack bad 64 (fun k => 0x800 + 8 * k))
    errstat := if rows.any (fun e => e.2.poison != 0) then 2 else 0 }

/-- A team's scratchpad and tiles as its block gives them back (R404, R417), from the offsets of the two images. -/
def Team.reloaded (t : Team) (bad : Nat → Bool) (scratchOff : Nat) : Team :=
  { t with
    scratchPoison := poisonBack bad (t.granted / 4) (fun i => scratchOff + 4 * i)
    tiles := (List.range t.accTiles).foldl (fun ts n =>
      let p := poisonBack bad 4096 (fun i => scratchOff + t.granted + 32768 * n + 8 * i)
      let old := tgetD ts n Tile.empty
      if p.isEmpty && old.poison.isEmpty then ts else tset ts n { old with poison := p }) t.tiles }

/-- A write of PREEMPT clears busy once every unit of its launch is saved, or restored (R401). -/
def State.preemptDone (s : State) : State :=
  let v := s.regs.preempt
  let named := (tvals s.launches).filter (fun l => l.id.toNat % 2 ^ 58 == v.toNat % 2 ^ 58)
  let open_ := (tvals s.grps).any (fun g => named.any (fun l => l.uid == g.launch) &&
    (if v.getLsbD 62 then decide (g.status ≠ 0) else decide (g.status < 2)))
  if v.getLsbD 63 && !open_ then s.modRegs (fun r => { r with preempt := v &&& ~~~(1#64 <<< 63) }) else s

/-- Whether a unit is ready to be saved (R402): its waves have stopped, their operations, rays of earlier regions, bulk
operations and moves are complete, and nothing that the arbiter granted is left of it; a wave that may retire retires first, and
one that has exited and waits for an operation that has not been granted is saved with it (R318). -/
def State.maySave (s : State) (g : Grp) : Bool :=
  let ws := s.unitWaves g.uid
  let has : Nat → Bool := fun u => ws.any (fun w => w.uid == u)
  ws.all (fun w => s.stopped w && w.pend.isEmpty && !s.mayRetire w) &&
    !(tvals s.bulk).any (fun b => has b.wave) && !(tvals s.moves).any (fun m => has m.wave) &&
    !(tvals s.rays).any (fun r => ws.any (fun w => w.uid == r.wave &&
      (s.regionEmpty w || decide (r.serial < w.regionSerial)))) &&
    !(tvals s.resv).any (fun r => r.granted && (match s.team? r.team with
      | some t => t.grp == g.uid
      | none => false))

/-- A sleep or a YIELD is no wait any more (R215). -/
def Wait.awake : Wait → Wait
  | .sleep _ => .none
  | .yield _ => .none
  | x => x

/-- A stopped wave as it is saved: its open region is discarded, or nothing of it is (R197); a sleep ends (R215), that of the code
that a handler interrupted as well. -/
def State.settleWave (s : State) (w0 : Wave) : State :=
  let w := { w0 with frame := w0.frame.map (fun f => { f with wait := f.wait.awake }) }
  if s.regionEmpty w then s.setWave { w with wait := w.wait.awake, faultWait := none, cancelled := [] } else s.discardRegion w

/-- Saves a unit (R402, R404): open regions are discarded, the save blocks written, and its cores' resources and its ungranted
reservation entries released from the cluster (R318). -/
def State.saveUnit (s : State) (g : Grp) : State :=
  match s.launch? g.launch with
  | none => s
  | some l =>
    let s1 := (s.unitWaves g.uid).foldl (fun s w => s.settleWave w) s
    let g1 := (tget s1.grps g.uid).getD g
    let teams := (s1.unitTeams g.uid).zip g1.blocks
    let s2 := s1.writeBlocks l g1 teams
    let final := teams.map (fun x => (x.2.1, blockSize x.1 (s1.teamWaves x.1.uid) (if x.1.isRoot then s1.unitFrags g1 else 0)))
    let mine : Resv → Bool := fun r => s2.grpOf r.team == g.uid
    let s3 := s2.modGrp g.uid (fun x => { x with
      status := if x.migrate then 3 else 2, blocks := final, saved := (tvals s2.resv).filter mine })
    ({ s3 with resv := s3.resv.filter (fun e => !mine e.2) } : State).preemptDone

/-- The quarters of a team's waves on a core, or a pair, where it has room (R153, R169): each wave and its quarter. -/
def State.teamRoom (s : State) (t : Team) (p : Nat) : Option (List (Nat × Nat)) :=
  let waves := s.teamWaves t.uid
  let off := fun (w : Wave) => if t.pair then w.idx % 2 else 0
  let cores := if t.pair then [p, p + 1] else [p]
  if t.granted > s.scratchFree p ∨ t.accTiles > s.tilesFree (p / 4) then none
  else (assignQuarters (cores.map s.quarters) (waves.map (fun w => (off w, rowCost w.allot w.width)))).map (fun qs =>
    (waves.map (·.uid)).zip qs)

/-- Places for the teams of a unit on distinct cores or pairs of a list: team, first core and the waves' quarters. -/
def State.unitRoom (s : State) : List Team → List Nat → Option (List (Nat × Nat × List (Nat × Nat)))
  | [], _ => some []
  | t :: rest, cores =>
    match cores.findSome? (fun p => (s.teamRoom t p).map (fun q => (p, q))) with
    | none => none
    | some (p, q) => match s.unitRoom rest (cores.filter (fun x => x != p)) with
      | none => none
      | some l => some ((t.uid, p, q) :: l)

/-- The clusters of a launch's partition where a unit has room (R153, R154, R168, R403), in open columns, with table entries for
its saved operations (R306, R318). -/
def State.roomFor (s : State) (l : Launch) (g : Grp) : List (List (Nat × Nat × List (Nat × Nat))) :=
  let teams := s.unitTeams g.uid
  let step := if teams.any (·.pair) then 2 else 1
  let first := 4 * s.partitionColumns * l.partition
  (List.range (4 * s.partitionColumns)).filterMap (fun i =>
    let cluster := first + i
    if s.isClosed (cluster / 4) then none
    else if s.tilesFree cluster < teams.foldl (fun n t => n + t.accTiles) 0 then none
    else if (s.resvOn cluster).length + g.saved.length > 32 then none
    else s.unitRoom teams ((List.range (4 / step)).map (fun k => 4 * cluster + step * k)))

/-- A wave goes to a core and quarter (R169, R403), with the poison that its record holds. The clk since its start (R408) goes
on from what its old column had counted. -/
def State.placeWave (s : State) (w : Wave) (bad : Nat → Bool) (core quarter : Nat) : State :=
  let clk := s.colClk (core / 16)
  s.setWave { w.reloaded bad with
    pcore := core, startClk := (clk : Int) - ((s.clkOf w : Int) - w.startClk), quarter := quarter, stopping := false,
    taken := false, ready := clk, raised := false }

/-- The waves of a team go to their cores and quarters, in wave index order, each read from its record, the first of which lies
at an offset of the block (R404). -/
def State.placeWaves (s : State) (bad : Nat → Bool) (pair : Bool) (core : Nat) : Nat → List (Nat × Nat) → State
  | _, [] => s
  | off, (uid, quarter) :: rest =>
    match s.wave? uid with
    | none => s.placeWaves bad pair core off rest
    | some w =>
      (s.placeWave w (fun i => bad (off + i)) (core + (if pair then w.idx % 2 else 0)) quarter).placeWaves bad pair core
        (off + recordSize w.allot w.width) rest

/-- A team and its waves go to a core (R169, R403), with the poison that the sectors of their save block hold (R417). -/
def State.placeTeam (s : State) (x : (Nat × Nat × List (Nat × Nat)) × Nat) : State :=
  match s.team? x.1.1 with
  | none => s
  | some t =>
    let bad : Nat → Bool := fun i => s.poisonedAt 0 false (storageKey 0 (x.2 + i))
    let scratchOff := 4096 + (s.teamWaves t.uid).foldl (fun n w => n + recordSize w.allot w.width) 0
    (s.modTeam t.uid (fun t => { t.reloaded bad scratchOff with pcore := x.1.2.1 })).placeWaves bad t.pair x.1.2.1 4096
      x.1.2.2

/-- Restores a unit released for it on a cluster with room (R169, R403), with its reservation entries (R318); which one of
several is open. -/
def State.restoreUnit (s : State) (l : Launch) (g : Grp) : State :=
  match s.roomFor l g with
  | [] => s
  | r :: rs =>
    let at_ := choose g.uid r (r :: rs)
    let core := (at_.head?.map (·.2.1)).getD 0
    let s1 := (at_.zip (g.blocks.map (·.1))).foldl State.placeTeam s
    let back := g.saved.map (fun e => { e with cluster := core / 4, readyAt := none })
    let s2 := ({ s1 with resv := back.foldl (fun t e => tset t e.id e) s1.resv } : State).modGrp g.uid (fun x =>
      { x with status := 0, migrate := false, blocks := [], saved := [], cluster := core / 4 })
    (s2.wake (core / 16)).preemptDone

/-- UNIT_SAVE (R168, R402, R404): a resident unit of a suspended launch, or of a closed column when another has room, begins
to stop; a unit whose waves have stopped and whose operations have drained is saved. -/
def execUnitSave (g : Nat) (s : State) : Host.Outcome State Fault Refusal :=
  .next (match tget s.grps g with
    | none => s.preemptDone
    | some x => match s.launch? x.launch with
      | none => s
      | some l =>
        if x.status = 0 then
          if l.suspended then s.stopUnit x false
          else if s.isClosed (x.cluster / 4) && !(s.roomFor l x).isEmpty then s.stopUnit x true
          else s
        else if x.status = 1 && s.maySave x then s.saveUnit x
        else s)

/-- UNIT_RESTORE (R168, R403): a unit released for restore goes back to a cluster with room. -/
def execUnitRestore (g : Nat) (s : State) : Host.Outcome State Fault Refusal :=
  .next (match tget s.grps g with
    | none => s
    | some x => match s.launch? x.launch with
      | none => s
      | some l => if x.status = 3 && !l.suspended && s.dev == .d0 then s.restoreUnit l x else s)

/-- Suspends every launch of a list (R401): its undispatched work is held and its units begin to stop; one that is on its way to
another cluster stays saved. -/
def State.suspend (s : State) (ls : List Launch) : State :=
  ls.foldl (fun (s : State) l =>
    let s0 := s.modLaunch l.uid (fun x => { x with suspended := true })
    let s1 : State := { s0 with grps := s0.grps.map (fun e =>
      if e.2.launch != l.uid || e.2.status == 0 then e
      else (e.1, { e.2 with migrate := false, status := if e.2.status = 3 then 2 else e.2.status })) }
    ((tvals s1.grps).filter (fun g => g.launch == l.uid && g.status == 0)).foldl (fun s g => s.stopUnit g false) s1) s

/-- Releases a launch (R401): its saved units may be restored. -/
def State.unsuspend (s : State) (l : Launch) : State :=
  let s1 := s.modLaunch l.uid (fun x => { x with suspended := false })
  { s1 with grps := s1.grps.map (fun e =>
      if e.2.launch == l.uid && e.2.status == 2 then (e.1, { e.2 with status := 3 }) else e) }

/-- A write of PREEMPT (R401): ignored while busy. -/
def State.preemptWrite (s : State) (v : DWord) (resume : Bool) : State :=
  if s.regs.preempt.getLsbD 63 || s.dev != .d0 then s
  else
    let word := BitVec.ofNat 64 (2 ^ 63 + (if resume then 2 ^ 62 else 0) + v.toNat % 2 ^ 58)
    let s1 := s.modRegs (fun r => { r with preempt := word })
    let ls := (tvals s1.launches).filter (fun l => l.id.toNat % 2 ^ 58 == v.toNat % 2 ^ 58)
    (if resume then ls.foldl State.unsuspend s1 else s1.suspend ls).preemptDone

/-- PREEMPT_SUSPEND (R401): a write of PREEMPT with action 0. -/
def execPreemptSuspend (v : DWord) (s : State) : Host.Outcome State Fault Refusal := .next (s.preemptWrite v false)

/-- PREEMPT_RESUME (R401): a write of PREEMPT with action 1. -/
def execPreemptResume (v : DWord) (s : State) : Host.Outcome State Fault Refusal := .next (s.preemptWrite v true)

end Sys2Proof.Machine
end

