-- ==== Sys2Proof/Machine/Engines.lean ====
section
/-!
DEFINITION. The copy engines' steps on bulk operations (R277, R278, R289, R429) and the bound on copies held open (R171).
-/

namespace Sys2Proof.Machine

/-- COPY_ENGINE_COMPLETE (R277, R289, R429): a copy, a block-store transfer or a digest completes; a CPYRING publishes its
slots one by one instead (R275). -/
def execCopyEngineComplete (b : Nat) (s : State) : Host.Outcome State Fault Refusal :=
  .next (match tget s.bulk b with
    | none => s
    | some x => match s.wave? x.wave with
      | none => s
      | some w =>
        if x.faultWait.isSome || s.dev != .d0 then s
        else if x.kind.isCopy then s.completeCopy x w
        else if x.isKv then s.completeKv x w
        else s.completeDigest x w)

/-- COPY_ENGINE_FAULT (R278): a copy stops at a non-replayable or version fault. -/
def execCopyEngineFault (b : Nat) (s : State) : Host.Outcome State Fault Refusal :=
  .next (match tget s.bulk b with
    | none => s
    | some x => match s.wave? x.wave with
      | none => s
      | some w =>
        if x.faultWait.isSome || s.dev != .d0 || !s.bulkMayRead x w || x.isKv then s else s.stopCopy x w)

/-- Some bytes of an engine's operation, between two places, are read ahead of the rest (R277, R327, R350): of a bulk operation
or of a CBPUT's move; of a ray, the word at an address. -/
def State.engineRead (s : State) (op lo n : Nat) : State :=
  match tget s.bulk op, tget s.moves op, tget s.rays op with
  | some b, _, _ => (match s.wave? b.wave with
    | some w =>
      if b.faultWait.isSome || s.dev != .d0 then s
      else if b.isKv then (s.kvTake b w).modBulk op (fun x => { x with data := ((s.kvTake b w).bulkTake x w lo (lo + n)).1 })
      else s.bulkTook b w (s.bulkTake b w lo (lo + n)).1
    | none => s)
  | none, some m, _ => (match s.wave? m.wave with
    | some w => if s.dev != .d0 then s else s.moveTake m w lo (lo + n)
    | none => s)
  | none, none, some r => if r.faultWait.isSome || s.dev != .d0 then s else s.rayTake r lo
  | none, none, none => s

/-- Some bytes of a copy or a KVLD, between two places, are written ahead of the rest (R277). -/
def State.engineWrite (s : State) (op lo n : Nat) : State :=
  match tget s.bulk op with
  | some b => (match s.wave? b.wave with
    | some w =>
      if b.faultWait.isSome || s.dev != .d0 then s
      else if b.isKv then s.kvPut b w lo (lo + n) else s.bulkPut b w lo (lo + n)
    | none => s)
  | none => s

/-- The engine of a CPYRING reads on while the copy waits for slots (R275, R350); a miss that it meets waits for the host. -/
def execRingReadAhead (op : Nat) (s : State) : Host.Outcome State Fault Refusal :=
  .next (match tget s.bulk op with
    | some b => (match b.kind, s.wave? b.wave with
      | .ring _ _ _ _ _, some w =>
        if b.faultWait.isSome || s.dev != .d0 then s
        else
          let (t, st) := s.bulkTake b w 0 (maxOf (b.data.left.map (·.2)))
          if t.left != b.data.left then s.bulkTook b w t
          else (match st with
            | some x => (match x.err with
              | .miss level => s.bulkWait b w x level
              | .cause _ => s)
            | none => s)
      | _, _ => s)
    | none => s)

/-- Bytes of an abandoned destination (R171): each is the old or the copied one, by a free value. -/
def mixBytes (n : Nat) : List (Byte × Bool) → List (Byte × Bool) → List (Byte × Bool)
  | o :: os, c :: cs => (if (Config.freeWord n).getLsbD 0 then c else o) :: mixBytes (n + 1) os cs
  | _, _ => []

/-- An abandoned range of a memory destination (R171). -/
def State.mixRange (s : State) (e : Eng) (va : Nat) (new : List (Byte × Bool)) : State :=
  let (old, _) := s.engRead e va new.length
  (({ s with free := s.free + new.length } : State).engWrite e va (mixBytes s.free old new)).1

/-- An abandoned range of scratchpad (R171). -/
def State.mixScratch (s : State) (w : Wave) (off : Nat) (new : List (Byte × Bool)) : State :=
  let old := s.scratchRange w off new.length
  ({ s with free := s.free + new.length } : State).scratchWrite w off (mixBytes s.free old new)

/-- A copy is abandoned at the bound (R171): every byte of its destination holds its old value or the copied value. What the
bytes carried of poison is recorded (R415). -/
def State.abandonCopy (s : State) (b : Bulk) (w : Wave) : State :=
  let e := s.bulkEng b w (s.dropsTag b.tag)
  let gs := s.segs b
  let (s1, p) := (b.parts gs 0 (maxOf (b.unput.map (·.2)))).foldl (fun (a : State × Bool) x =>
    let (g, off, n) := x
    let bs := (a.1.fetch w e b.data (g.source b.kind.toMem) off n).1
    (if b.kind.toMem then a.1.mixRange e (g.va + (off - g.off)) bs else a.1.mixScratch w (g.scr + (off - g.off)) bs,
      a.2 || bs.any (·.2))) (s, b.carried)
  let s2 := s1.carriedPoison w 13 p
  match b.kind with
  | .ring _ n _ _ slots =>
    let r := s2.ring w.team n
    s2.updateRing w.team n { r with held := r.held.filter (fun i => !slots.contains i), waiters := r.waiters.erase (.copy b.id) }
  | _ => s2

/-- Whether a copy's destination lies in column-private memory, as its pages are mapped now (R170). -/
def State.copiesPrivate (s : State) (b : Bulk) : Bool :=
  match b.kind with
  | .copyOut va _ n => s.privateRange (s.domainOf b.launch) false va n
  | .scatter elems z => elems.any (fun x => s.privateRange (s.domainOf b.launch) false x.1 z)
  | _ => false

/-- The copies of a unit that hold a region open and are outstanding (R170): those that the bound of R171 is for. -/
def State.heldCopies (s : State) (g : Grp) : List Bulk :=
  (tvals s.bulk).filter (fun b => b.colPrivate && s.copiesPrivate b && (s.unitWaves g.uid).any (fun w => w.uid == b.wave))

/-- COPY_DRAIN_TIMEOUT (R171): 65,536 clk after a stopping unit's waves reached their boundaries, the copies still
outstanding are abandoned; their waves go back to the entry of the region that issued them, and count as they did there. -/
def execCopyDrainTimeout (g : Nat) (s : State) : Host.Outcome State Fault Refusal :=
  .next (match tget s.grps g with
    | none => s
    | some x =>
      if x.status ≠ 1 || !(s.unitWaves g).all s.stopped || s.colClk (x.cluster / 4) < x.drainClk + 65536 then s
      else (s.heldCopies x).foldl (fun (s : State) b => match s.wave? b.wave with
        | none => s
        | some w =>
          let s1 := (s.abandonCopy b w).engCancel b.eng
          let s2 : State := { s1 with bulk := tdel s1.bulk b.id }
          match s2.wave? b.wave with
          | none => s2
          | some w1 => s2.discardRegion w1) s)

end Sys2Proof.Machine
end

