-- ==== Sys2Proof/Machine/Faults.lean ====
section
/-!
DEFINITION. The walkers' cache, the host fault queue and its answers (R248 to R251), and line moves (R253).
-/

namespace Sys2Proof.Machine

/-- PAGE_WALK (R248, R251): a walk that reaches a leaf may be kept; an entry that does not map is never cached. -/
def execPageWalk (dom va : Nat) (s : State) : Host.Outcome State Fault Refusal :=
  .next (if va ≥ 2 ^ 52 || (s.tlbHit? dom va).isSome then s
    else match s.walk dom va with
      | .error _ => s
      | .ok (e, level) =>
        let size := (pageSize level (bits e 63 62)).getD 4096
        let entry : TlbEntry :=
          { domain := dom, page := va / size * size / 4096, pages := size / 4096, leaf := BitVec.ofNat 64 e, inUse := true }
        { s with tlb := entry :: s.tlb })

/-- The lowest record id that no posted, unanswered record holds (R250). -/
def State.freeRecordId (s : State) : Nat :=
  let used := (s.faults.filter (·.posted)).map (·.ext)
  minOf 0 ((List.range (used.length + 1)).filter (fun i => !used.contains i))

/-- The record of a replayable fault (R250). -/
def FaultRec.image (r : FaultRec) : Nat :=
  r.va % 2 ^ 64 * 2 ^ 192 + r.domain % 65536 * 2 ^ 176 + 2 ^ 160 + r.access.toNat * 2 ^ 152 + r.level % 256 * 2 ^ 144 +
    r.launch.toNat * 2 ^ 64 + r.lcore.toNat * 2 ^ 32 + r.ext % 65536

/-- FAULT_RECORD_POST (R250): a record that waits for room in the host fault queue is written when there is room, with an id
that no other outstanding record holds; while all 65,536 are held it waits as well. -/
def execFaultRecordPost (r : Nat) (s : State) : Host.Outcome State Fault Refusal :=
  .next (match s.faults.find? (fun x => x.id == r && !x.posted) with
    | none => s
    | some x =>
      let size := 2 ^ (bits s.regs.faultq.toNat 3 0 + 7)
      let rd := bits s.regs.faultIdx.toNat 63 32
      let wr := bits s.regs.faultIdx.toNat 31 0
      let ext := s.freeRecordId
      if (wr + 2 ^ 32 - rd) % 2 ^ 32 ≥ size ∨ ext ≥ 65536 then s
      else
        let x : FaultRec := { x with posted := true, ext := ext }
        let s1 := s.writeBytes (storageKey 2 (bits s.regs.faultq.toNat 63 12 * 4096 + 32 * (wr % size))) (toBytes 32 x.image)
          false
        { s1 with
          faults := s1.faults.map (fun y => if y.id = r then x else y)
          regs := { s1.regs with faultIdx := BitVec.ofNat 64 (rd * 2 ^ 32 + (wr + 1) % 2 ^ 32) } })

/-- What a number of the record that something waits on becomes when the host answers it. -/
def dropWait (r : Nat) (x : Option Nat) : Option Nat := if x = some r then none else x

/-- The pages that a cancelled waiter finds faulted (R250): the one it waited for as well, when the record it waits on is
cancelled. -/
def cancelPage (cancel : Bool) (r page : Nat) (wait : Option Nat) (old : List Nat) : List Nat :=
  if cancel && wait == some r then page :: old else old

/-- Every access that waits on a record goes on (R250): it walks again, or, after a cancel, meets a fault of cause 1 on the
record's page. -/
def State.answer (s : State) (x : FaultRec) (cancel : Bool) : State :=
  let r := x.id
  let also : Wave → Bool := fun w => cancel && w.faultWait.isSome &&
    s.waiters.any (fun y => y.cls == 5 && y.num == w.uid && y.record == r)
  let s1 : State := { s with
    faults := s.faults.filter (fun y => y.id != r)
    waves := s.waves.map (fun e => (e.1, if also e.2 then { e.2 with faultWait := none, cancelled := x.page :: e.2.cancelled }
      else { e.2 with faultWait := dropWait r e.2.faultWait
                      cancelled := cancelPage cancel r x.page e.2.faultWait e.2.cancelled }))
    bulk := s.bulk.map (fun e => (e.1, { e.2 with
      faultWait := dropWait r e.2.faultWait, cancelled := cancelPage cancel r x.page e.2.faultWait e.2.cancelled }))
    rays := s.rays.map (fun e => (e.1, { e.2 with
      faultWait := dropWait r e.2.faultWait, cancelled := cancelPage cancel r x.page e.2.faultWait e.2.cancelled }))
    moves := s.moves.map (fun e => (e.1, { e.2 with
      faultWait := dropWait r e.2.faultWait, cancelled := cancelPage cancel r x.page e.2.faultWait e.2.cancelled }))
    groups := s.groups.map (fun e => (e.1, { e.2 with
      faultWait := dropWait r e.2.faultWait, cancelled := cancelPage cancel r x.page e.2.faultWait e.2.cancelled }))
    packetCopies := s.packetCopies.map (fun e => (e.1, { e.2 with
      faultWait := dropWait r e.2.faultWait, cancelled := cancelPage cancel r x.page e.2.faultWait e.2.cancelled }))
    waiters := if cancel then (s.waiters.filter (fun y => !(y.record == r && y.cls == 5))).map (fun y =>
        if y.record = r then { y with cancelled := true } else y)
      else s.waiters.filter (fun y => y.record != r || y.cancelled) }
  ((List.range 4).filter (fun h => s.waiters.any (fun y => y.cls == 4 && y.num == h && y.record == r && !y.cancelled))).foldl
    (fun (s : State) h => s.present h (s.head h).current false) (s1.retryWrites r cancel)

/-- A write of REPLAY (R250); an id that no posted record holds changes nothing but the register. -/
def State.replayWrite (s : State) (r : Nat) (cancel : Bool) : State :=
  let s1 : State := { s with regs := { s.regs with
    replay := BitVec.ofNat 64 (r % 65536 + if cancel then 65536 else 0) } }
  match s1.faults.find? (fun x => x.ext == r && x.posted) with
  | none => s1
  | some x => s1.answer x cancel

/-- FAULT_REPLAY (R250). -/
def execFaultReplay (r : Nat) (s : State) : Host.Outcome State Fault Refusal := .next (s.replayWrite r false)

/-- FAULT_CANCEL (R250). -/
def execFaultCancel (r : Nat) (s : State) : Host.Outcome State Fault Refusal := .next (s.replayWrite r true)

/-- A write of TLBINV_CTL with a scope (R251): ignored while busy. -/
def State.tlbinvWrite (s : State) (v : DWord) (scope : Nat) : State :=
  if s.regs.tlbinvCtl.getLsbD 63 then s
  else { s with regs := { s.regs with
    tlbinvCtl := BitVec.ofNat 64 (2 ^ 63 + scope * 2 ^ 48 + v.toNat % 2 ^ 48) } }

/-- TLBINV_RANGE (R251): a write with scope 0. -/
def execTlbinvRange (v : DWord) (s : State) : Host.Outcome State Fault Refusal := .next (s.tlbinvWrite v 0)

/-- TLBINV_DOMAIN (R251): a write with scope 1. -/
def execTlbinvDomain (v : DWord) (s : State) : Host.Outcome State Fault Refusal := .next (s.tlbinvWrite v 1)

/-- TLBINV_ALL (R251): a write with scope 2. -/
def execTlbinvAll (v : DWord) (s : State) : Host.Outcome State Fault Refusal := .next (s.tlbinvWrite v 2)

/-- Whether the invalidation in progress covers a page of a domain (R251). -/
def Regs.invalidates (r : Regs) (dom page pages : Nat) : Bool :=
  let v := r.tlbinvCtl.toNat
  let first := bits r.tlbinvVa.toNat 51 12
  match bits v 49 48 with
  | 0 => dom == bits v 47 32 && decide (page < first + bits v 31 0) && decide (first < page + pages)
  | 1 => dom == bits v 47 32
  | _ => true

/-- The accesses to memory of a pending operation. -/
def PendKind.memAccs : PendKind → List LaneAcc
  | .loadScratch _ => []
  | k => k.accs

/-- TLBINV_DONE (R251): every access that was translated through an entry of the range has been performed; no entry of the
range is left and busy clears. -/
def execTlbinvDone (s : State) : Host.Outcome State Fault Refusal :=
  .next (
    let busy := s.regs.tlbinvCtl.getLsbD 63
    let old := (tvals s.waves).any (fun w => w.pend.any (fun p => p.kind.memAccs.any (fun a =>
      s.regs.invalidates (s.domainOf w.launch) (a.addr / 4096) 1)))
    if !busy || old then s
    else { s with
      tlb := s.tlb.filter (fun t => !s.regs.invalidates t.domain t.page t.pages)
      regs := { s.regs with tlbinvCtl := s.regs.tlbinvCtl &&& ~~~(1#64 <<< 63) } })

/-- The lines that the fence of a queue watches (R102, R253). -/
def State.watched (s : State) (n : Nat) (q : Queue) : List Nat :=
  if q.st ≠ .fence then []
  else match s.packetSlots n q [0] with
    | .ok [v] => match s.packetSlots n q (List.range ((moreOf v).getD 0 + 1)) with
      | .ok slots => (List.range (bits v 67 64)).filterMap (fun i =>
          match s.translate q.domain (fenceEntry slots i).addr .read with
          | .ok x => some (lineOf x.key)
          | .error _ => none)
      | .error _ => []
    | _ => []

/-- Whether a launch in deterministic mode is accepted and not retired. While one is, the model's device moves no line, so that
no line of its det pages leaves home (R253); moving a line is the device's own choice and shows nowhere (log entry 80). -/
def State.detLaunch (s : State) : Bool := (tvals s.launches).any (fun l => l.field 119 119 == 1)

/-- LINE_MOVE (R253): a line of plain data moves to a slice, or back to its home; the lines that R253 keeps at home stay. -/
def execLineMove (line slice : Nat) (s : State) : Host.Outcome State Fault Refusal :=
  .next (
    let home := homeSlice (line * 128)
    if slice = home then s.recall (line * 128)
    else if slice ≥ 128 || s.versions.any (fun v => v.line == line) || s.detLaunch ||
        s.queues.any (fun e => (s.watched e.1 e.2).contains line) then s
    else { s with moved := tset s.moved line slice })

end Sys2Proof.Machine
end

