-- ==== Sys2Proof/Machine/Check.lean ====
section
/-!
DEFINITION. Checks and their retries (R409 to R419), vertical buses and the remap table (R255 to R261), lost task-pool entries
(R118).
-/

namespace Sys2Proof.Machine

/-- The column whose stack holds a storage location. -/
def stackColumn (key : Nat) : Option Nat := if key / 2 ^ 48 = 1 then some (key % 2 ^ 48 / 2 ^ 31) else none

/-- The vertical bus that carries a line of a column's stack (R255): o[12:10] of its column offset. -/
def busOf (key : Nat) : Nat := bits (key % 2 ^ 31) 12 10

/-- The accesses of a pending operation whose storage lies in a column's stack, or the others. -/
def inColumn (col : Nat) (a : LaneAcc) : Bool := stackColumn a.key == some col

/-- Poisoned results of an access whose stack went offline (R261): the data itself is a free value. -/
def LaneAcc.lost (a : LaneAcc) (n : Nat) : List LaneWrite :=
  (a.rows.zipIdx).map (fun r => { row := r.1, lane := a.lane, val := Config.freeWord (n + r.2), poison := true })

/-- What is left of a pending operation when a column's stack goes offline, and the accesses that it loses (R261). -/
def PendKind.offline (col : Nat) : PendKind → Option PendKind × List LaneAcc × Bool
  | .load l => let r := l.filter (fun a => !inColumn col a)
    (if r.isEmpty then none else some (.load r), l.filter (inColumn col), false)
  | .store l => let r := l.filter (fun a => !inColumn col a)
    (if r.isEmpty then none else some (.store r), l.filter (inColumn col), true)
  | .atomic op fmts l ret =>
    let r := (fmts.zip l).filter (fun x => !inColumn col x.2)
    (if r.isEmpty then none else some (.atomic op (r.map (·.1)) (r.map (·.2)) ret), l.filter (inColumn col), true)
  | .queueOp op l => let r := l.filter (fun a => !inColumn col a)
    (if r.isEmpty then none else some (.queueOp op r), l.filter (inColumn col), true)
  | .casc l arr o f => let r := l.filter (fun a => !inColumn col a)
    (if r.isEmpty then none else some (.casc r arr o f), l.filter (inColumn col), true)
  | .loadK k a sg => if inColumn col a then (none, [a], false) else (some (.loadK k a sg), [], false)
  | k => (some k, [], false)

/-- One pending operation of a wave meets its column's loss (R261): its loads return poison, its stores and atomics are
dropped, each with a record of event 7. -/
def State.losePend (s : State) (col uid : Nat) (p : Pend) : State :=
  match s.wave? uid with
  | none => s
  | some w =>
    let (left, gone, writes) := p.kind.offline col
    if gone.isEmpty then s
    else
      let n := gone.foldl (fun n a => n + a.rows.length) 0
      let results := (gone.zipIdx).flatMap (fun x => x.1.lost (s.free + 32 * x.2))
      let w1 := { w with pend := w.pend.filterMap (fun (q : Pend) =>
        if q.id = p.id then left.map (fun k => { q with kind := k }) else some q) }
      let w2 := (w1.deliver results).sawPoison (n > 0)
      let w3 := match p.kind with
        | .loadK k _ _ => { w2.setK k (Config.freeWord s.free ++ Config.freeWord (s.free + 1)) with
            kpoison := w2.kpoison ||| (1#64 <<< k) }
        | _ => w2
      let s1 : State := ({ s with free := s.free + 32 * gone.length } : State).setWave w3
      if writes then gone.foldl (fun (s : State) a => s.waveRecord w 6 7 a.addr []) s1 else s1

/-- A column's stack goes offline (R261). -/
def State.goOffline (s : State) (col source : Nat) : State :=
  let c := s.column col
  if c.offline then s
  else
    let s1 := (s.modColumn col (fun c => { c with offline := true })).errorRecord source 6 0 Who.none []
    let s2 := (tvals s1.waves).foldl (fun (s : State) w => w.pend.foldl (fun (s : State) p => s.losePend col w.uid p) s) s1
    { s2 with kvBlocks := s2.kvBlocks.map (fun e => (e.1, if e.2.column = col then { e.2 with lost := true } else e.2)) }

/-- A remap entry of a column's bus (R257). -/
def State.remapEntry (s : State) (col bus : Nat) : Nat := (((s.column col).remap[bus]?).getD 0).toNat

/-- Writes a remap entry to both copies (R258). -/
def State.setRemap (s : State) (col bus v : Nat) : State :=
  s.modColumn col (fun c => { c with remap := lset c.remap bus (BitVec.ofNat 8 v), shadow := lset c.shadow bus (BitVec.ofNat 8 v) })

/-- Whether a bus serves: it is not retired. -/
def State.busServes (s : State) (col bus : Nat) : Bool := !bit (s.remapEntry col bus) 7

/-- The route of a retired bus (R256, R257): 1 the neighbour in x, 2 the neighbour in y, 3 none. -/
def State.route (s : State) (col bus : Nat) : Nat :=
  if s.busServes (col ^^^ 1) bus then 1 else if s.busServes (col ^^^ 4) bus then 2 else 3

/-- Sets the route of a column's bus where it is retired; with none left the stack goes offline (R256, R257). -/
def State.reroute (s : State) (col bus : Nat) : State :=
  if s.busServes col bus then s
  else
    let r := s.route col bus
    let s1 := s.setRemap col bus (128 + 32 * r)
    if r = 3 then s1.goOffline col 7 else s1

/-- A bus is retired (R256, R412): its lines take the spline route, as do those that were routed through it, and a record of
event 4 is written. -/
def State.retireBus (s : State) (col bus : Nat) : State :=
  if !s.busServes col bus then s
  else
    let s1 := s.setRemap col bus 128
    let s2 := [col, col ^^^ 1, col ^^^ 4].foldl (fun (s : State) c => s.reroute c bus) s1
    s2.errorRecord 7 4 0 Who.none []

/-- The buses that fuse data name, as bus + 8 × column, are retired at reset (R256), and those whose neighbours do not serve
either put their columns' stacks offline. -/
def State.retireFused (s : State) : State :=
  let s1 := s.fuses.foldl (fun (s : State) x => s.setRemap (x / 8) (x % 8) 128) s
  s1.fuses.foldl (fun (s : State) x => s.reroute (x / 8) (x % 8)) s1

/-- The sector of committed memory at a storage location is poisoned. -/
def State.poisonSector (s : State) (key : Nat) : State := { s with poison := setPoison s.poison (key / 32) true }

/-- The sector of a tag's version of a line is poisoned; with tag 0, that of the committed line. -/
def State.poisonCopy (s : State) (key : Nat) (tag : BitVec 4) : State :=
  if tag = 0 then s.poisonSector key
  else { s with versions := s.versions.map (fun v =>
      if v.line = lineOf key ∧ v.tag = tag then { v with poison := v.poison ||| (1#4 <<< (key % 128 / 32)) } else v) }

/-- A corrected or transient error on a wave's own registers (R420). -/
def Wave.corrected (w : Wave) : Wave :=
  let n := bits w.errstat.toNat 63 48
  { w with errstat := BitVec.ofNat 64 (Nat.min (n + 1) 65535 * 2 ^ 48 + (w.errstat.toNat % 2 ^ 48 ||| 1)) }

/-- Every element of a row is poisoned. -/
def Row.allPoison (r : Row) (width : Nat) : Row := (List.range width).foldl (fun r l => r.setPoison l true) r

/-- A register of a wave under retry (R411, R419): y is a row, 2048 + k for a k register, or 4096 + a row for that row's tag; z
a lane. What a lost tag leaves of its row is not said: its elements count as lost (DESIGN CHOICE; log entry 83). -/
def State.checkRegister (s : State) (w : Wave) (y z : Nat) (pass : Bool) : State :=
  let detail := [(0, y % 256), (1, z)]
  if pass then (s.setWave w.corrected).waveRecord w 1 0 0 detail
  else if y ≥ 2048 then
    if y < 4096 then (s.setWave { w with kpoison := w.kpoison ||| (1#64 <<< (y - 2048)) }).waveRecord w 1 1 0 detail
    else (s.setWave { w with rows := tset w.rows (y - 4096) ((w.row (y - 4096)).allPoison w.width), errstat := w.errstat ||| 2 }).waveRecord
      w 1 1 0 detail
  else
    (s.setWave { w with rows := tset w.rows y ((w.row y).setPoison z true), errstat := w.errstat ||| 2 }).waveRecord w 1 1 0
      detail

/-- A failed check in a queue's packet or counter copy (R103, R109): a packet slot (y = 0) and the launch record that
a packet in PARSE names (y = 2) give reason 5, entry z of a fence (y = 1) reason 6. -/
def State.checkQueue (s : State) (n y z : Nat) : State :=
  let q := s.queue n
  if q.st = .disabled ∨ q.st = .error ∨ q.pending = 0 then s
  else if y = 0 then s.reject n 5 (q.slotAddr 0) q.header []
  else match s.parserRead n q.domain (q.slotAddr 0) 64 with
    | .ok v =>
      if y = 2 then
        (if q.st = .parse ∧ (bits v 7 0 = 1 ∨ q.fired = true) then s.reject n 5 (packetAddr v) (some v) [] else s)
      else match s.packetSlots n q (List.range ((moreOf v).getD 0 + 1)) with
      | .ok slots =>
        if bits v 7 0 = 2 ∧ z < bits v 67 64 ∧ (q.st = .parse ∨ q.st = .fence) then
          s.reject n 6 (fenceEntry slots z).addr (some v) [(8, z)]
        else s
      | .error _ => s
    | .error _ => s

/-- A task that the device keeps: n is a pool task's number (0), a place among the held tasks (1), or the number of a wave that
a Jig has formed, whose i-th task it is (2). -/
def State.keptTask (s : State) (n i : Nat) : Nat → Option Task
  | 0 => s.pool.find? (fun t => t.id == n)
  | 1 => (s.heldTasks[n]?).map (·.task)
  | 2 => (s.formed.find? (fun f => f.id == n)).bind (fun f => f.tasks[i]?)
  | _ => none

/-- A task-pool entry, or a task held at its source, is lost (R118): it is dropped, recorded with the bytes still readable, and
its launch marked faulted. Which bytes are readable, and the entry's index, are free values. -/
def State.dropTask (s : State) (n at_ i : Nat) : State :=
  match s.keptTask n i at_ with
  | none => s
  | some t =>
    let (mask, s1) := s.fresh
    let (index, s2) := s1.fresh
    let bytes := t.record.flatMap (fun x => toBytes 4 x.toNat)
    let detail := ((bytes.zipIdx).filter (fun b => mask.getLsbD b.2)).map (fun b => (b.2, b.1.toNat))
    let who : Who := match s.launch? t.launch with
      | some l => { launch := l.id, lcore := 0xFFFF, wave := 0xFF }
      | none => Who.none
    let s3 := (s2.errorRecord 11 8 (index.toNat % 2 ^ 18) who detail).markFaulted t.launch
    match at_ with
    | 0 => { s3 with pool := s3.pool.filter (fun x => x.id != n) }
    | 1 => { s3 with heldTasks := s3.heldTasks.eraseIdx n }
    | _ =>
      let left := s3.formed.map (fun f => if f.id = n then { f with tasks := f.tasks.eraseIdx i } else f)
      { s3 with formed := left.filter (fun f => !f.tasks.isEmpty) }

/-- The record of a check's end, naming the wave whose access met it, where one is named: event 0, which that wave counts, or
event 1 (R411, R420). -/
def State.checkRecord (s : State) (site w addr : Nat) (pass : Bool) : State :=
  let event := if pass then 0 else 1
  match s.wave? w with
  | some x => (if pass then s.modWave w Wave.corrected else s).waveRecord x site event addr []
  | none => s.errorRecord site event addr Who.none []

/-- A corrected or transient error on a vertical bus, met by a wave's access (0 for none): the 64th within 1,048,576 clk of its
column retires it (R412). -/
def State.busTransient (s : State) (col bus wave : Nat) : State :=
  let c := s.column col
  let recent := (bus + 8 * c.clk) :: c.busErrors.filter (fun e => decide (e / 8 + 1048576 > c.clk))
  let s1 := (s.modColumn col (fun c => { c with busErrors := recent })).checkRecord 7 wave 0 true
  if (recent.filter (fun e => e % 8 == bus)).length ≥ 64 then s1.retireBus col bus else s1

/-- A copy of a remap entry that an uncorrectable error strikes (R259, R260): z is 0 for the primary, 1 for the shadow, 2 for
both. -/
def State.checkRemap (s : State) (col bus z : Nat) : State :=
  if z ≥ 2 then s.goOffline col 14
  else
    let c := s.column col
    let v := (((if z = 0 then c.shadow else c.remap)[bus]?).getD 0).toNat
    (s.setRemap col bus v).errorRecord 14 5 0 Who.none []

/-- The copy that a buffer holds of a sector fails for good, or is dropped and fetched again (R411). -/
def State.checkCopy (s : State) (buffer key : Nat) (pass : Bool) : State :=
  { s with badCopies := if pass then s.badCopies.filter (fun c => c != (buffer, key / 32)) else (buffer, key / 32) :: s.badCopies }

/-- The taken bytes of an operation, of the 8 from a place on, are poisoned (R409, R411). -/
def Taken.lose (t : Taken) (place : Nat) : Taken :=
  { t with got := t.got.map (fun g => (g.1, (g.2.zipIdx).map (fun b =>
      (b.1.1, b.1.2 || (g.1 + b.2) / 8 == place / 8)))) }

/-- What an engine's buffer holds of an operation is lost (R411): 8 bytes of a bulk operation, of a CBPUT's move or of a COPY
packet, from a place on; a ray, whose results are poisoned; or a sum of a token of a combine group, or an arrival's element that
is parked for it, with place = 65,536 × token + element. -/
def State.loseBuffer (s : State) (op place : Nat) : State :=
  match tget s.bulk op, tget s.moves op, tget s.rays op, tget s.packetCopies op with
  | some b, _, _, _ => s.modBulk op (fun x => { x with data := b.data.lose place })
  | none, some m, _, _ => { s with moves := tset s.moves op { m with data := m.data.lose place } }
  | none, none, some r, _ => { s with rays := tset s.rays op { r with bad := true } }
  | none, none, none, some c => { s with packetCopies := tset s.packetCopies op { c with lost := dedup (place / 8 :: c.lost) } }
  | none, none, none, none => { s with groups := tmod s.groups op (fun g => { g with tokens := tmod g.tokens (place / 65536) (fun t =>
      { t with bad := dedup (place % 65536 :: t.bad) }) }) }

/-- An element of a tile is poisoned. -/
def State.poisonTile (s : State) (team tile elem : Nat) : State :=
  let u := s.tile team tile
  s.setTile team tile { u with poison := setPoison u.poison elem true }

/-- A lost entry of a reservation table (R409): every element of the tiles that its operation names is poisoned (DESIGN CHOICE;
log entry 83). -/
def State.loseEntry (s : State) (e : Nat) : State :=
  match tget s.resv e with
  | some x => x.tiles.foldl (fun (s : State) t => s.setTile t.1 t.2 { s.tile t.1 t.2 with poison := List.range 4096 }) s
  | none => s

/-- A lost reuse latch of a member of a gang (R303, R409): every word of its fragment is poisoned. -/
def State.loseLatch (s : State) (grp gang member : Nat) : State :=
  s.modGrp grp (fun g => { g with gangs := tmod g.gangs gang (fun x => { x with reuse := tmod x.reuse member (fun f =>
    { f with poison := f.words.map (·.1) }) }) })

/-- A failed check in the matrix engines' stores (R409): y is a tile with z its element; 4096, x being an entry of a reservation
table; or 8192 + a gang, x being a unit and z the member whose reuse latch it is. -/
def State.loseMatrix (s : State) (x y z : Nat) : State :=
  if y < 4096 then s.poisonTile x y z else if y = 4096 then s.loseEntry x else s.loseLatch x (y - 8192) z

/-- Whether a check in the matrix engines' stores names something that is there. -/
def State.inMatrix (s : State) (x y z : Nat) : Bool :=
  if y < 4096 then (match s.team? x with
    | some t => decide (y < t.accTiles) && decide (z < 4096)
    | none => false)
  else if y = 4096 then (tget s.resv x).isSome
  else (match tget s.grps x with
    | some g => decide (8192 ≤ y) && (((tget g.gangs (y - 8192)).bind (fun n => tget n.reuse z)).isSome)
    | none => false)

/-- A lasting error of stacked DRAM or of a memory unit at a location: of a block of the block store (z = 1, x being the block
and y the byte), or of a location, y being the branch tag whose version it is (R262, R414). -/
def State.poisonUnit (s : State) (x y z : Nat) : State :=
  if z = 1 then { s with kvBlocks := tmod s.kvBlocks x (fun b => { b with poison := setPoison b.poison (y / 32) true }) }
  else s.poisonCopy x (BitVec.ofNat 4 y)

/-- The block and byte of the block store that a number from 2^100 on names: a transfer over a bus may be a block's (R412). -/
def blockPlace? (z : Nat) : Option (Nat × Nat) :=
  if z < 2 ^ 100 then none else some ((z - 2 ^ 100) / 2 ^ 32, (z - 2 ^ 100) % 2 ^ 32)

/-- Whether a column's vertical bus carries the line of a location: its own, or one of a retired bus of a neighbour that is
routed over it (R255, R256). -/
def State.busCarries (s : State) (col bus key : Nat) : Bool :=
  match stackColumn key with
  | none => false
  | some c => busOf key == bus && (c == col || (!s.busServes c bus &&
      ((s.route c bus == 1 && c ^^^ 1 == col) || (s.route c bus == 2 && c ^^^ 4 == col))))

/-- A read over a bus that fails over the new route too poisons what it reads (R412): the line of a location, or bytes of a block
whose column's bus it was; with z = 0 it passes. None where the bus does not carry it. -/
def State.busLost (s : State) (col bus z : Nat) : Option (State → State) :=
  if z = 0 then some id
  else match blockPlace? z with
    | some (block, byte) => (tget s.kvBlocks block).bind (fun b =>
        if b.column = col then some (fun s => s.poisonUnit block byte 1) else none)
    | none => if s.busCarries col bus (z - 1) then some (fun s => s.poisonSector (z - 1)) else none

/-- The transfers to a core (y below 256), to its instruction buffer (below 512) or to the engines (512) that a check of the
networks names. -/
def transferBuffer (y : Nat) : Nat := if y < 256 then coreTransfer y else if y < 512 then y else engineTransfer

/-- A lasting error of a transfer over the networks or a link (R411, R418): of a store's data to a location, whose sector, in
the version of a branch's tag y, is poisoned (z = 0); of what a reader named by y reads there (z = 1); of a byte y of the block x
that the block store sends (z = 2). -/
def State.loseTransfer (s : State) (wave x y z : Nat) : State :=
  match z with
  | 0 => (s.poisonCopy x (BitVec.ofNat 4 y)).modWave wave (fun w => w.sawPoison true)
  | 1 => s.checkCopy (transferBuffer y) x false
  | _ => s.checkCopy (blockTransfer x) y false

/-- The record of a queue's packet or counter copy that a retry has saved (R411, R421). -/
def State.queuePassed (s : State) (n : Nat) : State :=
  s.errorRecord 0 0 0 Who.none (queueDetail n (s.queue n).readIndex (s.queue n).header [])

/-- CHECK_RETRY (R409 to R412, R414, R418, R419): a failed check's retry ends. `site` is the code of R409 and the wave whose
access met it, 0 for none. The unit is named by x, y and z: a wave, row and lane (1); a team and scratchpad offset (2); a
location and the buffer whose copy it is, a core, or 256 + a core for its instruction and loop buffers (3); a location and a
branch tag, or a block, a byte and 1 (4, 5, 6, 9); a column, bus and location plus one, or a block's place from 2^100 on, or 0
where the read over the new route passes (7); as loseTransfer says (8, 10); a task, where it stands and its place there (11); a team, tile and element, or see loseMatrix (12);
an operation and a place in its buffer (13); a column, bus and copy (14); a queue, kind and fence entry (0). -/
def execCheckRetry (site : Nat × Nat) (x y z : Nat) (pass : Bool) (s : State) : Host.Outcome State Fault Refusal :=
  .next (
    let here := fun (s : State) (addr : Nat) => s.checkRecord site.1 site.2 addr pass
    match site.1 with
    | 0 => if pass then s.queuePassed x else s.checkQueue x y z
    | 1 => match s.wave? x with
      | some v => if z < v.width && (decide (y < v.allot) || (decide (1024 ≤ y) && decide (y < 1056)) ||
          (decide (2048 ≤ y) && decide (y < 2112)) || (decide (4096 ≤ y) && decide (y < 4096 + v.allot)) ||
          (decide (5120 ≤ y) && decide (y < 5152))) then s.checkRegister v y z pass else s
      | none => s
    | 2 => match s.team? x with
      | some t => if y < t.granted then
          here (if pass then s else s.modTeam x (fun t => { t with scratchPoison := setPoison t.scratchPoison (y / 4) true })) y
        else s
      | none => s
    | 3 => if y < 512 then here (s.checkCopy y x pass) x else s
    | 7 => if x ≥ 16 || y ≥ 8 || !s.busServes x y then s
      else match s.busLost x y z with
        | none => s
        | some lose =>
          if pass then s.busTransient x y site.2
          else
            let s1 := s.retireBus x y
            if z = 0 then s1 else here (lose s1) (if z < 2 ^ 100 then z - 1 else 0)
    | 8 => here (if pass then s else s.loseTransfer site.2 x y z) (if z = 2 then 0 else x)
    | 10 => here (if pass then s else s.loseTransfer site.2 x y z) (if z = 2 then 0 else x)
    | 11 => if pass then here s 0 else s.dropTask x y z
    | 12 => if s.inMatrix x y z then here (if pass then s else s.loseMatrix x y z) 0 else s
    | 13 => here (if pass then s else s.loseBuffer x y) 0
    | 14 => if x ≥ 16 || y ≥ 8 then s else if pass then here s 0 else s.checkRemap x y z
    | n => if n > 14 then s else here (if pass then s else s.poisonUnit x y z) x)

end Sys2Proof.Machine
end

