-- ==== Sys2Proof/Machine/Float.lean ====
section
/-!
DEFINITION. Floating-point arithmetic, comparison, the special functions, packed 16-bit arithmetic and conversion (R226 to
R233).
-/

namespace Sys2Proof.Machine

/-- sr.fpctl as arithmetic uses it (R67). -/
def Ctx.fpctl (c : Ctx) : FpCtl := FpCtl.of c.w.fpctl

/-- A floating form of two sources on F32 (R226): `f` answers bits and flags from x, y and d. -/
def Ctx.float (c : Ctx) (dSrc : Bool) (d a b : BitVec 7) (kb : BitVec 1) (f : Nat → Nat → Nat → Nat × FFlags) :
    Except Raise State :=
  let srcs := [a.toNat] ++ bFields kb b ++ (if dSrc then [d.toNat] else [])
  let res := c.act.map (fun l =>
    (l, f (c.w.reg l a.toNat).toNat (c.operandB kb b l).toNat (c.w.reg l d.toNat).toNat))
  c.vector
    { regs := d.toNat :: srcs, data := srcs.map (fun r => (r, [1])), reads := srcs, kreads := bKregs kb b
      writes := res.map (fun x => c.w.put x.1 d.toNat (BitVec.ofNat 32 x.2.1) (mkTag 1 0)) }
    (orFlags (res.map (fun x => x.2.2))) id

/-- FABS, FNEG and FCOPYSIGN (R226): payload bits kept, no flag, operand a's tag. -/
def Ctx.signBit (c : Ctx) (d a : BitVec 7) (other : List Nat) (ks : List Nat) (f : Nat → Word → Word) :
    Except Raise State :=
  c.vector
    { regs := d.toNat :: a.toNat :: other, data := (a.toNat :: other).map (fun r => (r, [1]))
      reads := a.toNat :: other, kreads := ks
      writes := c.act.map (fun l => c.w.put l d.toNat (f l (c.w.reg l a.toNat)) (c.w.tagAt l a.toNat)) } 0 id

/-- FADD (R226). -/
def execFadd (d a b : BitVec 7) (kb : BitVec 1) (s : State) : Host.Outcome State Fault Refusal :=
  s.issue (fun c => c.float false d a b kb (fun x y _ => fAdd c.fpctl f32 x y))

/-- FSUB (R226). -/
def execFsub (d a b : BitVec 7) (kb : BitVec 1) (s : State) : Host.Outcome State Fault Refusal :=
  s.issue (fun c => c.float false d a b kb (fun x y _ => fSub c.fpctl f32 x y))

/-- FMUL (R226). -/
def execFmul (d a b : BitVec 7) (kb : BitVec 1) (s : State) : Host.Outcome State Fault Refusal :=
  s.issue (fun c => c.float false d a b kb (fun x y _ => fMul c.fpctl f32 x y))

/-- FFMA (R226). -/
def execFfma (d a b : BitVec 7) (kb : BitVec 1) (s : State) : Host.Outcome State Fault Refusal :=
  s.issue (fun c => c.float true d a b kb (fun x y z => fFma c.fpctl f32 false x y z))

/-- FFMS (R226). -/
def execFfms (d a b : BitVec 7) (kb : BitVec 1) (s : State) : Host.Outcome State Fault Refusal :=
  s.issue (fun c => c.float true d a b kb (fun x y z => fFma c.fpctl f32 true x y z))

/-- FMIN (R226). -/
def execFmin (d a b : BitVec 7) (kb : BitVec 1) (s : State) : Host.Outcome State Fault Refusal :=
  s.issue (fun c => c.float false d a b kb (fun x y _ => fMinMax c.fpctl f32 false false x y))

/-- FMAX (R226). -/
def execFmax (d a b : BitVec 7) (kb : BitVec 1) (s : State) : Host.Outcome State Fault Refusal :=
  s.issue (fun c => c.float false d a b kb (fun x y _ => fMinMax c.fpctl f32 true false x y))

/-- FMINNUM (R226). -/
def execFminnum (d a b : BitVec 7) (kb : BitVec 1) (s : State) : Host.Outcome State Fault Refusal :=
  s.issue (fun c => c.float false d a b kb (fun x y _ => fMinMax c.fpctl f32 false true x y))

/-- FMAXNUM (R226). -/
def execFmaxnum (d a b : BitVec 7) (kb : BitVec 1) (s : State) : Host.Outcome State Fault Refusal :=
  s.issue (fun c => c.float false d a b kb (fun x y _ => fMinMax c.fpctl f32 true true x y))

/-- FABS (R226). -/
def execFabs (d a : BitVec 7) (s : State) : Host.Outcome State Fault Refusal :=
  s.issue (fun c => c.signBit d a [] [] (fun _ x => x &&& 0x7FFFFFFF#32))

/-- FNEG (R226). -/
def execFneg (d a : BitVec 7) (s : State) : Host.Outcome State Fault Refusal :=
  s.issue (fun c => c.signBit d a [] [] (fun _ x => x ^^^ 0x80000000#32))

/-- FCOPYSIGN (R226): x with bit 31 of y. -/
def execFcopysign (d a b : BitVec 7) (kb : BitVec 1) (s : State) : Host.Outcome State Fault Refusal :=
  s.issue (fun c => c.signBit d a (bFields kb b) (bKregs kb b) (fun l x =>
    (x &&& 0x7FFFFFFF#32) ||| (c.operandB kb b l &&& 0x80000000#32)))

/-- FCLASS (R226): the one-hot class word, tag I32. -/
def execFclass (d a : BitVec 7) (s : State) : Host.Outcome State Fault Refusal :=
  s.issue (fun c => c.vector
    { regs := [d.toNat, a.toNat], data := [(a.toNat, [1])], reads := [a.toNat]
      writes := c.act.map (fun l => c.w.put l d.toNat (BitVec.ofNat 32 (fClass (c.w.reg l a.toNat).toNat))
        (mkTag 2 0)) } 0 id)

/-- FCMP (R227): 1 or 0 with tag I32. -/
def Ctx.fcmp (c : Ctx) (k : FCond) (d a b : BitVec 7) (kb : BitVec 1) : Except Raise State :=
  let srcs := [a.toNat] ++ bFields kb b
  let res := c.act.map (fun l => (l, fCompare c.fpctl k (c.w.reg l a.toNat).toNat (c.operandB kb b l).toNat))
  c.vector
    { regs := d.toNat :: srcs, data := srcs.map (fun r => (r, [1])), reads := srcs, kreads := bKregs kb b
      writes := res.map (fun x => c.w.put x.1 d.toNat (boolWord x.2.1) (mkTag 2 0)) }
    (orFlags (res.map (fun x => x.2.2))) id

/-- FCMP.EQ (R227). -/
def execFcmpEq (d a b : BitVec 7) (kb : BitVec 1) (s : State) : Host.Outcome State Fault Refusal :=
  s.issue (fun c => c.fcmp .eq d a b kb)

/-- FCMP.NE (R227). -/
def execFcmpNe (d a b : BitVec 7) (kb : BitVec 1) (s : State) : Host.Outcome State Fault Refusal :=
  s.issue (fun c => c.fcmp .ne d a b kb)

/-- FCMP.LT (R227). -/
def execFcmpLt (d a b : BitVec 7) (kb : BitVec 1) (s : State) : Host.Outcome State Fault Refusal :=
  s.issue (fun c => c.fcmp .lt d a b kb)

/-- FCMP.LE (R227). -/
def execFcmpLe (d a b : BitVec 7) (kb : BitVec 1) (s : State) : Host.Outcome State Fault Refusal :=
  s.issue (fun c => c.fcmp .le d a b kb)

/-- FCMP.UNORD (R227). -/
def execFcmpUnord (d a b : BitVec 7) (kb : BitVec 1) (s : State) : Host.Outcome State Fault Refusal :=
  s.issue (fun c => c.fcmp .unord d a b kb)

/-- FCMP.ORD (R227). -/
def execFcmpOrd (d a b : BitVec 7) (kb : BitVec 1) (s : State) : Host.Outcome State Fault Refusal :=
  s.issue (fun c => c.fcmp .ord d a b kb)

/-- A special function (R228): class S2, F32 in and out. -/
def Ctx.special (c : Ctx) (fn : Nat) (d a : BitVec 7) : Except Raise State :=
  let res := c.act.map (fun l => (l, specialFn fn (c.w.reg l a.toNat)))
  c.variable
    { regs := [d.toNat, a.toNat], data := [(a.toNat, [1])], reads := [a.toNat]
      writes := res.map (fun x => c.w.put x.1 d.toNat (BitVec.ofNat 32 x.2.1) (mkTag 1 0)) }
    (orFlags (res.map (fun x => x.2.2))) id

/-- RCP (R228, R229). -/
def execRcp (d a : BitVec 7) (s : State) : Host.Outcome State Fault Refusal := s.issue (fun c => c.special 0 d a)

/-- RSQ (R228, R229). -/
def execRsq (d a : BitVec 7) (s : State) : Host.Outcome State Fault Refusal := s.issue (fun c => c.special 1 d a)

/-- SQRT (R228, R229). -/
def execSqrt (d a : BitVec 7) (s : State) : Host.Outcome State Fault Refusal := s.issue (fun c => c.special 2 d a)

/-- EXP2 (R228, R229). -/
def execExp2 (d a : BitVec 7) (s : State) : Host.Outcome State Fault Refusal := s.issue (fun c => c.special 3 d a)

/-- LOG2 (R228, R229). -/
def execLog2 (d a : BitVec 7) (s : State) : Host.Outcome State Fault Refusal := s.issue (fun c => c.special 4 d a)

/-- SIN (R228, R229). -/
def execSin (d a : BitVec 7) (s : State) : Host.Outcome State Fault Refusal := s.issue (fun c => c.special 5 d a)

/-- COS (R228, R229). -/
def execCos (d a : BitVec 7) (s : State) : Host.Outcome State Fault Refusal := s.issue (fun c => c.special 6 d a)

/-- TANH (R228, R229). -/
def execTanh (d a : BitVec 7) (s : State) : Host.Outcome State Fault Refusal := s.issue (fun c => c.special 7 d a)

/-- Applies an operation to the two halves of a word and packs the results (R230). -/
def packed (f : Nat → Nat → Nat → Nat × FFlags) (x y z : Nat) : Nat × FFlags :=
  let lo := f (x % 65536) (y % 65536) (z % 65536)
  let hi := f (x / 65536) (y / 65536) (z / 65536)
  (lo.1 + hi.1 * 65536, lo.2 ||| hi.2)

/-- Packed 16-bit arithmetic (R230) in F16x2 or BF16x2; the addend d is a data operand where `dSrc`. -/
def Ctx.packed16 (c : Ctx) (fmt : Nat) (dSrc : Bool) (d a b : BitVec 7) (kb : BitVec 1)
    (f : Nat → Nat → Nat → Nat × FFlags) : Except Raise State :=
  let srcs := [a.toNat] ++ bFields kb b ++ (if dSrc then [d.toNat] else [])
  let res := c.act.map (fun l =>
    (l, packed f (c.w.reg l a.toNat).toNat (c.operandB kb b l).toNat (c.w.reg l d.toNat).toNat))
  c.vector
    { regs := d.toNat :: srcs, data := srcs.map (fun r => (r, [fmt])), reads := srcs, kreads := bKregs kb b
      writes := res.map (fun x => c.w.put x.1 d.toNat (BitVec.ofNat 32 x.2.1) (mkTag fmt 0)) }
    (orFlags (res.map (fun x => x.2.2))) id

/-- HADD2 (R230). -/
def execHadd2 (d a b : BitVec 7) (kb : BitVec 1) (s : State) : Host.Outcome State Fault Refusal :=
  s.issue (fun c => c.packed16 4 false d a b kb (fun x y _ => fAdd c.fpctl f16 x y))

/-- HSUB2 (R230). -/
def execHsub2 (d a b : BitVec 7) (kb : BitVec 1) (s : State) : Host.Outcome State Fault Refusal :=
  s.issue (fun c => c.packed16 4 false d a b kb (fun x y _ => fSub c.fpctl f16 x y))

/-- HMUL2 (R230). -/
def execHmul2 (d a b : BitVec 7) (kb : BitVec 1) (s : State) : Host.Outcome State Fault Refusal :=
  s.issue (fun c => c.packed16 4 false d a b kb (fun x y _ => fMul c.fpctl f16 x y))

/-- HFMA2 (R230). -/
def execHfma2 (d a b : BitVec 7) (kb : BitVec 1) (s : State) : Host.Outcome State Fault Refusal :=
  s.issue (fun c => c.packed16 4 true d a b kb (fun x y z => fFma c.fpctl f16 false x y z))

/-- HMIN2 (R230). -/
def execHmin2 (d a b : BitVec 7) (kb : BitVec 1) (s : State) : Host.Outcome State Fault Refusal :=
  s.issue (fun c => c.packed16 4 false d a b kb (fun x y _ => fMinMax c.fpctl f16 false false x y))

/-- HMAX2 (R230). -/
def execHmax2 (d a b : BitVec 7) (kb : BitVec 1) (s : State) : Host.Outcome State Fault Refusal :=
  s.issue (fun c => c.packed16 4 false d a b kb (fun x y _ => fMinMax c.fpctl f16 true false x y))

/-- BADD2 (R230). -/
def execBadd2 (d a b : BitVec 7) (kb : BitVec 1) (s : State) : Host.Outcome State Fault Refusal :=
  s.issue (fun c => c.packed16 5 false d a b kb (fun x y _ => fAdd c.fpctl bf16 x y))

/-- BMUL2 (R230). -/
def execBmul2 (d a b : BitVec 7) (kb : BitVec 1) (s : State) : Host.Outcome State Fault Refusal :=
  s.issue (fun c => c.packed16 5 false d a b kb (fun x y _ => fMul c.fpctl bf16 x y))

/-- BFMA2 (R230). -/
def execBfma2 (d a b : BitVec 7) (kb : BitVec 1) (s : State) : Host.Outcome State Fault Refusal :=
  s.issue (fun c => c.packed16 5 true d a b kb (fun x y z => fFma c.fpctl bf16 false x y z))

/-- The elements that CVT converts (R231): the first source element, the first destination element and their count; none
where the group does not exist. -/
def cvtRange (ns nd g : Nat) : Option (Nat × Nat × Nat) :=
  let n := Nat.min ns nd
  if g * n + n > Nat.max ns nd then none
  else if ns ≥ nd then some (g * n, 0, n) else some (0, g * n, n)

/-- The exact value of a source element of CVT with its scale (R231): RAW reads as F32. -/
def cvtSource (fmt : Nat) (scale : Int) (w : Nat) (i : Nat) : FVal :=
  let n := elemBits fmt
  let v := valueOf fmt (w / 2 ^ (n * i) % 2 ^ n)
  if isNarrow fmt then v.scale scale else v

/-- Converts elements one after another, each that falls under R79 taking the next draw (R80). Answers the elements, the
flags and the draws taken. -/
def cvtElems (fmt : Nat) (r : RMode) (sat : Bool) : List FVal → List Word → Nat → List Nat × FFlags × Nat
  | [], _, k => ([], 0, k)
  | v :: vs, ds, k =>
    let takes := takesDraw fmt v
    let e := convertElem fmt r sat (ds.headD 0) v
    let rest := cvtElems fmt r sat vs (if takes then ds.tail else ds) (if takes then k + 1 else k)
    (e.1 :: rest.1, e.2 ||| rest.2.1, rest.2.2)

/-- The destination of CVT in one lane (R232): its word, or its two words for I64, the flags and the draws taken. -/
def Ctx.cvtLane (c : Ctx) (d a f : Nat) (r : RMode) (sat : Bool) (g l : Nat) : Nat × FFlags × Nat :=
  let sf := c.w.fmtAt l a
  let src := if sf = 19 then c.w.pair l a else (c.w.reg l a).toNat
  let stag := c.w.tagAt l a
  match cvtRange (elemCount (if sf = 0 then 1 else sf)) (elemCount f) g with
  | none => (0, 0, 0)
  | some (si, di, n) =>
    let vals := (List.range n).map (fun i =>
      (cvtSource sf (tagScale stag) src (si + i)).scale (-(c.w.keptScale l d f)))
    let (es, fl, k) := cvtElems f r sat vals (c.draws l n) 0
    let prior := (c.w.row (c.w.rowOf l d)).tag
    let keep := if tagFmt prior = f then (c.w.reg l d).toNat else 0
    let w := elemBits f
    let out := (List.range (elemCount f)).map (fun i =>
      if di ≤ i ∧ i < di + n then (es[i - di]?).getD 0 else keep / 2 ^ (w * i) % 2 ^ w)
    (packElems w out, fl, k)

/-- Whether CVT keeps elements of a lane's destination, which it then reads (R232, R416): the source fills only a group of
them, and the destination has their format already. -/
def Ctx.cvtKeeps (c : Ctx) (d a f l : Nat) : Bool :=
  let sf := c.w.fmtAt l a
  f != 19 && tagFmt (c.w.row (c.w.rowOf l d)).tag == f && decide (elemCount (if sf = 0 then 1 else sf) < elemCount f)

/-- CVT (R231 to R233): class S2 into formats 8 to 18, else plain. -/
def execCvt (d a : BitVec 7) (f : BitVec 5) (r : BitVec 2) (sv : BitVec 1) (g : BitVec 2) (s : State) :
    Host.Outcome State Fault Refusal :=
  s.issue (fun c =>
    let fn := f.toNat
    let wideS := fun l => c.w.fmtAt l a.toNat == 19
    let anyWide := c.act.any wideS
    let badGroup := fun l =>
      (cvtRange (elemCount (let x := c.w.fmtAt l a.toNat; if x = 0 then 1 else x)) (elemCount fn) g.toNat).isNone
    let res := c.act.map (fun l => (l, c.cvtLane d.toNat a.toNat fn (RMode.of r.toNat) (sv == 1) g.toNat l))
    let o : OpSpec :=
      { regs := [d.toNat] ++ (if fn = 19 then [d.toNat + 1] else []) ++ [a.toNat] ++
          (if anyWide then [a.toNat + 1] else [])
        pairs := (if fn = 19 then [d.toNat] else []) ++ (if anyWide then [a.toNat] else [])
        reads := [a.toNat]
        laneReads := (c.act.filter wideS).map (fun l => (l, a.toNat + 1)) ++
          (c.act.filter (c.cvtKeeps d.toNat a.toNat fn)).map (fun l => (l, d.toNat))
        writes := res.flatMap (fun x => if fn = 19 then c.w.putPair x.1 d.toNat x.2.1
          else [c.w.put x.1 d.toNat (BitVec.ofNat 32 x.2.1) (mkTag fn (c.w.keptScale x.1 d.toNat fn))]) }
    let fl := orFlags (res.map (fun x => x.2.2.1))
    let drew := fun (w : Wave) => res.foldl (fun w x => w.drew x.1 x.2.2.2) w
    let bad := c.act.flatMap (fun l => (if fn = 19 ∧ d.toNat % 2 = 1 then [(l, d.toNat)] else []) ++
      (if badGroup l || (wideS l && a.toNat % 2 == 1) then [(l, a.toNat)] else []))
    do
      c.checkRegs (pairFields o.regs o.pairs)
      if !bad.isEmpty then throw (c.raiseIn 4 (dedup (bad.map (·.1)))
        (choose c.key 0 (dedup (bad.map (fun x => c.formatInfo x.1 x.2)))))
      if isNarrow fn then c.variable o fl drew else c.vector o fl drew)

end Sys2Proof.Machine
end

