-- ==== Sys2Proof/Machine/HostMem.lean ====
section
/-!
DEFINITION. Accesses from outside the device: the host's through CXL.mem (R438, R439) and peers' (R138, R364, R440).
-/

namespace Sys2Proof.Machine

/-- Whether n bytes from a device address on lie in a decoder's window (R438): decoder 0 is GDDR 7 below MEMCAP0, decoder 1
the stacked interleaved addresses below 2^35. -/
def State.inDecoder (s : State) (dec addr n : Nat) : Bool :=
  if dec = 0 then decide (addr + n ≤ s.regs.memcap0.toNat) else dec == 1 && decide (addr + n ≤ 2 ^ 35)

/-- Whether an outside access to a storage location finds no data: the block-store reservation or an offline column
(R439). -/
def State.noData (s : State) (key : Nat) : Bool := s.inKvReservation key || s.inOffline key

/-- A byte that an outside read returns, with its poison (R439); in an owned backing area it is undefined (R128). -/
def State.outsideByte (s : State) (dec a : Nat) : Byte × Bool :=
  let key := storageOf dec a
  if s.noData key then (0, true) else (s.readByte 0 false (s.physKey key), s.poisonedAt 0 false (s.physKey key))

/-- Whether the device answers CXL.mem (R442, R449). -/
def State.answers (s : State) : Bool := s.dev == .d0

/-- The lines of n bytes from an address on in a decoder's window. -/
def outsideLines (dec addr n : Nat) : List Nat := dedup ((List.range n).map (fun i => lineOf (storageOf dec (addr + i))))

/-- A read from outside: committed versions of the lines are converted (R149), and what is returned is kept. -/
def State.outsideRead (s : State) (dec addr n : Nat) : State :=
  let s1 := (outsideLines dec addr n).foldl State.convert s
  let bs := (List.range n).map (fun i => s1.outsideByte dec (addr + i))
  { s1 with hostRead := bs.map (·.1), hostReadPoison := bs.any (·.2) }

/-- A write from outside acts on the committed lines, sector by sector; what falls where no data is found is dropped
(R138, R439). -/
def State.outsideWrite (s : State) (dec addr : Nat) (bytes : List Byte) : List (Nat × Nat) → State
  | [] => s
  | (off, k) :: t =>
    let key := storageOf dec (addr + off)
    (if s.noData key then s else s.writeBytes (s.physKey key) ((bytes.drop off).take k) false).outsideWrite dec addr bytes t

/-- HOST_MEM_READ (R438, R439): the host reads through a decoder, and the home slices track the lines. -/
def execHostMemRead (dec addr n : Nat) (s : State) : Host.Outcome State Fault Refusal :=
  .next (if !s.answers || !s.inDecoder dec addr n then s
    else
      let s1 := s.outsideRead dec addr n
      { s1 with hostLines := dedup (outsideLines dec addr n ++ s1.hostLines) })

/-- HOST_MEM_WRITE (R138, R438, R439). -/
def execHostMemWrite (dec addr : Nat) (bytes : List Byte) (s : State) : Host.Outcome State Fault Refusal :=
  .next (if !s.answers || !s.inDecoder dec addr bytes.length then s
    else s.outsideWrite dec addr bytes (pieces addr bytes.length))

/-- A peer's atomic on this device's memory, performed at the home slice (R364 to R366): an operation code of R361, a format
id, and the operands' bytes. The old value is returned; a poisoned word is returned as it is and not changed. -/
def State.peerAtomic (s : State) (dec code fmt addr : Nat) (bytes : List Byte) : State :=
  let wide := if bytes.length = 4 * amoOperands code 2 then 2 else 1
  let size := 4 * wide
  let key := storageOf dec addr
  if bytes.length ≠ 4 * amoOperands code wide ∨ addr % size ≠ 0 ∨ code ≥ 15 ∨ s.inDecoder dec addr size = false then s
  else
    let s1 := (s.recall key).outsideRead dec addr size
    if s1.hostReadPoison then s1
    else
      let data := (List.range (bytes.length / 4)).map (fun i => BitVec.ofNat 32 (ofBytes ((bytes.drop (4 * i)).take 4)))
      match (amoNew code fmt size (ofBytes s1.hostRead) data).1 with
      | none => s1
      | some v => s1.writeBytes (s1.physKey key) (toBytes size v) false

/-- PEER_ACCESS (R138, R364, R440): a peer's read (0), write (1) or atomic (2 + code + 32 × format) of this device's memory,
through its decoder 0 or 1 window, on the committed line. -/
def execPeerAccess (op mt addr : Nat) (bytes : List Byte) (s : State) : Host.Outcome State Fault Refusal :=
  .next (if !s.answers then s
    else match op with
      | 0 => if s.inDecoder mt addr bytes.length then s.outsideRead mt addr bytes.length else s
      | 1 => if s.inDecoder mt addr bytes.length then s.outsideWrite mt addr bytes (pieces addr bytes.length) else s
      | n + 2 => s.peerAtomic mt (n % 32) (n / 32) addr bytes)

end Sys2Proof.Machine
end

