-- ==== Sys2Proof/Machine/Power.lean ====
section
/-!
DEFINITION. Power (R447 to R450), reset, boot, measurement and attestation (R442 to R444).
-/

namespace Sys2Proof.Machine

/-- POWER_ARBITER_TICK (R447): each column gets whole watts whose sum is within the budget, and the clock step that fits. -/
def execPowerArbiterTick (boardPower : Nat) (grants steps : List Nat) (s : State) : Host.Outcome State Fault Refusal :=
  .next (
    let package := bits s.regs.power.toNat 15 0
    let board := bits s.regs.power.toNat 31 16
    let budget := Nat.min package (board - boardPower)
    if grants.length ≠ 16 || steps.length ≠ 16 || decide (grants.foldl (· + ·) 0 > budget) ||
        !steps.all (fun x => decide (x < 16)) || s.dev != .d0 then s
    else ((grants.zip steps).zipIdx).foldl (fun (s : State) x =>
      s.modColumn x.2 (fun c => { c with grant := x.1.1, step := x.1.2 })) s)

/-- INLET_POWER_REPORT (R447): the board reports the inlet power. -/
def execInletPowerReport (v : Nat) (s : State) : Host.Outcome State Fault Refusal :=
  .next (s.modRegs (fun r => { r with inlet := BitVec.ofNat 64 (v % 65536) }))

/-- POWER_LIMIT_WRITE (R447): the board limit, and the package limit, at most 540 W. -/
def execPowerLimitWrite (v : DWord) (s : State) : Host.Outcome State Fault Refusal :=
  .next (if s.dev != .d0 then s
    else s.modRegs (fun r => { r with
      power := BitVec.ofNat 64 (bits v.toNat 31 16 * 65536 + Nat.min (bits v.toNat 15 0) 540) }))

/-- The resident units of a column that another place has room for begin to move (R168). -/
def State.migrateFrom (s : State) (col : Nat) : State :=
  ((tvals s.grps).filter (fun g => g.cluster / 4 == col && g.status == 0)).foldl (fun (s : State) g =>
    match s.launch? g.launch with
    | some l => if (s.roomFor l g).isEmpty then s else s.stopUnit g true
    | none => s) s

/-- COLUMN_OVERHEAT (R448): the column is closed to dispatch and its units are asked to move. -/
def execColumnOverheat (c : Nat) (s : State) : Host.Outcome State Fault Refusal :=
  .next (if c ≥ 16 || s.isClosed c || s.dev != .d0 then s
    else (s.modColumn c (fun x => { x with closed := true })).migrateFrom c)

/-- COLUMN_COOL (R448): the column opens again. -/
def execColumnCool (c : Nat) (s : State) : Host.Outcome State Fault Refusal :=
  .next (if c ≥ 16 || s.dev != .d0 then s else s.modColumn c (fun x => { x with closed := false }))

/-- Whether a column holds a resident wave or an engine operation (R449). -/
def State.columnBusy (s : State) (c : Nat) : Bool :=
  (tvals s.waves).any (fun w => w.pcore / 16 == c && !s.waveSaved w) ||
    (tvals s.bulk).any (fun b => b.core / 16 == c) || (tvals s.rays).any (fun r => r.core / 16 == c) ||
    (tvals s.resv).any (fun r => r.cluster / 4 == c) ||
    (tvals s.moves).any (fun m => match s.wave? m.wave with
      | some w => w.pcore / 16 == c
      | none => false)

/-- COLUMN_IDLE (R449): 64 clk without a resident wave or an engine operation. -/
def execColumnIdle (c : Nat) (s : State) : Host.Outcome State Fault Refusal :=
  .next (
    let x := s.column c
    if c ≥ 16 || x.power != .active || s.columnBusy c || x.clk < x.idleSince + 64 || s.dev != .d0 then s
    else s.modColumn c (fun x => { x with power := .idle, idleSince := s.ns }))

/-- COLUMN_OFF (R449): 1 ms of IDLE. -/
def execColumnOff (c : Nat) (s : State) : Host.Outcome State Fault Refusal :=
  .next (
    let x := s.column c
    if c ≥ 16 || x.power != .idle || x.waking || s.columnBusy c || s.ns < x.idleSince + 1000000 || s.dev != .d0 then s
    else s.modColumn c (fun x => { x with power := .off }))

/-- COLUMN_WAKE (R449): a dispatch to the column has woken it. -/
def execColumnWake (c : Nat) (s : State) : Host.Outcome State Fault Refusal :=
  .next (
    let x := s.column c
    if c ≥ 16 || x.power == .active || !(x.waking || s.columnBusy c) || s.dev != .d0 then s
    else s.modColumn c (fun x => { x with power := .active, idleSince := x.clk, waking := false }))

/-- Every queue is disabled as a write of enable = 0 does (R93, R450), and one whose enable bit stands at 1 stays so until
software enables it. -/
def State.disableQueues (s : State) : State :=
  (List.range 64).foldl (fun (s : State) n =>
    let x := { s.queue n with off := bit (s.qcb n) 128 }
    match x.st with
    | .disabled => if x.off then s.setQueue n x else s
    | .idle | .error => s.setQueue n { x with st := .disabled, disabling := false }
    | _ => s.setQueue n { x with disabling := true }) s

/-- A unit that cannot be saved is terminated as a double fault is (R450): it has no cause, so the causes in its records are
free values. -/
def State.killUnit (s : State) (g : Grp) : State :=
  (s.unitWaves g.uid).foldl (fun (s : State) w =>
    let (inner, s1) := s.fresh
    let (outer, s2) := s1.fresh
    let at_ := (w.issueAddr?).getD 0
    s2.haltWave w (inner.toNat % 256) 0 at_ (outer.toNat % 256) at_) s

/-- The units for which the save pool lacks room, and none will come, are terminated (R450). -/
def State.killUnsaved (s : State) : State :=
  let gs := tvals s.grps
  if gs.any (fun g => g.status == 1) then s
  else (gs.filter (fun g => g.status == 0 && (s.saveRoom g).isNone)).foldl State.killUnit s

/-- Whether the steps before D3hot are done (R450): every queue disabled, every unit saved, every engine operation drained. -/
def State.mayRest (s : State) : Bool :=
  !s.anyEnabled && (tvals s.grps).all (fun g => decide (g.status ≥ 2)) && s.bulk.isEmpty && s.rays.isEmpty && s.moves.isEmpty &&
    s.packetCopies.isEmpty && (tvals s.resv).all (fun r => !r.granted)

/-- D3HOT_ENTRY (R449, R450): the device makes the steps that software has not made; once they are done it is in D3hot. -/
def execD3hotEntry (s : State) : Host.Outcome State Fault Refusal :=
  .next (if s.dev != .d0 then s
    else if s.mayRest && (tvals s.launches).all (fun l => l.suspended) then { s with dev := .d3hot, cur := 0 }
    else
      let s1 := s.disableQueues
      (s1.suspend ((tvals s1.launches).filter (fun l => !l.suspended))).killUnsaved)

/-- D0_RETURN (R450): counts in clk resume. -/
def execD0Return (s : State) : Host.Outcome State Fault Refusal :=
  .next (if s.dev == .d3hot then { s with dev := .d0 } else s)

/-- What lies outside the device, the part's fuse data, and the model's own counters and inputs, across a reset: host and peer
memory stay. -/
def State.wiped (s : State) : State :=
  { State.reset with
    mem := s.mem.filter (fun c => decide (c.1 ≥ storageKey 2 0))
    poison := s.poison.filter (fun x => decide (x * 32 ≥ storageKey 2 0))
    free := s.free, inputs := s.inputs, noRoom := s.noRoom, fuses := s.fuses }

/-- The machine as a reset leaves it: the buses that fuse data names are retired (R256). -/
def State.afterReset (s : State) : State := s.wiped.retireFused

/-- D3COLD (R449, R450): power is removed and every content and state of the device is lost. -/
def execD3cold (s : State) : Host.Outcome State Fault Refusal := .next { s.wiped with dev := .d3cold }

/-- DEVICE_RESET (R442, R450): the boot ROM runs. -/
def execDeviceReset (s : State) : Host.Outcome State Fault Refusal := .next s.afterReset

/-- BOOT_VERIFY (R442, R443): the ROM measures the image, verifies the signature that it carries against the public key whose hash
is fused, and compares its security version with the fused minimum; when both checks pass the firmware runs and extends M1 and
M2. The step is that of the image and of the part: its outcome of the signature, its version and its minimum are those that
Config gives them (log entry 93). -/
def execBootVerify (sigOk : Bool) (version minVersion : Nat) (image display fuses : List Byte) (s : State) :
    Host.Outcome State Fault Refusal :=
  .next (if s.dev != .boot || s.regs.bootstat != 0 || sigOk != Config.signatureOk image Config.keyHash ||
      version != Config.imageVersion image || minVersion != Config.minVersion then s
    else
      let s1 := s.extend 0 (sha256 image)
      let stat := if !sigOk then 2 else if version < minVersion then 3 else 1
      let s2 := s1.modRegs (fun r => { r with
        bootstat := BitVec.ofNat 64 (stat + if sigOk then version % 2 ^ 32 * 65536 else 0) })
      if stat = 1 then { (s2.extend 1 (sha256 display)).extend 2 (sha256 fuses) with dev := .d0 } else s2)

/-- Whether EXTCTL or ATTCTL is busy (R444). -/
def State.securityBusy (s : State) : Bool := s.regs.extctl.getLsbD 63 || s.regs.attctl.getLsbD 63

/-- MEASUREMENT_EXTEND (R443): a write of EXTCTL; ignored while either register is busy, or for M0 to M3. -/
def execMeasurementExtend (v : DWord) (s : State) : Host.Outcome State Fault Refusal :=
  .next (if s.securityBusy || bits v.toNat 2 0 < 4 || s.dev != .d0 then s
    else s.modRegs (fun r => { r with extctl := BitVec.ofNat 64 (2 ^ 63 + bits v.toNat 2 0) }))

/-- EXTEND_DONE (R443): the extension is done with the digest register, and busy clears. -/
def execExtendDone (s : State) : Host.Outcome State Fault Refusal :=
  .next (if !s.regs.extctl.getLsbD 63 || s.dev != .d0 then s
    else (s.extend (bits s.regs.extctl.toNat 2 0) (toBytes 32 s.regs.digest.toNat)).modRegs (fun r =>
      { r with extctl := r.extctl &&& ~~~(1#64 <<< 63) }))

/-- ATTESTATION_REQUEST (R444): a write of ATTCTL; ignored while either register is busy. -/
def execAttestationRequest (v : DWord) (s : State) : Host.Outcome State Fault Refusal :=
  .next (if s.securityBusy || s.dev != .d0 then s
    else s.modRegs (fun r => { r with attctl := BitVec.ofNat 64 (2 ^ 63 + bits v.toNat 51 13 * 8192) }))

/-- The signed part of an attestation report (R444). -/
def State.reportMessage (s : State) : List Byte :=
  toBytes 4 1 ++ toBytes 4 8192 ++ toBytes 32 s.regs.nonce.toNat ++ (List.range 32).map Config.identityKey ++
    (List.range 8).flatMap (fun i => toBytes 32 (tgetD s.measure i 0).toNat) ++ toBytes 8 (bits s.regs.bootstat.toNat 47 16)

/-- ATTESTATION_DONE (R444): the report is written to host memory, and busy clears. -/
def execAttestationDone (s : State) : Host.Outcome State Fault Refusal :=
  .next (if !s.regs.attctl.getLsbD 63 || s.dev != .d0 then s
    else
      let m := s.reportMessage
      let key := storageKey 2 (bits s.regs.attctl.toNat 51 13 * 8192)
      let s1 := s.writeBytes key (m ++ (List.range 7856).map (Config.signature m)) false
      s1.modRegs (fun r => { r with attctl := r.attctl &&& ~~~(1#64 <<< 63) }))

end Sys2Proof.Machine
end

