-- ==== Sys2Proof/Machine/Registers.lean ====
section
/-!
DEFINITION. The management block (R88, R198, R243, R250, R251, R254, R257, R261, R263, R401, R404, R421, R438 to R450): writes of
its registers, and what they read as.
-/

namespace Sys2Proof.Machine

/-- A register write that takes effect only while no queue is enabled. -/
def State.whileDisabled (s : State) (f : Regs → Regs) : State :=
  if s.anyEnabled || s.dev != .d0 then s else s.modRegs f

/-- QTBASE_WRITE (R88): ignored while a queue is enabled, or with a memory type of 4 to 7. -/
def execQtbaseWrite (v : DWord) (s : State) : Host.Outcome State Fault Refusal :=
  .next (if v.getLsbD 2 then s else s.whileDisabled (fun r => { r with qtbase := v &&& 0x0000FFFFFFFFF007#64 }))

/-- DOMTBASE_WRITE (R243). -/
def execDomtbaseWrite (v : DWord) (s : State) : Host.Outcome State Fault Refusal :=
  .next (s.whileDisabled (fun r => { r with domtbase := v }))

/-- SRAMCFG_WRITE (R254): ignored while a queue is enabled, or with cb_units above 8. -/
def execSramcfgWrite (v : DWord) (s : State) : Host.Outcome State Fault Refusal :=
  .next (if bits v.toNat 3 0 > 8 then s else s.whileDisabled (fun r => { r with sramcfg := v &&& 0x10F#64 }))

/-- Whether KVCFG can hold a value: at most 96 units, 24 GiB (R14), and in use with a size of 1 to 96 and no reserved block
size. What the register does with another value the specification does not say (R263); the model ignores such a write, as R254
has it for SRAMCFG (DESIGN CHOICE, log entry 79). -/
def kvcfgLegal (v : DWord) : Bool :=
  let size := bits v.toNat 15 8
  decide (size ≤ 96) && (!v.getLsbD 16 || (decide (1 ≤ size) && bits v.toNat 1 0 != 3))

/-- KVCFG_WRITE (R14, R263): ignored while a queue is enabled, or unless kv_tables is 1. -/
def execKvcfgWrite (v : DWord) (s : State) : Host.Outcome State Fault Refusal :=
  .next (if !s.regs.sramcfg.getLsbD 8 || !kvcfgLegal v then s
    else s.whileDisabled (fun r => { r with kvcfg := v &&& 0x1FF03#64 }))

/-- CTX_POOL_WRITE (R404): CTXBASE, or CTXSIZE, only while no queue is enabled. -/
def execCtxPoolWrite (size : Bool) (v : DWord) (s : State) : Host.Outcome State Fault Refusal :=
  .next (s.whileDisabled (fun r =>
    if size then { r with ctxsize := v } else { r with ctxbase := v &&& 0xFFFFFFFFFFFFF000#64 }))

/-- PARTCFG_WRITE (R441): a write of mode 3 is ignored. -/
def execPartcfgWrite (v : DWord) (s : State) : Host.Outcome State Fault Refusal :=
  .next (if bits v.toNat 1 0 = 3 then s else s.whileDisabled (fun r => { r with partcfg := v &&& 3#64 }))

/-- PARTQ_WRITE (R441): the partitions of queues 0 to 31, or of queues 32 to 63. -/
def execPartqWrite (hi : Bool) (v : DWord) (s : State) : Host.Outcome State Fault Refusal :=
  .next (s.whileDisabled (fun r => if hi then { r with partqHi := v } else { r with partqLo := v }))

/-- PEERMAP_WRITE (R440): window n mod 2 of peer n ÷ 2; only before any queue is enabled. -/
def execPeermapWrite (n : Nat) (v : DWord) (s : State) : Host.Outcome State Fault Refusal :=
  .next (if n ≥ 8 then s
    else s.whileDisabled (fun r => { r with peermap := tset r.peermap n (v &&& 0x800FFFFFF0000000#64) }))

/-- LOST_CLEAR (R421): a host write of 0 to the lost count of the error queue. -/
def execLostClear (s : State) : Host.Outcome State Fault Refusal :=
  .next (if s.dev != .d0 then s else s.modRegs (fun r => { r with errLost := 0 }))

/-- The 64-bit part i of a 256-bit register replaced. -/
def setPart (x : BitVec 256) (i : Nat) (v : DWord) : BitVec 256 :=
  (x &&& ~~~(BitVec.ofNat 256 ((2 ^ 64 - 1) * 2 ^ (64 * i)))) ||| BitVec.ofNat 256 (v.toNat * 2 ^ (64 * i))

/-- REGISTER_WRITE (R198, R250, R251, R421, R438, R443, R444): the registers whose write has no effect but the value; read-only
registers and offsets that nothing defines ignore it. -/
def execRegisterWrite (off : Nat) (v : DWord) (s : State) : Host.Outcome State Fault Refusal :=
  .next (if s.dev != .d0 then s
    else s.modRegs (fun r => match off with
      | 0x108 => { r with chkctl := v }
      | 0x118 => { r with tlbinvVa := v &&& 0x000FFFFFFFFFF000#64 }
      | 0x128 => { r with faultq := v &&& 0xFFFFFFFFFFFFF00F#64 }
      | 0x130 => { r with faultIdx := (v &&& 0xFFFFFFFF00000000#64) ||| (r.faultIdx &&& 0xFFFFFFFF#64) }
      | 0x200 => { r with errq := v &&& 0xFFFFFFFFFFFFF00F#64 }
      | 0x208 => { r with errIdx := (v &&& 0xFFFFFFFF00000000#64) ||| (r.errIdx &&& 0xFFFFFFFF#64) }
      | 0x3A0 => { r with digest := setPart r.digest 0 v }
      | 0x3A8 => { r with digest := setPart r.digest 1 v }
      | 0x3B0 => { r with digest := setPart r.digest 2 v }
      | 0x3B8 => { r with digest := setPart r.digest 3 v }
      | 0x3C0 => { r with nonce := setPart r.nonce 0 v }
      | 0x3C8 => { r with nonce := setPart r.nonce 1 v }
      | 0x3D0 => { r with nonce := setPart r.nonce 2 v }
      | 0x3D8 => { r with nonce := setPart r.nonce 3 v }
      | _ => r))

/-- COLSTAT of a column (R450's table). -/
def Column.stat (c : Column) : Nat :=
  c.step % 16 + c.grant % 65536 * 256 + (if c.closed then 2 ^ 24 else 0) +
    (match c.power with
      | .active => 0
      | .idle => 1
      | .off => 2) * 2 ^ 25

/-- STACKSTAT (R261). -/
def State.stackStat (s : State) : Nat :=
  (List.range 16).foldl (fun n c => if (s.column c).offline then n + 2 ^ c else n) 0

/-- BUSMAP of a column (R257). -/
def State.busMap (s : State) (c : Nat) : Nat := ofBytes (s.column c).remap

/-- What the host reads at an offset of the management block (R88 to R450); what no chapter defines reads as zero (R438). In
the boot states only BOOTSTAT responds (R442). -/
def State.readRegister (s : State) (off : Nat) : Nat :=
  let r := s.regs
  if s.dev != .d0 && off != 0x380 then 0
  else if 0x180 ≤ off ∧ off < 0x200 ∧ off % 8 = 0 then s.busMap ((off - 0x180) / 8)
  else if 0x300 ≤ off ∧ off < 0x340 ∧ off % 8 = 0 then (tgetD r.peermap ((off - 0x300) / 8) 0#64).toNat
  else if 0x400 ≤ off ∧ off < 0x500 then
    let h := s.head ((off - 0x400) / 64)
    (match (off - 0x400) % 64 with
      | 0 => h.ctl.toNat
      | 8 => h.mode.toNat
      | 16 => h.surf.toNat
      | 24 => h.dom.toNat
      | _ => 0)
  else if 0x600 ≤ off ∧ off < 0x680 ∧ off % 8 = 0 then (s.column ((off - 0x600) / 8)).stat
  else match off with
    | 0x100 => r.qtbase.toNat
    | 0x108 => r.chkctl.toNat
    | 0x110 => r.domtbase.toNat
    | 0x118 => r.tlbinvVa.toNat
    | 0x120 => r.tlbinvCtl.toNat
    | 0x128 => r.faultq.toNat
    | 0x130 => r.faultIdx.toNat
    | 0x138 => r.replay.toNat
    | 0x148 => r.memcap0.toNat
    | 0x150 => r.sramcfg.toNat
    | 0x158 => r.kvcfg.toNat
    | 0x160 => r.ctxbase.toNat
    | 0x168 => r.ctxsize.toNat
    | 0x170 => r.preempt.toNat
    | 0x178 => s.stackStat
    | 0x200 => r.errq.toNat
    | 0x208 => r.errIdx.toNat
    | 0x210 => r.errLost.toNat
    | 0x350 => r.partcfg.toNat
    | 0x358 => r.partqLo.toNat
    | 0x360 => r.partqHi.toNat
    | 0x380 => r.bootstat.toNat
    | 0x388 => r.extctl.toNat
    | 0x390 => r.attctl.toNat
    | 0x500 => r.power.toNat
    | 0x508 => r.inlet.toNat
    | _ => if 0x3A0 ≤ off ∧ off < 0x3C0 then r.digest.toNat / 2 ^ (8 * (off - 0x3A0)) % 2 ^ 64
      else if 0x3C0 ≤ off ∧ off < 0x3E0 then r.nonce.toNat / 2 ^ (8 * (off - 0x3C0)) % 2 ^ 64 else 0

end Sys2Proof.Machine
end

