-- ==== Sys2Proof/Machine/Tasks.lean ====
section
/-!
DEFINITION. ENQT and ENQTN (R378 to R380).
-/

namespace Sys2Proof.Machine

/-- What the task table says of each lane's entry (R378): the lane, its task word and the read. -/
def Ctx.enqEntries (c : Ctx) (l : Launch) (b : Nat) : List (Nat × Nat × TableRead) :=
  c.act.map (fun i =>
    let w := (c.w.reg i b).toNat
    (i, w, c.s.taskEntry l c.w.cancelled c.w.tag (w % 65536)))

/-- A lane's task (R378). -/
def Ctx.laneTask (c : Ctx) (a l w key : Nat) : Task :=
  { id := 0, launch := c.w.launch, entry := w % 65536, key := BitVec.ofNat 16 (if w / 65536 = 0 then key else w / 65536)
    tag := c.w.tag, depth := c.w.depth + 1, accept := 0, record := (List.range 8).map (fun i => c.w.reg l (a + i))
    share := 0, clk := 0 }

/-- Tasks accepted in one step, in order (R379). -/
def State.acceptTasks (s : State) (ts : List Task) (col : Nat) (numbered : Bool) : State :=
  ts.foldl (fun s t => s.enterPool t col numbered) s

/-- One status written to some lanes of a register (R378). -/
def Wave.writeStatus (w : Wave) (d : Nat) (lanes : List Nat) (v : Nat) : Wave :=
  lanes.foldl (fun w l => w.writeElem (w.rowOf l d) l (BitVec.ofNat 32 v) false) w

/-- ENQT and ENQTN at issue (R378, R379). In deterministic mode the tasks of an ENQT that waits keep their places in the order of
issue (R81). -/
def Ctx.enqueue (c : Ctx) (d a b : Nat) (wait : Bool) : Except Raise State := do
  let grp := (List.range 8).map (fun i => a + i)
  let o : OpSpec := { regs := d :: b :: grp, reads := b :: grp, writes := c.act.map (fun l => c.w.put l d 0 (mkTag 3 0)) }
  c.check o
  match c.launch? with
  | none => pure c.s
  | some l =>
    let es := c.enqEntries l b
    let miss := es.filterMap (fun e => match e.2.2 with
      | .miss va level => some (va, level)
      | _ => none)
    if !miss.isEmpty then pure (c.waitFault (accessBits .read false) miss)
    else
      let w ← c.regionOf o
      let (s, w) := (c.s.convertAt (es.flatMap (fun e => c.s.tablePlaces l c.w.cancelled (e.2.1 % 65536)))).writeTags w o.writes
      let s := es.foldl (fun (s : State) e => match e.2.2 with
        | .fault cause addr => s.tableFault l.uid (s.whoOf c.w) 0x30 cause addr (s.globalLane c.w e.1)
        | _ => s) s
      let found := es.filterMap (fun e => match e.2.2 with
        | .entry _ _ key => some (e.1, e.2.1, key)
        | _ => none)
      let bad := (es.map (·.1)).filter (fun i => !found.any (fun f => f.1 == i))
      let deep := decide (c.w.depth + 1 > l.field 435 432)
      let valid := if deep then [] else found
      let w := (w.writeStatus d bad 2).writeStatus d (if deep then found.map (·.1) else []) 3
      let lanes := valid.map (·.1)
      let tasks := valid.map (fun f => c.laneTask a f.1 f.2.1 f.2.2)
      if tasks.length ≤ s.poolFree c.w.launch then
        pure ((c.doneEffect s (w.writeStatus d lanes 0)).acceptTasks tasks (c.w.lcore / 16) false)
      else if !wait then pure (c.doneEffect s (w.writeStatus d lanes 1))
      else
        let (first, s) := s.reserveNumbers c.w.launch tasks.length
        let s := { s with heldTasks := s.heldTasks ++ tasks.zipIdx.map (fun t =>
          ({ source := 3, place := c.w.uid, task := { t.1 with accept := first.getD 0 + t.2 } } : HeldTask)) }
        pure (c.doneEffect s { w with wait := .enqt d (maskOf lanes) })

/-- ENQT (R379): waits until entries for every valid lane are free together. -/
def execEnqt (d a b : BitVec 7) (s : State) : Host.Outcome State Fault Refusal :=
  s.issue (fun c => c.enqueue d.toNat a.toNat b.toNat true)

/-- ENQTN (R379): never waits. -/
def execEnqtn (d a b : BitVec 7) (s : State) : Host.Outcome State Fault Refusal :=
  s.issue (fun c => c.enqueue d.toNat a.toNat b.toNat false)

/-- The destination and lanes of a wave that waits in ENQT. -/
def Wait.enqt? : Wait → Option (Nat × BitVec 64)
  | .enqt d lanes => some (d, lanes)
  | _ => Option.none

/-- ENQT_ACCEPT (R379): entries for every valid lane of a waiting ENQT are free together, and all are accepted. -/
def execEnqtAccept (w : Nat) (s : State) : Host.Outcome State Fault Refusal :=
  .next (match s.wave? w with
    | none => s
    | some x =>
      match x.waitsFor Wait.enqt? with
      | some _ =>
        let mine := (s.heldTasks.filter (fun h => h.source == 3 && h.place == w)).map (·.task)
        if mine.length > s.poolFree x.launch then s
        else
          let s1 : State := { s with heldTasks := s.heldTasks.filter (fun h => !(h.source == 3 && h.place == w)) }
          (s1.acceptTasks mine (x.lcore / 16) (s.isDet x.launch)).modWave w (fun v =>
            v.endWaitFor Wait.enqt? (fun v e => v.writeStatus e.1 ((lanesOf e.2).filter v.isLive) 0))
      | none => s)

end Sys2Proof.Machine
end

