-- ==== Sys2Proof/Machine/Uniform.lean ====
section
/-!
DEFINITION. The uniform instructions on k registers (R46, R202, R222, R223).
-/

namespace Sys2Proof.Machine

/-- A form of major 0x19: k[d] := f k[a] k[b] (R223). -/
def Ctx.kop (c : Ctx) (d a b : BitVec 7) (f : DWord → DWord → DWord) : Except Raise State :=
  c.uniform d.toNat [a.toNat, b.toNat] (f (c.w.kreg a.toNat) (c.w.kreg b.toNat))

/-- A condition as a k value. -/
def boolK (b : Bool) : DWord := if b then 1 else 0

/-- KADD (R223): X + Y. -/
def execKadd (d a b : BitVec 7) (s : State) : Host.Outcome State Fault Refusal :=
  s.issue (fun c => c.kop d a b (fun x y => x + y))

/-- KSUB (R223): X − Y. -/
def execKsub (d a b : BitVec 7) (s : State) : Host.Outcome State Fault Refusal :=
  s.issue (fun c => c.kop d a b (fun x y => x - y))

/-- KMUL (R223): the low 64 bits of X × Y. -/
def execKmul (d a b : BitVec 7) (s : State) : Host.Outcome State Fault Refusal :=
  s.issue (fun c => c.kop d a b (fun x y => x * y))

/-- KAND (R223): X AND Y. -/
def execKand (d a b : BitVec 7) (s : State) : Host.Outcome State Fault Refusal :=
  s.issue (fun c => c.kop d a b (fun x y => x &&& y))

/-- KOR (R223): X OR Y. -/
def execKor (d a b : BitVec 7) (s : State) : Host.Outcome State Fault Refusal :=
  s.issue (fun c => c.kop d a b (fun x y => x ||| y))

/-- KXOR (R223): X XOR Y. -/
def execKxor (d a b : BitVec 7) (s : State) : Host.Outcome State Fault Refusal :=
  s.issue (fun c => c.kop d a b (fun x y => x ^^^ y))

/-- KSHL (R223): X << Y, 0 from 64 on. -/
def execKshl (d a b : BitVec 7) (s : State) : Host.Outcome State Fault Refusal :=
  s.issue (fun c => c.kop d a b (fun x y => if y.toNat ≥ 64 then 0 else x <<< y.toNat))

/-- KSHR (R223): logical X >> Y, 0 from 64 on. -/
def execKshr (d a b : BitVec 7) (s : State) : Host.Outcome State Fault Refusal :=
  s.issue (fun c => c.kop d a b (fun x y => if y.toNat ≥ 64 then 0 else x >>> y.toNat))

/-- KSAR (R223): arithmetic X >> Y. -/
def execKsar (d a b : BitVec 7) (s : State) : Host.Outcome State Fault Refusal :=
  s.issue (fun c => c.kop d a b (fun x y => x.sshiftRight (Nat.min y.toNat 64)))

/-- KMIN (R223): signed minimum. -/
def execKmin (d a b : BitVec 7) (s : State) : Host.Outcome State Fault Refusal :=
  s.issue (fun c => c.kop d a b (fun x y => if x.sle y then x else y))

/-- KMAX (R223): signed maximum. -/
def execKmax (d a b : BitVec 7) (s : State) : Host.Outcome State Fault Refusal :=
  s.issue (fun c => c.kop d a b (fun x y => if x.sle y then y else x))

/-- KMINU (R223): unsigned minimum. -/
def execKminu (d a b : BitVec 7) (s : State) : Host.Outcome State Fault Refusal :=
  s.issue (fun c => c.kop d a b (fun x y => if x.ule y then x else y))

/-- KMAXU (R223): unsigned maximum. -/
def execKmaxu (d a b : BitVec 7) (s : State) : Host.Outcome State Fault Refusal :=
  s.issue (fun c => c.kop d a b (fun x y => if x.ule y then y else x))

/-- KCMPEQ (R223): 1 when X = Y. -/
def execKcmpeq (d a b : BitVec 7) (s : State) : Host.Outcome State Fault Refusal :=
  s.issue (fun c => c.kop d a b (fun x y => boolK (x == y)))

/-- KCMPLT (R223): 1 when X < Y signed. -/
def execKcmplt (d a b : BitVec 7) (s : State) : Host.Outcome State Fault Refusal :=
  s.issue (fun c => c.kop d a b (fun x y => boolK (x.slt y)))

/-- KCMPLTU (R223): 1 when X < Y unsigned. -/
def execKcmpltu (d a b : BitVec 7) (s : State) : Host.Outcome State Fault Refusal :=
  s.issue (fun c => c.kop d a b (fun x y => boolK (x.ult y)))

/-- KADDI (R223): k[a] + sext(imm12). -/
def execKaddi (d a : BitVec 7) (imm : BitVec 12) (s : State) : Host.Outcome State Fault Refusal :=
  s.issue (fun c => c.uniform d.toNat [a.toNat] (c.w.kreg a.toNat + imm.signExtend 64))

/-- KMOVI (R46): sext(imm19). -/
def execKmovi (d : BitVec 7) (imm : BitVec 19) (s : State) : Host.Outcome State Fault Refusal :=
  s.issue (fun c => c.uniform d.toNat [] (imm.signExtend 64))

/-- KMOVHI (R46): (k[d] << 19) OR imm19. -/
def execKmovhi (d : BitVec 7) (imm : BitVec 19) (s : State) : Host.Outcome State Fault Refusal :=
  s.issue (fun c => c.uniform d.toNat [d.toNat] ((c.w.kreg d.toNat <<< 19) ||| imm.setWidth 64))

/-- KMOV (R222): k[d] := k[a]. -/
def execKmov (d a : BitVec 7) (s : State) : Host.Outcome State Fault Refusal :=
  s.issue (fun c => c.uniform d.toNat [a.toNat] (c.w.kreg a.toNat))

end Sys2Proof.Machine
end

