-- ==== Sys2Proof/Machine/Dispatch.lean ====
section
/-!
DEFINITION. One arm for each row of spec/opcode_table.json: the meaning of every instruction and of every step of the device.
-/

namespace Sys2Proof.Machine

def exec (i : Instr) (s : State) : Host.Outcome State Fault Refusal :=
  match i with
  | .add d a b kb => Sys2Proof.Machine.execAdd d a b kb s
  | .sub d a b kb => Sys2Proof.Machine.execSub d a b kb s
  | .mul d a b kb => Sys2Proof.Machine.execMul d a b kb s
  | .mulh d a b kb => Sys2Proof.Machine.execMulh d a b kb s
  | .mulhu d a b kb => Sys2Proof.Machine.execMulhu d a b kb s
  | .mad d a b kb => Sys2Proof.Machine.execMad d a b kb s
  | .min d a b kb => Sys2Proof.Machine.execMin d a b kb s
  | .max d a b kb => Sys2Proof.Machine.execMax d a b kb s
  | .minu d a b kb => Sys2Proof.Machine.execMinu d a b kb s
  | .maxu d a b kb => Sys2Proof.Machine.execMaxu d a b kb s
  | .absd d a b kb => Sys2Proof.Machine.execAbsd d a b kb s
  | .adds d a b kb => Sys2Proof.Machine.execAdds d a b kb s
  | .subs d a b kb => Sys2Proof.Machine.execSubs d a b kb s
  | .avg d a b kb => Sys2Proof.Machine.execAvg d a b kb s
  | .and d a b kb => Sys2Proof.Machine.execAnd d a b kb s
  | .or d a b kb => Sys2Proof.Machine.execOr d a b kb s
  | .xor d a b kb => Sys2Proof.Machine.execXor d a b kb s
  | .andn d a b kb => Sys2Proof.Machine.execAndn d a b kb s
  | .not d a => Sys2Proof.Machine.execNot d a s
  | .shl d a b kb => Sys2Proof.Machine.execShl d a b kb s
  | .shr d a b kb => Sys2Proof.Machine.execShr d a b kb s
  | .sar d a b kb => Sys2Proof.Machine.execSar d a b kb s
  | .rotl d a b kb => Sys2Proof.Machine.execRotl d a b kb s
  | .popc d a => Sys2Proof.Machine.execPopc d a s
  | .clz d a => Sys2Proof.Machine.execClz d a s
  | .brev d a => Sys2Proof.Machine.execBrev d a s
  | .cmpEq d a b kb => Sys2Proof.Machine.execCmpEq d a b kb s
  | .cmpNe d a b kb => Sys2Proof.Machine.execCmpNe d a b kb s
  | .cmpLt d a b kb => Sys2Proof.Machine.execCmpLt d a b kb s
  | .cmpLe d a b kb => Sys2Proof.Machine.execCmpLe d a b kb s
  | .cmpLtu d a b kb => Sys2Proof.Machine.execCmpLtu d a b kb s
  | .cmpLeu d a b kb => Sys2Proof.Machine.execCmpLeu d a b kb s
  | .addi d a imm => Sys2Proof.Machine.execAddi d a imm s
  | .andi d a imm => Sys2Proof.Machine.execAndi d a imm s
  | .ori d a imm => Sys2Proof.Machine.execOri d a imm s
  | .xori d a imm => Sys2Proof.Machine.execXori d a imm s
  | .shli d a n => Sys2Proof.Machine.execShli d a n s
  | .shri d a n => Sys2Proof.Machine.execShri d a n s
  | .sari d a n => Sys2Proof.Machine.execSari d a n s
  | .rotli d a n => Sys2Proof.Machine.execRotli d a n s
  | .cmpi d a c imm => Sys2Proof.Machine.execCmpi d a c imm s
  | .movi d imm => Sys2Proof.Machine.execMovi d imm s
  | .movhi d imm => Sys2Proof.Machine.execMovhi d imm s
  | .bfx d a p n => Sys2Proof.Machine.execBfx d a p n s
  | .bfi d a p n => Sys2Proof.Machine.execBfi d a p n s
  | .add64 d a b kb => Sys2Proof.Machine.execAdd64 d a b kb s
  | .sub64 d a b kb => Sys2Proof.Machine.execSub64 d a b kb s
  | .lea1 d a b kb => Sys2Proof.Machine.execLea1 d a b kb s
  | .lea2 d a b kb => Sys2Proof.Machine.execLea2 d a b kb s
  | .lea4 d a b kb => Sys2Proof.Machine.execLea4 d a b kb s
  | .lea8 d a b kb => Sys2Proof.Machine.execLea8 d a b kb s
  | .sext d a => Sys2Proof.Machine.execSext d a s
  | .zext d a => Sys2Proof.Machine.execZext d a s
  | .sel d a b kb => Sys2Proof.Machine.execSel d a b kb s
  | .fadd d a b kb => Sys2Proof.Machine.execFadd d a b kb s
  | .fsub d a b kb => Sys2Proof.Machine.execFsub d a b kb s
  | .fmul d a b kb => Sys2Proof.Machine.execFmul d a b kb s
  | .ffma d a b kb => Sys2Proof.Machine.execFfma d a b kb s
  | .ffms d a b kb => Sys2Proof.Machine.execFfms d a b kb s
  | .fmin d a b kb => Sys2Proof.Machine.execFmin d a b kb s
  | .fmax d a b kb => Sys2Proof.Machine.execFmax d a b kb s
  | .fminnum d a b kb => Sys2Proof.Machine.execFminnum d a b kb s
  | .fmaxnum d a b kb => Sys2Proof.Machine.execFmaxnum d a b kb s
  | .fabs d a => Sys2Proof.Machine.execFabs d a s
  | .fneg d a => Sys2Proof.Machine.execFneg d a s
  | .fcopysign d a b kb => Sys2Proof.Machine.execFcopysign d a b kb s
  | .fclass d a => Sys2Proof.Machine.execFclass d a s
  | .fcmpEq d a b kb => Sys2Proof.Machine.execFcmpEq d a b kb s
  | .fcmpNe d a b kb => Sys2Proof.Machine.execFcmpNe d a b kb s
  | .fcmpLt d a b kb => Sys2Proof.Machine.execFcmpLt d a b kb s
  | .fcmpLe d a b kb => Sys2Proof.Machine.execFcmpLe d a b kb s
  | .fcmpUnord d a b kb => Sys2Proof.Machine.execFcmpUnord d a b kb s
  | .fcmpOrd d a b kb => Sys2Proof.Machine.execFcmpOrd d a b kb s
  | .rcp d a => Sys2Proof.Machine.execRcp d a s
  | .rsq d a => Sys2Proof.Machine.execRsq d a s
  | .sqrt d a => Sys2Proof.Machine.execSqrt d a s
  | .exp2 d a => Sys2Proof.Machine.execExp2 d a s
  | .log2 d a => Sys2Proof.Machine.execLog2 d a s
  | .sin d a => Sys2Proof.Machine.execSin d a s
  | .cos d a => Sys2Proof.Machine.execCos d a s
  | .tanh d a => Sys2Proof.Machine.execTanh d a s
  | .hadd2 d a b kb => Sys2Proof.Machine.execHadd2 d a b kb s
  | .hsub2 d a b kb => Sys2Proof.Machine.execHsub2 d a b kb s
  | .hmul2 d a b kb => Sys2Proof.Machine.execHmul2 d a b kb s
  | .hfma2 d a b kb => Sys2Proof.Machine.execHfma2 d a b kb s
  | .hmin2 d a b kb => Sys2Proof.Machine.execHmin2 d a b kb s
  | .hmax2 d a b kb => Sys2Proof.Machine.execHmax2 d a b kb s
  | .badd2 d a b kb => Sys2Proof.Machine.execBadd2 d a b kb s
  | .bmul2 d a b kb => Sys2Proof.Machine.execBmul2 d a b kb s
  | .bfma2 d a b kb => Sys2Proof.Machine.execBfma2 d a b kb s
  | .cvt d a f r sv g => Sys2Proof.Machine.execCvt d a f r sv g s
  | .tagset d a => Sys2Proof.Machine.execTagset d a s
  | .tagget d a => Sys2Proof.Machine.execTagget d a s
  | .scaleset d sv => Sys2Proof.Machine.execScaleset d sv s
  | .scaleadd d sv => Sys2Proof.Machine.execScaleadd d sv s
  | .retag d f => Sys2Proof.Machine.execRetag d f s
  | .shfl d a b => Sys2Proof.Machine.execShfl d a b s
  | .shflx d a m => Sys2Proof.Machine.execShflx d a m s
  | .shflup d a n => Sys2Proof.Machine.execShflup d a n s
  | .shfldn d a n => Sys2Proof.Machine.execShfldn d a n s
  | .bcast d a l => Sys2Proof.Machine.execBcast d a l s
  | .vote d a m => Sys2Proof.Machine.execVote d a m s
  | .redadd d a => Sys2Proof.Machine.execRedadd d a s
  | .redmin d a => Sys2Proof.Machine.execRedmin d a s
  | .redmax d a => Sys2Proof.Machine.execRedmax d a s
  | .redfadd d a => Sys2Proof.Machine.execRedfadd d a s
  | .scanadd d a => Sys2Proof.Machine.execScanadd d a s
  | .first d a => Sys2Proof.Machine.execFirst d a s
  | .expr d a b n => Sys2Proof.Machine.execExpr d a b n s
  | .rand d => Sys2Proof.Machine.execRand d s
  | .randf d => Sys2Proof.Machine.execRandf d s
  | .kadd d a b => Sys2Proof.Machine.execKadd d a b s
  | .ksub d a b => Sys2Proof.Machine.execKsub d a b s
  | .kmul d a b => Sys2Proof.Machine.execKmul d a b s
  | .kand d a b => Sys2Proof.Machine.execKand d a b s
  | .kor d a b => Sys2Proof.Machine.execKor d a b s
  | .kxor d a b => Sys2Proof.Machine.execKxor d a b s
  | .kshl d a b => Sys2Proof.Machine.execKshl d a b s
  | .kshr d a b => Sys2Proof.Machine.execKshr d a b s
  | .ksar d a b => Sys2Proof.Machine.execKsar d a b s
  | .kmin d a b => Sys2Proof.Machine.execKmin d a b s
  | .kmax d a b => Sys2Proof.Machine.execKmax d a b s
  | .kminu d a b => Sys2Proof.Machine.execKminu d a b s
  | .kmaxu d a b => Sys2Proof.Machine.execKmaxu d a b s
  | .kcmpeq d a b => Sys2Proof.Machine.execKcmpeq d a b s
  | .kcmplt d a b => Sys2Proof.Machine.execKcmplt d a b s
  | .kcmpltu d a b => Sys2Proof.Machine.execKcmpltu d a b s
  | .kaddi d a imm => Sys2Proof.Machine.execKaddi d a imm s
  | .kmovi d imm => Sys2Proof.Machine.execKmovi d imm s
  | .kmovhi d imm => Sys2Proof.Machine.execKmovhi d imm s
  | .movkv d a => Sys2Proof.Machine.execMovkv d a s
  | .movvk d a => Sys2Proof.Machine.execMovvk d a s
  | .mov d a => Sys2Proof.Machine.execMov d a s
  | .kmov d a => Sys2Proof.Machine.execKmov d a s
  | .recipe a n => Sys2Proof.Machine.execRecipe a n s
  | .ld d a f ord c => Sys2Proof.Machine.execLd d a f ord c s
  | .st d a f ord c => Sys2Proof.Machine.execSt d a f ord c s
  | .lds d a f n c => Sys2Proof.Machine.execLds d a f n c s
  | .sts d a f n c => Sys2Proof.Machine.execSts d a f n c s
  | .kld d a f ord c => Sys2Proof.Machine.execKld d a f ord c s
  | .kst d a f ord c => Sys2Proof.Machine.execKst d a f ord c s
  | .amoAdd d a b sv ord => Sys2Proof.Machine.execAmoAdd d a b sv ord s
  | .amoMin d a b sv ord => Sys2Proof.Machine.execAmoMin d a b sv ord s
  | .amoMax d a b sv ord => Sys2Proof.Machine.execAmoMax d a b sv ord s
  | .amoXchg d a b sv ord => Sys2Proof.Machine.execAmoXchg d a b sv ord s
  | .amoMinu d a b sv ord => Sys2Proof.Machine.execAmoMinu d a b sv ord s
  | .amoMaxu d a b sv ord => Sys2Proof.Machine.execAmoMaxu d a b sv ord s
  | .amoAnd d a b sv ord => Sys2Proof.Machine.execAmoAnd d a b sv ord s
  | .amoOr d a b sv ord => Sys2Proof.Machine.execAmoOr d a b sv ord s
  | .amoXor d a b sv ord => Sys2Proof.Machine.execAmoXor d a b sv ord s
  | .amoIncw d a b sv ord => Sys2Proof.Machine.execAmoIncw d a b sv ord s
  | .amoDecw d a b sv ord => Sys2Proof.Machine.execAmoDecw d a b sv ord s
  | .amoCas d a b sv ord => Sys2Proof.Machine.execAmoCas d a b sv ord s
  | .amoFadd d a b sv ord => Sys2Proof.Machine.execAmoFadd d a b sv ord s
  | .amoFmin d a b sv ord => Sys2Proof.Machine.execAmoFmin d a b sv ord s
  | .amoFmax d a b sv ord => Sys2Proof.Machine.execAmoFmax d a b sv ord s
  | .amoCasc d a b sv ord => Sys2Proof.Machine.execAmoCasc d a b sv ord s
  | .qpush d a b sv ord => Sys2Proof.Machine.execQpush d a b sv ord s
  | .qpop d a sv ord => Sys2Proof.Machine.execQpop d a sv ord s
  | .qpeek d a sv ord => Sys2Proof.Machine.execQpeek d a sv ord s
  | .fence sv kb => Sys2Proof.Machine.execFence sv kb s
  | .bara n c b => Sys2Proof.Machine.execBara n c b s
  | .barw n c b => Sys2Proof.Machine.execBarw n c b s
  | .cbar => Sys2Proof.Machine.execCbar s
  | .cpyin d a t => Sys2Proof.Machine.execCpyin d a t s
  | .cpyout d a t => Sys2Proof.Machine.execCpyout d a t s
  | .cpygath d a t z => Sys2Proof.Machine.execCpygath d a t z s
  | .cpyscat d a t z => Sys2Proof.Machine.execCpyscat d a t z s
  | .cpyring d a r => Sys2Proof.Machine.execCpyring d a r s
  | .pref a l => Sys2Proof.Machine.execPref a l s
  | .rinit a r => Sys2Proof.Machine.execRinit a r s
  | .racq d r => Sys2Proof.Machine.execRacq d r s
  | .rpub a r => Sys2Proof.Machine.execRpub a r s
  | .rget d r => Sys2Proof.Machine.execRget d r s
  | .rrel a r => Sys2Proof.Machine.execRrel a r s
  | .rstat d r => Sys2Proof.Machine.execRstat d r s
  | .kvalloc d a => Sys2Proof.Machine.execKvalloc d a s
  | .kvfree d a => Sys2Proof.Machine.execKvfree d a s
  | .kvshare d a b => Sys2Proof.Machine.execKvshare d a b s
  | .kvld d a b => Sys2Proof.Machine.execKvld d a b s
  | .kvst d a b => Sys2Proof.Machine.execKvst d a b s
  | .kvmap d a => Sys2Proof.Machine.execKvmap d a s
  | .kvstat d => Sys2Proof.Machine.execKvstat d s
  | .cbopen d a w => Sys2Proof.Machine.execCbopen d a w s
  | .cbput d a sv => Sys2Proof.Machine.execCbput d a sv s
  | .cbclose a => Sys2Proof.Machine.execCbclose a s
  | .cbstat d a => Sys2Proof.Machine.execCbstat d a s
  | .enqt d a b => Sys2Proof.Machine.execEnqt d a b s
  | .enqtn d a b => Sys2Proof.Machine.execEnqtn d a b s
  | .trace d a b => Sys2Proof.Machine.execTrace d a b s
  | .traceq d a b => Sys2Proof.Machine.execTraceq d a b s
  | .rquery d imm => Sys2Proof.Machine.execRquery d imm s
  | .mma d a g sv r => Sys2Proof.Machine.execMma d a g sv r s
  | .mman d a g sv r => Sys2Proof.Machine.execMman d a g sv r s
  | .mmas d a g sv r => Sys2Proof.Machine.execMmas d a g sv r s
  | .gang d a => Sys2Proof.Machine.execGang d a s
  | .accz d f sv => Sys2Proof.Machine.execAccz d f sv s
  | .accld d a f => Sys2Proof.Machine.execAccld d a f s
  | .accst d a => Sys2Proof.Machine.execAccst d a s
  | .accrd d a t sv c => Sys2Proof.Machine.execAccrd d a t sv c s
  | .strmopen d a => Sys2Proof.Machine.execStrmopen d a s
  | .strmclose d => Sys2Proof.Machine.execStrmclose d s
  | .strmstat d sv => Sys2Proof.Machine.execStrmstat d sv s
  | .brid d => Sys2Proof.Machine.execBrid d s
  | .vstat d => Sys2Proof.Machine.execVstat d s
  | .commit d a => Sys2Proof.Machine.execCommit d a s
  | .squash d a => Sys2Proof.Machine.execSquash d a s
  | .flipq d a => Sys2Proof.Machine.execFlipq d a s
  | .vdrop a b => Sys2Proof.Machine.execVdrop a b s
  | .getsr d a => Sys2Proof.Machine.execGetsr d a s
  | .setsr d a => Sys2Proof.Machine.execSetsr d a s
  | .cache a ord => Sys2Proof.Machine.execCache a ord s
  | .perf d imm => Sys2Proof.Machine.execPerf d imm s
  | .clock d => Sys2Proof.Machine.execClock d s
  | .digest a => Sys2Proof.Machine.execDigest a s
  | .loopi c n l => Sys2Proof.Machine.execLoopi c n l s
  | .loop c a l => Sys2Proof.Machine.execLoop c a l s
  | .br off => Sys2Proof.Machine.execBr off s
  | .brz a off => Sys2Proof.Machine.execBrz a off s
  | .brnz a off => Sys2Proof.Machine.execBrnz a off s
  | .kbrz a off => Sys2Proof.Machine.execKbrz a off s
  | .kbrnz a off => Sys2Proof.Machine.execKbrnz a off s
  | .call n off => Sys2Proof.Machine.execCall n off s
  | .ret => Sys2Proof.Machine.execRet s
  | .jmpv a => Sys2Proof.Machine.execJmpv a s
  | .callv a n => Sys2Proof.Machine.execCallv a n s
  | .exit => Sys2Proof.Machine.execExit s
  | .wslide sv => Sys2Proof.Machine.execWslide sv s
  | .yield => Sys2Proof.Machine.execYield s
  | .nop => Sys2Proof.Machine.execNop s
  | .trap n => Sys2Proof.Machine.execTrap n s
  | .rft c => Sys2Proof.Machine.execRft c s
  | .waitf m m2 => Sys2Proof.Machine.execWaitf m m2 s
  | .waitc n c => Sys2Proof.Machine.execWaitc n c s
  | .sleep n => Sys2Proof.Machine.execSleep n s
  | .runHeader len wait sf1 sf2 opn => Sys2Proof.Machine.execRunHeader len wait sf1 sf2 opn s
  | .deviceReset => Sys2Proof.Machine.execDeviceReset s
  | .bootVerify sigOk version minVersion image display fuses => Sys2Proof.Machine.execBootVerify sigOk version minVersion image display fuses s
  | .queueEnable q => Sys2Proof.Machine.execQueueEnable q s
  | .queueDisable q => Sys2Proof.Machine.execQueueDisable q s
  | .writeIndexUpdate q => Sys2Proof.Machine.execWriteIndexUpdate q s
  | .nopPacket q => Sys2Proof.Machine.execNopPacket q s
  | .launch q => Sys2Proof.Machine.execLaunch q s
  | .launchAccept q => Sys2Proof.Machine.execLaunchAccept q s
  | .fencePacket q => Sys2Proof.Machine.execFencePacket q s
  | .fenceEvaluation q => Sys2Proof.Machine.execFenceEvaluation q s
  | .signalSet q => Sys2Proof.Machine.execSignalSet q s
  | .signalAdd q => Sys2Proof.Machine.execSignalAdd q s
  | .signalDec q => Sys2Proof.Machine.execSignalDec q s
  | .fork q => Sys2Proof.Machine.execFork q s
  | .forkProceed q => Sys2Proof.Machine.execForkProceed q s
  | .commitPacket q => Sys2Proof.Machine.execCommitPacket q s
  | .squashPacket q => Sys2Proof.Machine.execSquashPacket q s
  | .flip q => Sys2Proof.Machine.execFlip q s
  | .flipQueueAdmit q => Sys2Proof.Machine.execFlipQueueAdmit q s
  | .copy q => Sys2Proof.Machine.execCopy q s
  | .copyFill q => Sys2Proof.Machine.execCopyFill q s
  | .copyStop c => Sys2Proof.Machine.execCopyStop c s
  | .copyRetire c => Sys2Proof.Machine.execCopyRetire c s
  | .timestamp q => Sys2Proof.Machine.execTimestamp q s
  | .deadline q => Sys2Proof.Machine.execDeadline q s
  | .deadlineFire q => Sys2Proof.Machine.execDeadlineFire q s
  | .serialWaitEnd q => Sys2Proof.Machine.execSerialWaitEnd q s
  | .teamDispatch l => Sys2Proof.Machine.execTeamDispatch l s
  | .clusterGroupDispatch l => Sys2Proof.Machine.execClusterGroupDispatch l s
  | .jigFormWave col task => Sys2Proof.Machine.execJigFormWave col task s
  | .jigTimeout col task => Sys2Proof.Machine.execJigTimeout col task s
  | .jigDetPartialWave col task => Sys2Proof.Machine.execJigDetPartialWave col task s
  | .taskWavePlace f => Sys2Proof.Machine.execTaskWavePlace f s
  | .continuationToPool slice => Sys2Proof.Machine.execContinuationToPool slice s
  | .traceqTaskHandoff core => Sys2Proof.Machine.execTraceqTaskHandoff core s
  | .cbReleaseTaskHandoff g => Sys2Proof.Machine.execCbReleaseTaskHandoff g s
  | .launchRetire l => Sys2Proof.Machine.execLaunchRetire l s
  | .runGrant w => Sys2Proof.Machine.execRunGrant w s
  | .runRaise w => Sys2Proof.Machine.execRunRaise w s
  | .sleepEnd w => Sys2Proof.Machine.execSleepEnd w s
  | .loadReturn w p => Sys2Proof.Machine.execLoadReturn w p s
  | .variableLatencyComplete w p => Sys2Proof.Machine.execVariableLatencyComplete w p s
  | .storePerform w p => Sys2Proof.Machine.execStorePerform w p s
  | .atomicPerform w p => Sys2Proof.Machine.execAtomicPerform w p s
  | .queueOpPerform w p => Sys2Proof.Machine.execQueueOpPerform w p s
  | .cascPerform w p lane => Sys2Proof.Machine.execCascPerform w p lane s
  | .cascRefusal w p lane => Sys2Proof.Machine.execCascRefusal w p lane s
  | .blockStoreNameOpPerform w p => Sys2Proof.Machine.execBlockStoreNameOpPerform w p s
  | .copyEngineComplete b => Sys2Proof.Machine.execCopyEngineComplete b s
  | .copyEngineFault b => Sys2Proof.Machine.execCopyEngineFault b s
  | .cpyringSlotAcquire b => Sys2Proof.Machine.execCpyringSlotAcquire b s
  | .cpyringSlotPublish b => Sys2Proof.Machine.execCpyringSlotPublish b s
  | .copyDrainTimeout g => Sys2Proof.Machine.execCopyDrainTimeout g s
  | .rayEnd r => Sys2Proof.Machine.execRayEnd r s
  | .jointOpReserve g gang => Sys2Proof.Machine.execJointOpReserve g gang s
  | .matrixGrant e => Sys2Proof.Machine.execMatrixGrant e s
  | .matrixEntryRaise e => Sys2Proof.Machine.execMatrixEntryRaise e s
  | .matrixPassComplete e => Sys2Proof.Machine.execMatrixPassComplete e s
  | .accOpComplete e => Sys2Proof.Machine.execAccOpComplete e s
  | .gangWatchdog g gang => Sys2Proof.Machine.execGangWatchdog g gang s
  | .cbMoveComplete m => Sys2Proof.Machine.execCbMoveComplete m s
  | .cbDeadline g => Sys2Proof.Machine.execCbDeadline g s
  | .cbopenWaitGrant w => Sys2Proof.Machine.execCbopenWaitGrant w s
  | .enqtAccept w => Sys2Proof.Machine.execEnqtAccept w s
  | .commitQuiescent byQueue n => Sys2Proof.Machine.execCommitQuiescent byQueue n s
  | .scrub line => Sys2Proof.Machine.execScrub line s
  | .waveRetire w => Sys2Proof.Machine.execWaveRetire w s
  | .trapEntry w => Sys2Proof.Machine.execTrapEntry w s
  | .unitSave g => Sys2Proof.Machine.execUnitSave g s
  | .unitRestore g => Sys2Proof.Machine.execUnitRestore g s
  | .pageWalk dom va => Sys2Proof.Machine.execPageWalk dom va s
  | .faultRecordPost r => Sys2Proof.Machine.execFaultRecordPost r s
  | .faultReplay r => Sys2Proof.Machine.execFaultReplay r s
  | .faultCancel r => Sys2Proof.Machine.execFaultCancel r s
  | .tlbinvRange v => Sys2Proof.Machine.execTlbinvRange v s
  | .tlbinvDomain v => Sys2Proof.Machine.execTlbinvDomain v s
  | .tlbinvAll v => Sys2Proof.Machine.execTlbinvAll v s
  | .tlbinvDone => Sys2Proof.Machine.execTlbinvDone s
  | .lineMove line slice => Sys2Proof.Machine.execLineMove line slice s
  | .checkRetry site x y z pass => Sys2Proof.Machine.execCheckRetry site x y z pass s
  | .hostMemRead dec addr n => Sys2Proof.Machine.execHostMemRead dec addr n s
  | .hostMemWrite dec addr bytes => Sys2Proof.Machine.execHostMemWrite dec addr bytes s
  | .peerAccess op mt addr bytes => Sys2Proof.Machine.execPeerAccess op mt addr bytes s
  | .headEnable h => Sys2Proof.Machine.execHeadEnable h s
  | .headDisable h => Sys2Proof.Machine.execHeadDisable h s
  | .vblank h => Sys2Proof.Machine.execVblank h s
  | .powerArbiterTick boardPower grants steps => Sys2Proof.Machine.execPowerArbiterTick boardPower grants steps s
  | .columnOverheat c => Sys2Proof.Machine.execColumnOverheat c s
  | .columnCool c => Sys2Proof.Machine.execColumnCool c s
  | .columnIdle c => Sys2Proof.Machine.execColumnIdle c s
  | .columnOff c => Sys2Proof.Machine.execColumnOff c s
  | .columnWake c => Sys2Proof.Machine.execColumnWake c s
  | .d3hotEntry => Sys2Proof.Machine.execD3hotEntry s
  | .d0Return => Sys2Proof.Machine.execD0Return s
  | .d3cold => Sys2Proof.Machine.execD3cold s
  | .measurementExtend v => Sys2Proof.Machine.execMeasurementExtend v s
  | .extendDone => Sys2Proof.Machine.execExtendDone s
  | .attestationRequest v => Sys2Proof.Machine.execAttestationRequest v s
  | .attestationDone => Sys2Proof.Machine.execAttestationDone s
  | .preemptSuspend v => Sys2Proof.Machine.execPreemptSuspend v s
  | .preemptResume v => Sys2Proof.Machine.execPreemptResume v s
  | .qtbaseWrite v => Sys2Proof.Machine.execQtbaseWrite v s
  | .domtbaseWrite v => Sys2Proof.Machine.execDomtbaseWrite v s
  | .sramcfgWrite v => Sys2Proof.Machine.execSramcfgWrite v s
  | .kvcfgWrite v => Sys2Proof.Machine.execKvcfgWrite v s
  | .ctxPoolWrite size v => Sys2Proof.Machine.execCtxPoolWrite size v s
  | .partcfgWrite v => Sys2Proof.Machine.execPartcfgWrite v s
  | .partqWrite hi v => Sys2Proof.Machine.execPartqWrite hi v s
  | .peermapWrite n v => Sys2Proof.Machine.execPeermapWrite n v s
  | .headConfigWrite h reg v => Sys2Proof.Machine.execHeadConfigWrite h reg v s
  | .powerLimitWrite v => Sys2Proof.Machine.execPowerLimitWrite v s
  | .lostClear => Sys2Proof.Machine.execLostClear s
  | .registerWrite off v => Sys2Proof.Machine.execRegisterWrite off v s
  | .inletPowerReport v => Sys2Proof.Machine.execInletPowerReport v s

end Sys2Proof.Machine
end

