-- ==== Sys2Proof/Machine/Schedule.lean ====
section
/-!
DEFINITION. The inputs of the machine and its schedule: how device time and the columns' clocks pass (R4, R186, R304, R307,
R437, R449), what an input does, and which step of the device comes next when no input says so. The specification
orders the device's own steps only by their preconditions: any order is one of its runs.
-/

namespace Sys2Proof.Machine

/-- The tenths of a clk that a column comes to in some nanoseconds, those left over before included: its clock step s gives it
17 − s of them in each (R447), and none in D3hot (R450) or before the firmware runs. -/
def State.clkTenths (s : State) (ns c : Nat) : Nat :=
  let x := s.column c
  x.tenths + (if s.dev == .d0 then ns * (17 - x.step) else 0)

/-- The clk by which some nanoseconds move a column on (R4, R12, R447). -/
def State.clkStep (s : State) (ns c : Nat) : Nat := s.clkTenths ns c / 10

/-- The device time at which the next vertical blank of a head that scans out begins (R437, R445). -/
def State.nextBlank (s : State) : Option Nat :=
  ((List.range 4).filter (fun h => (s.head h).scanning)).foldl (fun best h =>
    let t := (s.head h).blankAt (s.head h).frames
    some (match best with
      | some b => Nat.min b t
      | none => t)) none

/-- The blanks that are due begin, head by head (R437). -/
def State.dueBlanks (s : State) : State :=
  (List.range 4).foldl (fun (s : State) h => if s.blankDue h then (s.blank h).freeTags else s) s

/-- A wave as the clk of its column moves on: when its run became ready (R186), and the clk it has held its slot without
issuing (R408). -/
def State.agedWave (s : State) (step : Nat → Nat) (w : Wave) : Wave :=
  let d := step (w.pcore / 16)
  if d = 0 then w
  else { w with
    ready := s.notedReady (s.clkOf w + d) w
    stallClk := if w.run.isSome && !s.slotReady w then w.stallClk + d else w.stallClk }

/-- A unit whose waves have not all reached their boundaries starts its drain time anew (R171). -/
def State.agedGrp (s : State) (step : Nat → Nat) (g : Grp) : Grp :=
  if g.status == 1 && !(s.unitWaves g.uid).all s.stopped then
    { g with drainClk := s.colClk (g.cluster / 4) + step (g.cluster / 4) }
  else g

/-- A column as its clk moves on; one that holds work is not idle (R449). -/
def State.agedColumn (s : State) (ns c : Nat) : Column :=
  let x := s.column c
  let clk := x.clk + s.clkStep ns c
  let y := { x with clk := clk, tenths := s.clkTenths ns c % 10 }
  if x.power == .active && s.columnBusy c then { y with idleSince := clk } else y

/-- Device time and the clk of the columns move on, with no step of the device in between. -/
def State.age (s : State) (ns : Nat) : State :=
  let step := s.clkStep ns
  let s1 := (s.noteReady).noteGangs step
  { s1 with
    waves := s1.waves.map (fun e => (e.1, s.agedWave step e.2))
    grps := s1.grps.map (fun e => (e.1, s.agedGrp step e.2))
    columns := (List.range 16).foldl (fun t c => if s.agedColumn ns c = s.column c then t else tset t c (s.agedColumn ns c)) s1.columns
    ns := s1.ns + ns }

/-- Device time and the columns' clocks run. Time stops at the next vertical blank, and what is left of it comes next: a blank
begins at its own time (R437). -/
def State.pass (s : State) (ns : Nat) : State :=
  let s1 := s.dueBlanks
  let d := match s1.nextBlank with
    | some t => Nat.min ns (t - s1.ns)
    | none => ns
  let s2 := s1.age d
  if d < ns then { s2 with inputs := .time (ns - d) :: s2.inputs } else s2

/-- What an input does. A step that is an instruction word comes from the code alone; a host store writes host memory (R439);
`noRoom` says which home slices cannot place another version (R140); `fenceRead` has a FENCE's evaluation read one entry ahead
of the rest, since its reads are not made together (R102); `tlbUse` says which of an old and a new translation accesses use
while the old one is cached in some TLB (R251); `engineRead` and `engineWrite` have an engine read or write some bytes of its
operation ahead of the rest (R277, R327). -/
def State.takeInput (s : State) : Input → Host.Outcome State Fault Refusal
  | .act i => if i.hasWord then .next s else exec i s
  | .time ns => .next (s.pass ns).preemptDone
  | .hostStore addr bytes => .next (s.writeBytes (storageKey 2 addr) bytes false)
  | .noRoom slices => .next { s with noRoom := slices }
  | .fenceRead q => .next (s.fenceAhead q)
  | .engineRead op lo n => .next (s.engineRead op lo n)
  | .engineWrite op lo n => .next (s.engineWrite op lo n)
  | .tlbUse n on => .next { s with tlb := (s.tlb.zipIdx).map (fun x => if x.2 = n then { x.1 with inUse := on } else x.1) }

/-- A step of the device. -/
abbrev Act := State → Host.Outcome State Fault Refusal

/-- The steps that a queue's state may take (R93). One that the device disabled itself is enabled by what software does, not by
the bit that still stands at 1 (R450). -/
def queueSteps (n : Nat) (q : Queue) : List Act :=
  (if q.off then [] else [execQueueEnable n]) ++ [execQueueDisable n] ++ match q.st with
  | .disabled | .error => []
  | .idle => [execWriteIndexUpdate n]
  | .parse => [execWriteIndexUpdate n, execNopPacket n, execLaunch n, execLaunchAccept n, execFencePacket n, execSignalSet n,
      execSignalAdd n, execSignalDec n, execFork n, execCommitPacket n, execSquashPacket n, execFlip n, execCopy n,
      execCopyFill n, execTimestamp n, execDeadline n]
  | .fence => [execWriteIndexUpdate n, execFenceEvaluation n]
  | .serial => [execWriteIndexUpdate n, execSerialWaitEnd n]
  | .deadline => [execWriteIndexUpdate n, execDeadlineFire n]
  | .held => [execWriteIndexUpdate n, execForkProceed n, execCommitQuiescent true n, execFlipQueueAdmit n]

/-- The steps of the operations that a wave has issued. -/
def pendSteps (w : Nat) (p : Pend) : List Act :=
  match p.kind with
  | .casc accs _ _ _ => accs.flatMap (fun a => [execCascPerform w p.id a.lane, execCascRefusal w p.id a.lane])
  | _ => [execLoadReturn w p.id, execVariableLatencyComplete w p.id, execStorePerform w p.id, execAtomicPerform w p.id,
      execQueueOpPerform w p.id, execBlockStoreNameOpPerform w p.id]

/-- The steps of a wave. -/
def waveSteps (w : Wave) : List Act :=
  w.pend.flatMap (pendSteps w.uid) ++
    [execTrapEntry w.uid, execSleepEnd w.uid, execCbopenWaitGrant w.uid, execEnqtAccept w.uid,
     execCommitQuiescent false w.uid, execRunRaise w.uid, execWaveRetire w.uid, execRunGrant w.uid]

/-- The steps of a unit of pre-emption and of its gangs. -/
def grpSteps (g : Nat × Grp) : List Act :=
  [execCopyDrainTimeout g.1, execUnitSave g.1, execUnitRestore g.1] ++
    g.2.gangs.flatMap (fun n => [execJointOpReserve g.1 n.1, execGangWatchdog g.1 n.1])

/-- The steps of a column. -/
def columnSteps (c : Nat) (pool : List Task) : List Act :=
  [execColumnWake c, execColumnIdle c, execColumnOff c] ++
    pool.flatMap (fun t => [execJigFormWave c t.id, execJigTimeout c t.id, execJigDetPartialWave c t.id])

/-- The step that hands a held task to the pool (R119, R334, R387). -/
def heldStep (h : HeldTask) : List Act :=
  match h.source with
  | 0 => [execContinuationToPool h.place]
  | 1 => [execTraceqTaskHandoff h.place]
  | 2 => [execCbReleaseTaskHandoff h.place]
  | _ => []

/-- The steps that the device itself may take next. Those that a choice of the power arbiter, the caches or the checks brings
about, and those of software and of the host, come as inputs. -/
def State.ownSteps (s : State) : List Act :=
  (List.range 64).flatMap (fun n => queueSteps n (s.queue n)) ++
    (tkeys s.packetCopies).flatMap (fun c => [execCopyRetire c, execCopyStop c]) ++
    (tkeys s.launches).flatMap (fun l => [execTeamDispatch l, execClusterGroupDispatch l, execLaunchRetire l]) ++
    (List.range 16).flatMap (fun c => columnSteps c s.pool) ++
    s.formed.map (fun f => execTaskWavePlace f.id) ++ s.heldTasks.flatMap heldStep ++
    (tvals s.waves).flatMap waveSteps ++ s.grps.flatMap grpSteps ++
    (tkeys s.resv).flatMap (fun e =>
      [execMatrixGrant e, execMatrixEntryRaise e, execMatrixPassComplete e, execAccOpComplete e]) ++
    (tkeys s.bulk).flatMap (fun b =>
      [execCopyEngineComplete b, execCopyEngineFault b, execCpyringSlotAcquire b, execCpyringSlotPublish b,
       execRingReadAhead b]) ++
    (tkeys s.rays).map execRayEnd ++ (tkeys s.moves).map execCbMoveComplete ++ (tkeys s.groups).map execCbDeadline ++
    (dedup (s.versions.map (·.line))).map execScrub ++ (if s.sets.isEmpty then [] else [execScrub 0]) ++ s.faults.map (fun r => execFaultRecordPost r.id) ++
    [execTlbinvDone, execExtendDone, execAttestationDone]

/-- What comes of a step with the instruction that the current wave then issues: a wave that is only granted a slot and makes
no use of it has not gone on. -/
def State.tried (s : State) (f : Act) : State :=
  match f s with
  | .next s1 => (match s1.nextWork with
    | .issue j => (match exec j s1 with
      | .next s2 => s1.settle s2
      | _ => s1)
    | .goes s2 => s1.settle s2
    | .idle => s1)
  | _ => s

/-- Whether a step does something now. -/
def State.bringsOn (s : State) (f : Act) : Bool := ({ s.tried f with cur := s.cur } : State) != s

/-- The step that the device takes when no wave issues and no input comes: one nanosecond passes, and the first step
that does something is taken, counted from a place that moves on with time. -/
def State.schedule (s : State) : State :=
  let s1 := (s.pass 1).preemptDone
  let l := s1.ownSteps
  let k := s1.ns % Nat.max 1 l.length
  match (l.drop k ++ l.take k).find? s1.bringsOn with
  | some f => (match f s1 with
    | .next s2 => s2
    | _ => s1)
  | none => s1

/-- One step with no input: the current wave's next instruction or its next change, or the device's next step. -/
def State.advance (s : State) : Host.Outcome State Fault Refusal :=
  match s.nextWork with
  | .issue i => (match exec i s with
    | .next s1 => .next (s.settle s1)
    | .fault f => .fault f
    | .refused r => .refused r)
  | .goes s1 => .next (s.settle s1)
  | .idle => .next s.schedule

/-- The machine with one wave of sixteen lanes that issues, in D0, with page 0 of its domain mapped to itself, its code object
at virtual address 0, and some words of code at an offset. -/
def State.withWave (s : State) (run : Option RunCtx) (pc : Nat) (code : List Word) : State :=
  let n := s.nextId
  let leaf := 0x1F#64
  let l : Launch :=
    { uid := n, id := 0, queue := 0, domain := 0, qprio := 0, record := 0, recAddr := 0, args := [],
      insts := [{ tag := 0, branch := 0, next := [], dropped := false }], lastCore := none, headerRead := true, dataAddr := 0,
      handlerAddr := 0, codeBytes := 0xFC0, partition := 0, checking := false, stopDispatch := false, faulted := false,
      squashed := false, excFlags := 0, excAddr := 0, excNs := 0, excSlice := 0, late := 0, nextAccept := 0, tickets := [], reportIdx := 0, reportLost := 0,
      reportLog := 0, signalAddr := 0, epoch := 0, hazards := [], suspended := false, digestFlagged := false, retiring := false, order := 0 }
  let p : Place := { index := 0, rank := 0, lcore := 0, pcore := 0, quarters := [0] }
  let t := { newTeam (n + 1) (n + 2) 0 1 l p false with granted := 1024, accTiles := 64 }
  let w := newWave (n + 3) (n + 1) l 0 0 0 0 0 (match run with | some r => r.hdr | none => pc) 0 none 0 0 [] 16 [] []
  let s1 : State := { s with
    mem := mputs s.mem (storageKey 0 (0x40 + pc)) (code.flatMap (fun x => toBytes 4 x.toNat))
    poison := []
    versions := []
    tlb := { domain := 0, page := 0, pages := 1, leaf := leaf, inUse := true } :: s.tlb
    launches := tset s.launches n l
    grps := tset s.grps (n + 2) { newGrp (n + 2) l 0 with teams := [n + 1] }
    teams := tset s.teams (n + 1) t
    waves := tset s.waves (n + 3) { w with run := run, pc := if run.isSome then pc else 0 }
    columns := tset s.columns 0 { s.column 0 with power := .active }
    dev := .d0
    nextId := n + 4
    cur := n + 3
    inputs := [] }
  s1

/-- The machine in which a word is what the current wave issues next: a run header stands at offset 0 of the code, any other
word is the only one of an open run there. -/
def State.withWord (s : State) (word : Word) : State :=
  if bits word.toNat 31 26 = 0x3F then s.withWave none 0 [word]
  else
    let hdr := encode (.runHeader 1 0 0 1 1)
    s.withWave (some { hdr := 0, word := hdr, last := 4, active := 0xFFFF, serial := 0 }) 4 [word]

end Sys2Proof.Machine
end

