-- ==== Sys2Proof/Machine/Step.lean ====
section
/-!
DEFINITION. One step of the machine, and the machine that is about to run a given word.
-/

namespace Sys2Proof.Machine

/-- One step: the next input where one is given, else the current wave's next instruction, else the device's next step. -/
def step (s : State) : Host.Outcome State Fault Refusal :=
  match s.inputs with
  | x :: rest => ({ s with inputs := rest } : State).takeInput x
  | [] => s.advance

/-- The machine in which a wave is about to issue the word whose bits are given, as if a launch had brought it there. -/
def State.withFetchWord (s : State) (nbits w : Nat) : State :=
  s.withWord (BitVec.ofNat 32 (w % 2 ^ nbits))

end Sys2Proof.Machine
end

