-- ==== Sys2Proof/Safety.lean ====
section
/-!
DEFINITION. What counts as a safe run, and the words in which statements about an instruction are made: when its operands
pass the checks of R392, what its register writes do to a wave, and what it leaves as it was.
-/

namespace Sys2Proof.Machine

/-- Whether an outcome is a next state. -/
def goesOn : Host.Outcome State Fault Refusal → Bool
  | .next _ => true
  | _ => false

/-- Whether a check passes. -/
def passed {α : Type} : Except Raise α → Bool
  | .ok _ => true
  | .error _ => false

/-- Whether the operands of an instruction pass the checks at issue (R392 checks 2, 4, 5 and 16, and in checking mode R198). -/
def Ctx.passes (c : Ctx) (o : OpSpec) : Bool := passed (c.check o) && passed (c.regionOf o)

/-- What a list of register writes does to a wave (R61, R63, R414): each element and poison written is as the write says, a
row that is given a tag has one that a write gives it (the one, where they agree), and nothing else of the rows changes in a
live lane. -/
structure Wrote (w : Wave) (ws : List RegW) (v : Wave) : Prop where
  value : ∀ x ∈ ws, v.elem x.row x.lane = x.val
  tag : ∀ x ∈ ws, x.tag ≠ none → ∃ y ∈ ws, y.row = x.row ∧ y.tag = some (v.row x.row).tag
  poison : ∀ x ∈ ws, (v.row x.row).poison.getLsbD x.lane = x.pois
  frame : ∀ r l, w.isLive l = true → (∀ x ∈ ws, x.row = r → x.lane ≠ l) → v.elem r l = w.elem r l
  clean : ∀ r l, (∀ x ∈ ws, x.row = r → x.lane ≠ l) → (v.row r).poison.getLsbD l = (w.row r).poison.getLsbD l
  keeps : ∀ r, (∀ x ∈ ws, x.row = r → x.tag = none) → (v.row r).tag = (w.row r).tag

/-- What register tags written at issue do to a wave, the elements coming later (R177): no live element changes. -/
structure Tagged (w : Wave) (ws : List RegW) (v : Wave) : Prop where
  tag : ∀ x ∈ ws, x.tag ≠ none → ∃ y ∈ ws, y.row = x.row ∧ y.tag = some (v.row x.row).tag
  frame : ∀ r l, w.isLive l = true → v.elem r l = w.elem r l
  clean : ∀ r, (v.row r).poison = (w.row r).poison
  keeps : ∀ r, (∀ x ∈ ws, x.row = r → x.tag = none) → (v.row r).tag = (w.row r).tag

/-- The floating-point exceptions that an instruction of a run leaves to be taken (R69, R400). -/
def Ctx.newTraps (c : Ctx) (fl : FFlags) : List Trap :=
  let hot := fl &&& c.s.fpTraps c.w.launch
  if c.w.mode || hot == 0 then []
  else [{ cause := 15, lanes := maskOf c.act, info := BitVec.ofNat 64 (hot.toNat + c.w.pc * 2 ^ 32), offset := c.w.pc,
          atHeader := false, header := 0, run := none, needs := [] }]

/-- The state of a wave that one instruction may change, put back: register rows, the latent poison bit, the floating-point
flags and the sets of checking mode. -/
def Wave.butRegs (v w : Wave) : Wave :=
  { v with
    rows := w.rows, errstat := w.errstat, fpflags := w.fpflags, fpPending := w.fpPending
    regionReads := w.regionReads, regionWrites := w.regionWrites }

/-- What register writes, one of them poisoned or none, do to sr.errstat (R420): its latent bit alone may change; poison sets
it, it stays set while the wave holds poison that nothing has consumed, and it clears when the last of that is overwritten. -/
structure Latent (w : Wave) (poisoned : Bool) (v : Wave) : Prop where
  others : v.errstat ||| 2 = w.errstat ||| 2
  raised : poisoned = true → v.errstat.getLsbD 1 = true
  stays : w.errstat.getLsbD 1 = true → v.hasLatent = true → v.errstat.getLsbD 1 = true
  quiet : poisoned = false → w.errstat.getLsbD 1 = false → v.errstat.getLsbD 1 = false
  clears : w.hasLatent = true → v.hasLatent = false → v.errstat.getLsbD 1 = false

/-- The outcome of an instruction that writes registers at once and nothing else (R50 class P): the writes and flags are made,
the wave goes on, and every other part of the machine stays; the number of free values drawn may grow. -/
def Ctx.Plain (c : Ctx) (ws : List RegW) (fl : FFlags) (out : Host.Outcome State Fault Refusal) : Prop :=
  ∃ (v : Wave) (n : Nat), out = .next (({ c.s with free := n } : State).setWave (v.advance c.r)) ∧ c.s.free ≤ n ∧
    Wrote c.w ws v ∧ v.butRegs c.w = c.w ∧
    Latent c.w (ws.any (fun x => x.pois)) v ∧
    v.fpflags = c.w.fpflags ||| fl.zeroExtend 32 ∧ v.fpPending = c.w.fpPending ++ c.newTraps fl

/-- The operation that makes the register writes of an instruction of class S2 (R175, R177). -/
def Ctx.resultsOf (c : Ctx) (ws : List RegW) (fl : FFlags) : Pend :=
  { id := c.w.nextPend
    kind := .regs (laterWrites ws) fl
    flag := some c.sf2
    serial := c.r.serial
    offset := c.w.pc
    dests := dedup (ws.map (fun x => x.row))
    acquire := false
    release := false
    scope := 2 }

/-- The outcome of an instruction of class S2 (R50, R175, R177): the tags are written, and an operation that will make the
writes and raise the flags is attached to completion flag sf2 of its run; lanes in `drawn` move their draw counters on. -/
def Ctx.Later (c : Ctx) (ws : List RegW) (fl : FFlags) (drawn : Wave → Wave) (out : Host.Outcome State Fault Refusal) :
    Prop :=
  ∃ (v : Wave) (n : Nat), out = .next (({ c.s with free := n } : State).setWave (v.advance c.r)) ∧ c.s.free ≤ n ∧
    Tagged c.w ws v ∧
    { v.butRegs c.w with pend := c.w.pend, nextPend := c.w.nextPend, draw := c.w.draw } = c.w ∧
    v.errstat = c.w.errstat ∧ v.fpflags = c.w.fpflags ∧ v.fpPending = c.w.fpPending ∧
    v.draw = (drawn c.w).draw ∧ v.nextPend = c.w.nextPend + 1 ∧
    v.pend = c.w.pend ++ [c.resultsOf ws fl]

/-- The outcome of an instruction that writes one k register (R202, R223): its poison is cleared, and nothing else of the
machine changes but the wave's place. -/
def Ctx.SetsK (c : Ctx) (d : Nat) (v : DWord) (out : Host.Outcome State Fault Refusal) : Prop :=
  ∃ u : Wave, out = .next (c.s.setWave (u.advance c.r)) ∧ u.kreg d = v ∧ u.kpoison.getLsbD d = false ∧
    (∀ j, j ≠ d → u.kreg j = c.w.kreg j ∧ u.kpoison.getLsbD j = c.w.kpoison.getLsbD j) ∧
    { u with
      k := c.w.k, kpoison := c.w.kpoison, regionReads := c.w.regionReads, regionWrites := c.w.regionWrites } = c.w

/-- Whether the k registers that an instruction reads and writes let it pass (R416, and in checking mode R198). -/
def Ctx.kPasses (c : Ctx) (reads writes : List Nat) : Bool :=
  passed (c.checkPoison [] [] reads) &&
    passed (c.region (reads.map (fun k => 2048 + k)) (writes.map (fun k => (2048 + k, k))))

/-- Queue q holds a packet of a type, in a state: nothing it waits for, every slot of the packet made ready and read through the
queue's domain as the number given, a valid header, no reserved bit set outside `used`, and in PARSE no earlier work that its
serial bit has to wait for (R91, R97, R98). -/
structure State.InHand (s : State) (q : Nat) (st : QState) (type : Nat) (used : Nat → Nat → Nat) (slots : List Nat) : Prop where
  state : (s.queue q).st = st
  free : s.isWaiting 0 q = false
  nonempty : slots ≠ []
  ready : slots.length ≤ (s.queue q).pending ∧ (s.queue q).pending ≤ (s.queue q).slots
  reads : ∀ (i v : Nat), slots[i]? = some v →
    s.parserRead q (s.queue q).domain ((s.queue q).slotAddr i) 64 = .ok v ∧ v &&& used i (slots.headD 0) = v
  type : slots.headD 0 % 2 ^ 8 = type
  header : headerReason (slots.headD 0) = none
  more : moreOf (slots.headD 0) = some (slots.length - 1)
  serial : st = .parse → bit (slots.headD 0) 11 = true → (s.queue q).serialDone = true ∨ s.queueWork q = false

/-- What becomes of a state as a queue takes up a packet of some slots: the lines that the slots lie in are converted (R149),
and the queue keeps the packet's header (R109). -/
def State.handed (s : State) (q : Nat) (slots : List Nat) : State :=
  { s.parserTouch q (s.queue q).domain ((List.range slots.length).map (fun i => ((s.queue q).slotAddr i, 64))) with
    queues := tset s.queues q { s.queue q with header := some (slots.headD 0) } }

/-- What consuming a packet of some slots does to a queue (R92, R93): read_index moves past it, a queue whose ring is then
empty is IDLE, or DISABLED when software asked for it, and no other queue and nothing outside the queues, memory, the fault
and error records changes. -/
structure Consumed (s : State) (q n : Nat) (t : State) : Prop where
  index : (t.queue q).readIndex = (s.queue q).readIndex + BitVec.ofNat 32 n
  left : (s.queue q).pending = n →
    (t.queue q).st = if (s.queue q).disabling then .disabled else .idle
  others : ∀ p, p ≠ q → t.queue p = s.queue p
  frame : t.launches = s.launches ∧ t.waves = s.waves ∧ t.teams = s.teams ∧ t.sets = s.sets ∧ t.tagStates = s.tagStates ∧
    t.heads = s.heads ∧ t.packetCopies = s.packetCopies ∧ t.pool = s.pool ∧ t.kvNames = s.kvNames ∧ t.ns = s.ns

end Sys2Proof.Machine
end

