-- ==== Sys2Proof/Certificates/Slice0/Obligations.lean ====
section
/-!
DEFINITION. The statements for the provers. Each says which rule of the specification it states, or that it is derived. A
statement about an instruction word speaks of a wave that issues (`s.ctx? = some c`: `c.w` is the wave, `c.r` its run,
`c.act` the run's active lanes), and its tables are written from the rules, in exact numbers where the rule gives them.
-/

open Sys2Proof Sys2Proof.Machine


/-! ### Integer, bit, comparison, immediate, 64-bit and move instructions (R217 to R222, R46) -/

namespace Sys2Proof.Machine

/-- Reads an operand by the signedness of its format (R201). -/
def readAs (signed : Bool) (x : Word) : Int := if signed then x.toInt else (x.toNat : Int)

/-- The rows of R217: the operands, whether d is a third one, and the exact result before it is taken modulo 2^32; `g` says
whether the operand format is signed. -/
def intRow : Instr → Option (BitVec 7 × BitVec 7 × BitVec 7 × BitVec 1 × Bool × (Bool → Word → Word → Word → Int))
  | .add d a b kb => some (d, a, b, kb, false, fun _ x y _ => x.toInt + y.toInt)
  | .sub d a b kb => some (d, a, b, kb, false, fun _ x y _ => x.toInt - y.toInt)
  | .mul d a b kb => some (d, a, b, kb, false, fun _ x y _ => x.toInt * y.toInt)
  | .mulh d a b kb => some (d, a, b, kb, false, fun _ x y _ => x.toInt * y.toInt / 2 ^ 32)
  | .mulhu d a b kb => some (d, a, b, kb, false, fun _ x y _ => (x.toNat : Int) * y.toNat / 2 ^ 32)
  | .mad d a b kb => some (d, a, b, kb, true, fun _ x y z => x.toInt * y.toInt + z.toInt)
  | .min d a b kb => some (d, a, b, kb, false, fun _ x y _ => Min.min x.toInt y.toInt)
  | .max d a b kb => some (d, a, b, kb, false, fun _ x y _ => Max.max x.toInt y.toInt)
  | .minu d a b kb => some (d, a, b, kb, false, fun _ x y _ => Min.min (x.toNat : Int) y.toNat)
  | .maxu d a b kb => some (d, a, b, kb, false, fun _ x y _ => Max.max (x.toNat : Int) y.toNat)
  | .absd d a b kb => some (d, a, b, kb, false, fun g x y _ => ((readAs g x - readAs g y).natAbs : Int))
  | .adds d a b kb => some (d, a, b, kb, false, fun g x y _ =>
      if g then Max.max (-2 ^ 31) (Min.min (2 ^ 31 - 1) (readAs g x + readAs g y))
      else Max.max 0 (Min.min (2 ^ 32 - 1) (readAs g x + readAs g y)))
  | .subs d a b kb => some (d, a, b, kb, false, fun g x y _ =>
      if g then Max.max (-2 ^ 31) (Min.min (2 ^ 31 - 1) (readAs g x - readAs g y))
      else Max.max 0 (Min.min (2 ^ 32 - 1) (readAs g x - readAs g y)))
  | .avg d a b kb => some (d, a, b, kb, false, fun g x y _ => (readAs g x + readAs g y + 1) / 2)
  | _ => none

/-- What an instruction of R217 names and writes (R41, R61, R65). -/
def intSpec (c : Ctx) (i : Instr) : Option OpSpec :=
  (intRow i).map (fun (d, a, b, kb, dSrc, f) =>
    let srcs := [a.toNat] ++ bFields kb b ++ (if dSrc then [d.toNat] else [])
    { regs := d.toNat :: srcs
      data := srcs.map (fun r => (r, [2, 3]))
      reads := srcs
      kreads := bKregs kb b
      writes := c.act.map (fun l =>
        let fmt := c.w.operandFmt l srcs 2
        c.w.put l d.toNat
          (BitVec.ofInt 32 (f (fmt == 2) (c.w.reg l a.toNat) (c.operandB kb b l) (c.w.reg l d.toNat))) (mkTag fmt 0)) })

end Sys2Proof.Machine

/-- R217: every instruction of major 0x01, on operands that pass the checks, writes its exact result modulo 2^32 in every
active lane with the operand format's tag, leaves everything else and goes on; on operands that do not (a format other than I32
and UI32 among them) it takes the trap of the check that fails. -/
def Obligations.IntegerArithmetic : Prop :=
  ∀ (s : State) (c : Ctx) (i : Instr) (o : OpSpec), s.ctx? = some c → intSpec c i = some o →
    (c.passes o = true → c.Plain o.writes 0 (exec i s)) ∧ (∀ e, c.check o = .error e → exec i s = .next (c.trap e))

namespace Sys2Proof.Machine

/-- The rows of R218 of two operands: the result as a number. -/
def bitRow : Instr → Option (BitVec 7 × BitVec 7 × BitVec 7 × BitVec 1 × (Word → Word → Word))
  | .and d a b kb => some (d, a, b, kb, fun x y => x &&& y)
  | .or d a b kb => some (d, a, b, kb, fun x y => x ||| y)
  | .xor d a b kb => some (d, a, b, kb, fun x y => x ^^^ y)
  | .andn d a b kb => some (d, a, b, kb, fun x y => x &&& ~~~y)
  | .shl d a b kb => some (d, a, b, kb, fun x y => BitVec.ofNat 32 (x.toNat * 2 ^ y.toNat))
  | .shr d a b kb => some (d, a, b, kb, fun x y => BitVec.ofNat 32 (x.toNat / 2 ^ y.toNat))
  | .sar d a b kb => some (d, a, b, kb, fun x y => BitVec.ofInt 32 (x.toInt / 2 ^ y.toNat))
  | .rotl d a b kb => some (d, a, b, kb, fun x y =>
      BitVec.ofNat 32 (x.toNat * 2 ^ (y.toNat % 32) + x.toNat / 2 ^ (32 - y.toNat % 32)))
  | _ => none

/-- The rows of R218 of one operand. -/
def bitUnary : Instr → Option (BitVec 7 × BitVec 7 × (Word → Word))
  | .not d a => some (d, a, fun x => BitVec.ofNat 32 (2 ^ 32 - 1 - x.toNat))
  | .popc d a => some (d, a, fun x => BitVec.ofNat 32 ((List.range 32).countP (fun i => x.getLsbD i)))
  | .clz d a => some (d, a, fun x =>
      BitVec.ofNat 32 (((List.range 32).takeWhile (fun i => !x.getLsbD (31 - i))).length))
  | .brev d a => some (d, a, fun x =>
      BitVec.ofNat 32 (((List.range 32).map (fun i => if x.getLsbD i then 2 ^ (31 - i) else 0)).sum))
  | _ => none

/-- What an instruction of R218 names and writes: any tag is accepted and the result takes operand a's. -/
def bitSpec (c : Ctx) (i : Instr) : Option OpSpec :=
  match bitRow i, bitUnary i with
  | some (d, a, b, kb, f), _ => some
      { regs := d.toNat :: ([a.toNat] ++ bFields kb b ++ [])
        reads := [a.toNat] ++ bFields kb b ++ []
        kreads := bKregs kb b
        writes := c.act.map (fun l =>
          c.w.put l d.toNat (f (c.w.reg l a.toNat) (c.operandB kb b l)) (c.w.tagAt l a.toNat)) }
  | none, some (d, a, f) => some
      { regs := [d.toNat, a.toNat]
        reads := [a.toNat]
        writes := c.act.map (fun l => c.w.put l d.toNat (f (c.w.reg l a.toNat)) (c.w.tagAt l a.toNat)) }
  | none, none => none

end Sys2Proof.Machine

/-- R218: every instruction of major 0x02, on operands that pass the checks, writes its result with operand a's tag in every
active lane, leaves everything else and goes on; on operands that do not it takes the trap of the check that fails. -/
def Obligations.BitOperations : Prop :=
  ∀ (s : State) (c : Ctx) (i : Instr) (o : OpSpec), s.ctx? = some c → bitSpec c i = some o →
    (c.passes o = true → c.Plain o.writes 0 (exec i s)) ∧ (∀ e, c.check o = .error e → exec i s = .next (c.trap e))

namespace Sys2Proof.Machine

/-- The conditions of R219: signed for EQ, NE, LT and LE, unsigned for LTU and LEU; none beyond. -/
def condition : Nat → Word → Word → Bool
  | 0, x, y => decide (x.toInt = y.toInt)
  | 1, x, y => decide (x.toInt ≠ y.toInt)
  | 2, x, y => decide (x.toInt < y.toInt)
  | 3, x, y => decide (x.toInt ≤ y.toInt)
  | 4, x, y => decide (x.toNat < y.toNat)
  | _, x, y => decide (x.toNat ≤ y.toNat)

/-- The rows of CMP: their condition. -/
def cmpRow : Instr → Option (BitVec 7 × BitVec 7 × BitVec 7 × BitVec 1 × Nat)
  | .cmpEq d a b kb => some (d, a, b, kb, 0)
  | .cmpNe d a b kb => some (d, a, b, kb, 1)
  | .cmpLt d a b kb => some (d, a, b, kb, 2)
  | .cmpLe d a b kb => some (d, a, b, kb, 3)
  | .cmpLtu d a b kb => some (d, a, b, kb, 4)
  | .cmpLeu d a b kb => some (d, a, b, kb, 5)
  | _ => none

/-- What CMP and CMPI name and write: 1 or 0 with tag I32. -/
def cmpSpec (c : Ctx) (i : Instr) : Option OpSpec :=
  match i with
  | .cmpi d a k imm => some
      { regs := [d.toNat, a.toNat]
        data := [(a.toNat, [2, 3])]
        reads := [a.toNat]
        writes := c.act.map (fun l => c.w.put l d.toNat
          (if condition k.toNat (c.w.reg l a.toNat) (BitVec.ofInt 32 imm.toInt) then 1 else 0) (mkTag 2 0)) }
  | _ => (cmpRow i).map (fun (d, a, b, kb, k) =>
      { regs := d.toNat :: ([a.toNat] ++ bFields kb b ++ [])
        data := ([a.toNat] ++ bFields kb b ++ []).map (fun r => (r, [2, 3]))
        reads := [a.toNat] ++ bFields kb b ++ []
        kreads := bKregs kb b
        writes := c.act.map (fun l => c.w.put l d.toNat
          (if condition k (c.w.reg l a.toNat) (c.operandB kb b l) then 1 else 0) (mkTag 2 0)) })

/-- R219: CMP and CMPI, on operands that pass the checks, write 1 where the condition holds and 0 otherwise with tag I32 in
every active lane, leave everything else and go on. -/
def comparisonsRule : Prop :=
  ∀ (s : State) (c : Ctx) (i : Instr) (o : OpSpec), s.ctx? = some c → cmpSpec c i = some o → c.passes o = true →
    c.Plain o.writes 0 (exec i s)

/-- The immediate forms of R220 that accept any tag and keep operand a's. -/
def immRow : Instr → Option (BitVec 7 × BitVec 7 × (Word → Word))
  | .andi d a imm => some (d, a, fun x => x &&& BitVec.ofInt 32 imm.toInt)
  | .ori d a imm => some (d, a, fun x => x ||| BitVec.ofInt 32 imm.toInt)
  | .xori d a imm => some (d, a, fun x => x ^^^ BitVec.ofInt 32 imm.toInt)
  | .shli d a n => some (d, a, fun x => BitVec.ofNat 32 (x.toNat * 2 ^ n.toNat))
  | .shri d a n => some (d, a, fun x => BitVec.ofNat 32 (x.toNat / 2 ^ n.toNat))
  | .sari d a n => some (d, a, fun x => BitVec.ofInt 32 (x.toInt / 2 ^ n.toNat))
  | .rotli d a n => some (d, a, fun x =>
      BitVec.ofNat 32 (x.toNat * 2 ^ n.toNat + x.toNat / 2 ^ (32 - n.toNat)))
  | .bfx d a p n => some (d, a, fun x => BitVec.ofNat 32 (x.toNat / 2 ^ p.toNat % 2 ^ n.toNat))
  | _ => none

/-- What the immediate forms name and write (R220, R46). -/
def immSpec (c : Ctx) (i : Instr) : Option OpSpec :=
  match i with
  | .addi d a imm => some
      { regs := [d.toNat, a.toNat]
        data := [(a.toNat, [2, 3])]
        reads := [a.toNat]
        writes := c.act.map (fun l => c.w.put l d.toNat (BitVec.ofInt 32 ((c.w.reg l a.toNat).toInt + imm.toInt))
          (mkTag (c.w.operandFmt l [a.toNat] 2) 0)) }
  | .movi d imm => some
      { regs := [d.toNat]
        writes := c.act.map (fun l => c.w.putSame l d.toNat (BitVec.ofInt 32 imm.toInt)) }
  | .movhi d imm => some
      { regs := [d.toNat]
        reads := [d.toNat]
        writes := c.act.map (fun l =>
          c.w.putSame l d.toNat (BitVec.ofNat 32 ((c.w.reg l d.toNat).toNat * 2 ^ 19 + imm.toNat))) }
  | .bfi d a p n => some
      { regs := [d.toNat, a.toNat]
        reads := [a.toNat, d.toNat]
        writes := c.act.map (fun l =>
          let m := BitVec.ofNat 32 ((2 ^ n.toNat - 1) * 2 ^ p.toNat)
          c.w.put l d.toNat ((c.w.reg l d.toNat &&& ~~~m) ||| ((c.w.reg l a.toNat <<< p.toNat) &&& m))
            (c.w.tagAt l a.toNat)) }
  | _ => (immRow i).map (fun (d, a, f) =>
      { regs := [d.toNat, a.toNat]
        reads := [a.toNat]
        writes := c.act.map (fun l => c.w.put l d.toNat (f (c.w.reg l a.toNat)) (c.w.tagAt l a.toNat)) })

/-- R220 and R46: every well-formed immediate form, on operands that pass the checks, writes the result of its table row in
every active lane, leaves everything else and goes on. -/
def immediateFormsRule : Prop :=
  ∀ (s : State) (c : Ctx) (i : Instr) (o : OpSpec), s.ctx? = some c → i.wellFormed = true → immSpec c i = some o →
    c.passes o = true → c.Plain o.writes 0 (exec i s)

/-- A 64-bit result in an even register and the next: tag I64 on the even one, RAW on the odd one (R64, R221). -/
def pairWrites (w : Wave) (l d : Nat) (v : Int) : List RegW :=
  [w.put l d (BitVec.ofInt 32 v) (mkTag 19 0), w.put l (d + 1) (BitVec.ofInt 32 (v / 2 ^ 32)) (mkTag 0 0)]

/-- The rows of R221 on a pair and a pair or k register. -/
def wideRow : Instr → Option (BitVec 7 × BitVec 7 × BitVec 7 × BitVec 1 × (Int → Int → Int))
  | .add64 d a b kb => some (d, a, b, kb, fun x y => x + y)
  | .sub64 d a b kb => some (d, a, b, kb, fun x y => x - y)
  | _ => none

/-- The LEA rows of R221: their scale. -/
def leaRow : Instr → Option (BitVec 7 × BitVec 7 × BitVec 7 × BitVec 1 × Int)
  | .lea1 d a b kb => some (d, a, b, kb, 1)
  | .lea2 d a b kb => some (d, a, b, kb, 2)
  | .lea4 d a b kb => some (d, a, b, kb, 4)
  | .lea8 d a b kb => some (d, a, b, kb, 8)
  | _ => none

/-- SEXT and ZEXT: whether they read their source as signed. -/
def extRow : Instr → Option (BitVec 7 × BitVec 7 × Bool)
  | .sext d a => some (d, a, true)
  | .zext d a => some (d, a, false)
  | _ => none

/-- What an instruction of R221 names and writes. -/
def wideSpec (c : Ctx) (i : Instr) : Option OpSpec :=
  match wideRow i, leaRow i, extRow i with
  | some (d, a, b, kb, f), _, _ =>
    let bs := if kb = 1 then [] else [b.toNat, b.toNat + 1]
    some
      { regs := [d.toNat, d.toNat + 1, a.toNat, a.toNat + 1] ++ bs
        pairs := [d.toNat, a.toNat] ++ bFields kb b
        data := ([a.toNat] ++ bFields kb b).map (fun r => (r, [19]))
        reads := [a.toNat, a.toNat + 1] ++ bs
        kreads := bKregs kb b
        writes := c.act.flatMap (fun l => pairWrites c.w l d.toNat
          (f (c.w.pair l a.toNat) (if kb = 1 then ((c.w.kreg b.toNat).toNat : Int) else c.w.pair l b.toNat))) }
  | none, some (d, a, b, kb, n), _ => some
      { regs := [d.toNat, d.toNat + 1, a.toNat, a.toNat + 1] ++ bFields kb b
        pairs := [d.toNat, a.toNat]
        same := false
        data := (a.toNat, [19]) :: (bFields kb b).map (fun r => (r, [2, 3]))
        reads := [a.toNat, a.toNat + 1] ++ bFields kb b
        kreads := bKregs kb b
        writes := c.act.flatMap (fun l => pairWrites c.w l d.toNat
          (c.w.pair l a.toNat + readAs (kb == 1 || c.w.fmtAt l b.toNat != 3) (c.operandB kb b l) * n)) }
  | none, none, some (d, a, g) => some
      { regs := [d.toNat, d.toNat + 1, a.toNat]
        pairs := [d.toNat]
        data := [(a.toNat, [2, 3])]
        reads := [a.toNat]
        writes := c.act.flatMap (fun l => pairWrites c.w l d.toNat (readAs g (c.w.reg l a.toNat))) }
  | none, none, none => none

end Sys2Proof.Machine

/-- R221: every instruction of major 0x0E, on operands that pass the checks, writes its result modulo 2^64 to the pair with
tags I64 and RAW in every active lane, leaves everything else and goes on. -/
def Obligations.WideArithmetic : Prop :=
  ∀ (s : State) (c : Ctx) (i : Instr) (o : OpSpec), s.ctx? = some c → wideSpec c i = some o → c.passes o = true →
    c.Plain o.writes 0 (exec i s)

namespace Sys2Proof.Machine

/-- What SEL and the vector moves of R222 name and write; SEL and MOV carry the poison of the element they copy (R415). -/
def moveSpec (c : Ctx) (i : Instr) : Option OpSpec :=
  match i with
  | .sel d a b kb => some
      { regs := [d.toNat, a.toNat] ++ bFields kb b
        reads := [d.toNat]
        carry := [a.toNat] ++ bFields kb b
        kreads := bKregs kb b
        writes := c.act.map (fun l =>
          let t := c.w.reg l d.toNat != 0
          { c.w.put l d.toNat (if t then c.w.reg l a.toNat else c.operandB kb b l) (c.w.tagAt l a.toNat) with
            pois := if t then c.w.regPoison l a.toNat else kb == 0 && c.w.regPoison l b.toNat }) }
  | .mov d a => some
      { regs := [d.toNat, a.toNat]
        carry := [a.toNat]
        writes := c.act.map (fun l =>
          { c.w.put l d.toNat (c.w.reg l a.toNat) (c.w.tagAt l a.toNat) with pois := c.w.regPoison l a.toNat }) }
  | .movkv d a => some
      { regs := [d.toNat]
        kreads := [a.toNat]
        writes := c.act.map (fun l => c.w.putSame l d.toNat (BitVec.ofNat 32 (c.w.kreg a.toNat).toNat)) }
  | _ => none

/-- R222: SEL, MOV and MOVKV, on operands that pass the checks, write the chosen or copied element in every active lane (SEL
and MOV with operand a's tag and the element's poison, MOVKV with no change of tag), leave everything else and go on. -/
def selectAndMoveRule : Prop :=
  ∀ (s : State) (c : Ctx) (i : Instr) (o : OpSpec), s.ctx? = some c → moveSpec c i = some o → c.passes o = true →
    c.Plain o.writes 0 (exec i s)

/-! ### Floating point, tags, cross-lane, recipes, random numbers (R225 to R241) -/

/-- The rows of R226 that round, and of R227: the operands, whether d is a third one, and the result bits and flags. -/
def floatRow (p : FpCtl) : Instr → Option (BitVec 7 × BitVec 7 × BitVec 7 × BitVec 1 × Bool × (Nat → Nat → Nat → Nat × FFlags))
  | .fadd d a b kb => some (d, a, b, kb, false, fun x y _ => p.finish f32 (addVal p.rm (p.val f32 x) (p.val f32 y)))
  | .fsub d a b kb => some (d, a, b, kb, false, fun x y _ => p.finish f32 (addVal p.rm (p.val f32 x) (p.val f32 y).negate))
  | .fmul d a b kb => some (d, a, b, kb, false, fun x y _ => p.finish f32 (mulVal (p.val f32 x) (p.val f32 y)))
  | .ffma d a b kb => some (d, a, b, kb, true, fun x y z => fFma p f32 false x y z)
  | .ffms d a b kb => some (d, a, b, kb, true, fun x y z => fFma p f32 true x y z)
  | .fmin d a b kb => some (d, a, b, kb, false, fun x y _ => fMinMax p f32 false false x y)
  | .fmax d a b kb => some (d, a, b, kb, false, fun x y _ => fMinMax p f32 true false x y)
  | .fminnum d a b kb => some (d, a, b, kb, false, fun x y _ => fMinMax p f32 false true x y)
  | .fmaxnum d a b kb => some (d, a, b, kb, false, fun x y _ => fMinMax p f32 true true x y)
  | _ => none

/-- The rows of R227. -/
def fcmpRow : Instr → Option (BitVec 7 × BitVec 7 × BitVec 7 × BitVec 1 × FCond)
  | .fcmpEq d a b kb => some (d, a, b, kb, .eq)
  | .fcmpNe d a b kb => some (d, a, b, kb, .ne)
  | .fcmpLt d a b kb => some (d, a, b, kb, .lt)
  | .fcmpLe d a b kb => some (d, a, b, kb, .le)
  | .fcmpUnord d a b kb => some (d, a, b, kb, .unord)
  | .fcmpOrd d a b kb => some (d, a, b, kb, .ord)
  | _ => none

/-- What a two-source floating instruction names and writes, and the flags it raises: `fmt` is the format it accepts, `tag`
the tag of the result. -/
def floatOp (c : Ctx) (fmt : Nat) (tag : BitVec 16) (d a b : BitVec 7) (kb : BitVec 1) (dSrc : Bool)
    (f : Nat → Nat → Nat → Nat × FFlags) : OpSpec × FFlags :=
  let srcs := [a.toNat] ++ bFields kb b ++ (if dSrc then [d.toNat] else [])
  let res := fun l => f (c.w.reg l a.toNat).toNat (c.operandB kb b l).toNat (c.w.reg l d.toNat).toNat
  ({ regs := d.toNat :: srcs
     data := srcs.map (fun r => (r, [fmt]))
     reads := srcs
     kreads := bKregs kb b
     writes := c.act.map (fun l => c.w.put l d.toNat (BitVec.ofNat 32 (res l).1) tag) },
   orFlags (c.act.map (fun l => (res l).2)))

/-- What an instruction of R226 or R227 names, writes and raises. -/
def floatSpec (c : Ctx) (i : Instr) : Option (OpSpec × FFlags) :=
  match floatRow c.fpctl i, fcmpRow i, i with
  | some (d, a, b, kb, dSrc, f), _, _ => some (floatOp c 1 (mkTag 1 0) d a b kb dSrc f)
  | none, some (d, a, b, kb, k), _ => some (floatOp c 1 (mkTag 2 0) d a b kb false
      (fun x y _ => (if (fCompare c.fpctl k x y).1 then 1 else 0, (fCompare c.fpctl k x y).2)))
  | none, none, .fabs d a => some
      ({ regs := [d.toNat, a.toNat]
         data := [(a.toNat, [1])]
         reads := [a.toNat]
         writes := c.act.map (fun l =>
           c.w.put l d.toNat (BitVec.ofNat 32 ((c.w.reg l a.toNat).toNat % 2 ^ 31)) (c.w.tagAt l a.toNat)) }, 0)
  | none, none, .fneg d a => some
      ({ regs := [d.toNat, a.toNat]
         data := [(a.toNat, [1])]
         reads := [a.toNat]
         writes := c.act.map (fun l =>
           c.w.put l d.toNat (BitVec.ofNat 32 ((c.w.reg l a.toNat).toNat + 2 ^ 31)) (c.w.tagAt l a.toNat)) }, 0)
  | none, none, .fcopysign d a b kb => some
      ({ regs := d.toNat :: a.toNat :: bFields kb b
         data := (a.toNat :: bFields kb b).map (fun r => (r, [1]))
         reads := a.toNat :: bFields kb b
         kreads := bKregs kb b
         writes := c.act.map (fun l => c.w.put l d.toNat
           (BitVec.ofNat 32 ((c.w.reg l a.toNat).toNat % 2 ^ 31 + (c.operandB kb b l).toNat / 2 ^ 31 * 2 ^ 31))
           (c.w.tagAt l a.toNat)) }, 0)
  | none, none, .fclass d a => some
      ({ regs := [d.toNat, a.toNat]
         data := [(a.toNat, [1])]
         reads := [a.toNat]
         writes := c.act.map (fun l =>
           c.w.put l d.toNat (BitVec.ofNat 32 (fClass (c.w.reg l a.toNat).toNat)) (mkTag 2 0)) }, 0)
  | _, _, _ => none

/-- R226 and R227: every instruction of majors 0x10 and 0x11, on operands that pass the checks, writes its result in every
active lane with the row's tag, raises the union of the lanes' flags, leaves everything else and goes on. -/
def floatArithmeticRule : Prop :=
  ∀ (s : State) (c : Ctx) (i : Instr) (o : OpSpec) (fl : FFlags), s.ctx? = some c → floatSpec c i = some (o, fl) →
    c.passes o = true → c.Plain o.writes fl (exec i s)

/-- R226: invalid is raised for ∞ − ∞ and 0 × ∞, whose results are the canonical NaN, and for a signalling NaN operand of an
addition or a product, in every rounding mode and with ftz or without. -/
def floatInvalidRule : Prop :=
  ∀ (p : FpCtl),
    fAdd p f32 0x7F800000 0xFF800000 = (0x7FC00000, nv) ∧ fSub p f32 0x7F800000 0x7F800000 = (0x7FC00000, nv) ∧
    fMul p f32 0 0x7F800000 = (0x7FC00000, nv) ∧ fMul p f32 0xFF800000 0x80000000 = (0x7FC00000, nv) ∧
    (∀ z, (fFma p f32 false 0 0x7F800000 z).1 = 0x7FC00000 ∧ (fFma p f32 false 0 0x7F800000 z).2 &&& nv = nv) ∧
    (∀ x y, (f32.decode x).isSnan = true →
      (fAdd p f32 x y).2 &&& nv = nv ∧ (fAdd p f32 y x).2 &&& nv = nv ∧
      (fMul p f32 x y).2 &&& nv = nv ∧ (fMul p f32 y x).2 &&& nv = nv)

/-- The two elements of a packed word, each by a function of the elements of x, y and d (R230). -/
def halves (f : Nat → Nat → Nat → Nat × FFlags) (x y z : Nat) : Nat × FFlags :=
  ((f (x % 2 ^ 16) (y % 2 ^ 16) (z % 2 ^ 16)).1 + (f (x / 2 ^ 16) (y / 2 ^ 16) (z / 2 ^ 16)).1 * 2 ^ 16,
   (f (x % 2 ^ 16) (y % 2 ^ 16) (z % 2 ^ 16)).2 ||| (f (x / 2 ^ 16) (y / 2 ^ 16) (z / 2 ^ 16)).2)

/-- The rows of R230: the format, and the operation in it. -/
def packedRow (p : FpCtl) : Instr →
    Option (Nat × BitVec 7 × BitVec 7 × BitVec 7 × BitVec 1 × Bool × (Nat → Nat → Nat → Nat × FFlags))
  | .hadd2 d a b kb => some (4, d, a, b, kb, false, fun x y _ => fAdd p f16 x y)
  | .hsub2 d a b kb => some (4, d, a, b, kb, false, fun x y _ => fSub p f16 x y)
  | .hmul2 d a b kb => some (4, d, a, b, kb, false, fun x y _ => fMul p f16 x y)
  | .hfma2 d a b kb => some (4, d, a, b, kb, true, fun x y z => fFma p f16 false x y z)
  | .hmin2 d a b kb => some (4, d, a, b, kb, false, fun x y _ => fMinMax p f16 false false x y)
  | .hmax2 d a b kb => some (4, d, a, b, kb, false, fun x y _ => fMinMax p f16 true false x y)
  | .badd2 d a b kb => some (5, d, a, b, kb, false, fun x y _ => fAdd p bf16 x y)
  | .bmul2 d a b kb => some (5, d, a, b, kb, false, fun x y _ => fMul p bf16 x y)
  | .bfma2 d a b kb => some (5, d, a, b, kb, true, fun x y z => fFma p bf16 false x y z)
  | _ => none

/-- R230: every instruction of major 0x13, on operands that pass the checks, applies its operation to elements 0 and 1 of
each active lane, writes the result in the operand's format, raises the flags, leaves everything else and goes on. -/
def packedArithmeticRule : Prop :=
  ∀ (s : State) (c : Ctx) (i : Instr) (o : OpSpec) (fl : FFlags), s.ctx? = some c →
    (packedRow c.fpctl i).map (fun (fmt, d, a, b, kb, dSrc, f) => floatOp c fmt (mkTag fmt 0) d a b kb dSrc (halves f)) =
      some (o, fl) →
    c.passes o = true → c.Plain o.writes fl (exec i s)

end Sys2Proof.Machine

/-- R226, R227 and R230: the F32 and packed instructions write what the definitions above say, and raise invalid where R226
says. -/
def Obligations.FloatAndPacked : Prop :=
  floatArithmeticRule ∧ floatInvalidRule ∧ packedArithmeticRule

namespace Sys2Proof.Machine

/-- The special functions by number (R228). -/
def specialRow : Instr → Option (BitVec 7 × BitVec 7 × Nat)
  | .rcp d a => some (d, a, 0)
  | .rsq d a => some (d, a, 1)
  | .sqrt d a => some (d, a, 2)
  | .exp2 d a => some (d, a, 3)
  | .log2 d a => some (d, a, 4)
  | .sin d a => some (d, a, 5)
  | .cos d a => some (d, a, 6)
  | .tanh d a => some (d, a, 7)
  | _ => none

/-- What a special function names, writes and raises (R228). -/
def specialSpec (c : Ctx) (i : Instr) : Option (OpSpec × FFlags) :=
  (specialRow i).map (fun (d, a, n) =>
    ({ regs := [d.toNat, a.toNat]
       data := [(a.toNat, [1])]
       reads := [a.toNat]
       writes := c.act.map (fun l =>
         c.w.put l d.toNat (BitVec.ofNat 32 (specialFn n (c.w.reg l a.toNat)).1) (mkTag 1 0)) },
     orFlags (c.act.map (fun l => (specialFn n (c.w.reg l a.toNat)).2))))

/-- R228: every special function, on operands that pass the checks, gives its destination the tag F32 at issue and leaves an
operation on flag sf2 of its run that will write a fixed function of each active lane's input bits and raise the flags. -/
def specialFunctionsRule : Prop :=
  ∀ (s : State) (c : Ctx) (i : Instr) (o : OpSpec) (fl : FFlags), s.ctx? = some c → specialSpec c i = some (o, fl) →
    c.passes o = true → c.Later o.writes fl id (exec i s)

/-- The rows of R229 that the specification gives bit for bit: function, input, result and flags. -/
def specialValues : List (Nat × Word × Nat × FFlags) :=
  [(0, 0xFF800000, 0x80000000, 0), (0, 0x80000000, 0xFF800000, dz), (0, 0, 0x7F800000, dz), (0, 0x7F800000, 0, 0),
   (1, 0xFF800000, 0x7FC00000, nv), (1, 0xBF800000, 0x7FC00000, nv), (1, 0x80000000, 0xFF800000, dz),
   (1, 0, 0x7F800000, dz), (1, 0x7F800000, 0, 0),
   (2, 0xFF800000, 0x7FC00000, nv), (2, 0xBF800000, 0x7FC00000, nv), (2, 0x80000000, 0x80000000, 0), (2, 0, 0, 0),
   (2, 0x7F800000, 0x7F800000, 0),
   (3, 0xFF800000, 0, 0), (3, 0x80000000, 0x3F800000, 0), (3, 0, 0x3F800000, 0), (3, 0x7F800000, 0x7F800000, 0),
   (4, 0xFF800000, 0x7FC00000, nv), (4, 0xBF800000, 0x7FC00000, nv), (4, 0x80000000, 0xFF800000, dz),
   (4, 0, 0xFF800000, dz), (4, 0x7F800000, 0x7F800000, 0),
   (5, 0xFF800000, 0x7FC00000, nv), (5, 0x80000000, 0x80000000, 0), (5, 0, 0, 0), (5, 0x7F800000, 0x7FC00000, nv),
   (6, 0xFF800000, 0x7FC00000, nv), (6, 0x80000000, 0x3F800000, 0), (6, 0, 0x3F800000, 0),
   (6, 0x7F800000, 0x7FC00000, nv),
   (7, 0xFF800000, 0xBF800000, 0), (7, 0x80000000, 0x80000000, 0), (7, 0, 0, 0), (7, 0x7F800000, 0x3F800000, 0)]

/-- R229: the special values of the special functions, and a NaN input gives the canonical NaN and raises nv only when it is
signalling. -/
def specialValuesRule : Prop :=
  (∀ e ∈ specialValues, specialFn e.1 e.2.1 = (e.2.2.1, e.2.2.2)) ∧
  (∀ n, n < 8 → ∀ x : Word, (f32.decode x.toNat).isNan = true →
    specialFn n x = (0x7FC00000, if (f32.decode x.toNat).isSnan then nv else 0))

end Sys2Proof.Machine

/-- R228 and R229: the special functions write what the definitions above say; their special values are bit for bit. -/
def Obligations.SpecialMath : Prop :=
  specialFunctionsRule ∧ specialValuesRule

namespace Sys2Proof.Machine

/-- What a conversion names, writes and raises (R231 to R233): a lane reads its own source, the second word of a 64-bit one,
and its destination where it keeps elements of that. -/
def cvtSpec (c : Ctx) (d a : BitVec 7) (f : BitVec 5) (r : BitVec 2) (sv : BitVec 1) (g : BitVec 2) : OpSpec × FFlags :=
  let wide := c.act.any (fun l => c.w.fmtAt l a.toNat == 19)
  let res := fun l => c.cvtLane d.toNat a.toNat f.toNat (RMode.of r.toNat) (sv == 1) g.toNat l
  let keeps := fun l => decide (f.toNat ≠ 19) && tagFmt (c.w.row (c.w.rowOf l d.toNat)).tag == f.toNat &&
    decide (elemCount (if c.w.fmtAt l a.toNat = 0 then 1 else c.w.fmtAt l a.toNat) < elemCount f.toNat)
  ({ regs := [d.toNat] ++ (if f.toNat = 19 then [d.toNat + 1] else []) ++ [a.toNat] ++
       (if wide then [a.toNat + 1] else [])
     pairs := (if f.toNat = 19 then [d.toNat] else []) ++ (if wide then [a.toNat] else [])
     reads := [a.toNat]
     laneReads := (c.act.filter (fun l => c.w.fmtAt l a.toNat == 19)).map (fun l => (l, a.toNat + 1)) ++
       (c.act.filter keeps).map (fun l => (l, d.toNat))
     writes := c.act.flatMap (fun l =>
       if f.toNat = 19 then pairWrites c.w l d.toNat (res l).1
       else [c.w.put l d.toNat (BitVec.ofNat 32 (res l).1) (mkTag f.toNat (c.w.keptScale l d.toNat f.toNat))]) },
   orFlags (c.act.map (fun l => (res l).2.1)))

/-- The draws that a conversion takes in each active lane (R79, R80, R83). -/
def cvtDrawn (c : Ctx) (d a : BitVec 7) (f : BitVec 5) (r : BitVec 2) (sv : BitVec 1) (g : BitVec 2) (w : Wave) : Wave :=
  c.act.foldl (fun w l =>
    w.drew l (c.cvtLane d.toNat a.toNat f.toNat (RMode.of r.toNat) (sv == 1) g.toNat l).2.2) w

/-- Whether the group of a conversion exists in a lane (R231). -/
def cvtGroupOk (c : Ctx) (a : BitVec 7) (f : BitVec 5) (g : BitVec 2) (l : Nat) : Bool :=
  let sf := c.w.fmtAt l a.toNat
  let ns := elemCount (if sf = 0 then 1 else sf)
  let nd := elemCount f.toNat
  decide ((g.toNat + 1) * Nat.min ns nd ≤ Nat.max ns nd)

/-- The integer to which a mode rounds the exact number x × 2^e (R69, R77): n ÷ k with k a power of two. -/
def roundInt (r : RMode) (x e : Int) : Int :=
  let n := x * ((2 ^ e.toNat : Nat) : Int)
  let k : Int := ((2 ^ (-e).toNat : Nat) : Int)
  let f := n / k
  let t := n % k
  match r with
  | .rdn => f
  | .rup => if t = 0 then f else f + 1
  | .rtz => if 0 ≤ n ∨ t = 0 then f else f + 1
  | .rne => if 2 * t < k ∨ (2 * t = k ∧ f % 2 = 0) then f else f + 1

/-- What an F32 value becomes in I32 or UI32 (R77): a NaN 0 and an infinity the end of the range, with nv; a finite value x × 2^e
the integer that the mode rounds it to, or with nv the end of the range that it lies beyond, and nx where it was no integer. -/
def toInteger (f : Nat) (r : RMode) (v : FVal) : Int × FFlags :=
  let lo : Int := if f = 2 then -2 ^ 31 else 0
  let hi : Int := if f = 2 then 2 ^ 31 - 1 else 2 ^ 32 - 1
  match v with
  | .nan _ => (0, nv)
  | .inf neg => (if neg then lo else hi, nv)
  | .fin neg m e =>
    let x : Int := if neg then -(m : Int) else m
    let y := roundInt r x e
    if y < lo then (lo, nv) else if hi < y then (hi, nv)
    else (y, if y * ((2 ^ (-e).toNat : Nat) : Int) = x * ((2 ^ e.toNat : Nat) : Int) then 0 else nx)

end Sys2Proof.Machine

/-- R231 to R233 (derived): CVT, on operands that pass the checks and with a group that exists in every active lane, tags
its destination with the format and its kept scale; into formats 8 to 18 it leaves the results to flag sf2 and moves the
draw counters on by the draws taken, into the others it writes them at once. From F32, or a RAW register, into I32 and UI32 the
result of each lane is the number of R77. -/
def Obligations.Conversion : Prop :=
  (∀ (s : State) (c : Ctx) (d a : BitVec 7) (f : BitVec 5) (r : BitVec 2) (sv : BitVec 1) (g : BitVec 2),
    s.ctx? = some c → (Instr.cvt d a f r sv g).wellFormed = true →
    c.passes (cvtSpec c d a f r sv g).1 = true → (∀ l ∈ c.act, cvtGroupOk c a f g l = true) →
    (isNarrow f.toNat = true →
      c.Later (cvtSpec c d a f r sv g).1.writes (cvtSpec c d a f r sv g).2 (cvtDrawn c d a f r sv g)
        (exec (.cvt d a f r sv g) s)) ∧
    (isNarrow f.toNat = false →
      c.Plain (cvtSpec c d a f r sv g).1.writes (cvtSpec c d a f r sv g).2 (exec (.cvt d a f r sv g) s))) ∧
  (∀ (c : Ctx) (d a f l : Nat) (r : RMode) (sat : Bool), (c.w.fmtAt l a = 0 ∨ c.w.fmtAt l a = 1) → (f = 2 ∨ f = 3) →
    let y := toInteger f r (f32.decode (c.w.reg l a).toNat)
    BitVec.ofNat 32 (c.cvtLane d a f r sat 0 l).1 = BitVec.ofInt 32 y.1 ∧ (c.cvtLane d a f r sat 0 l).2.1 = y.2)

namespace Sys2Proof.Machine

/-- The tag instructions of R234: the field whose rows they tag, what they name besides, whether they read the old tag, and
the new tag in a lane (none where the scale would leave −128 to 127). -/
def tagRow (c : Ctx) : Instr → Option (BitVec 7 × List Nat × (Nat → Option (BitVec 16)))
  | .tagset d a => some (d, [a.toNat], fun _ => some (BitVec.ofNat 16 (c.w.reg c.first a.toNat).toNat))
  | .scaleset d sv => some (d, [], fun l =>
      some (BitVec.ofNat 16 ((c.w.row (c.w.rowOf l d.toNat)).tag.toNat / 2 ^ 8 * 2 ^ 8 + sv.toNat)))
  | .scaleadd d sv => some (d, [], fun l =>
      let t := (c.w.row (c.w.rowOf l d.toNat)).tag
      let n := sext t.toNat 8 + sv.toInt
      if -128 ≤ n ∧ n ≤ 127 then some (BitVec.ofNat 16 (t.toNat / 2 ^ 8 * 2 ^ 8 + wrap n 8)) else none)
  | .retag d f => some (d, [], fun l =>
      some (BitVec.ofNat 16 ((c.w.row (c.w.rowOf l d.toNat)).tag.toNat % 2 ^ 11 + f.toNat * 2 ^ 11)))
  | _ => none

/-- The writes of a tag instruction: the tag alone, each element as it stands. -/
def tagWritesOf (c : Ctx) (d : BitVec 7) (new : Nat → Option (BitVec 16)) : List RegW :=
  c.act.map (fun l =>
    { field := d.toNat, row := c.w.rowOf l d.toNat, lane := l, val := c.w.reg l d.toNat, tag := new l, pois := false })

/-- Whether a tag instruction passes its checks (R234, R392): the fields lie in the window, every active lane has a legal new
tag (I64 for an odd register is none where the instruction gives the format), no tag is split (a field of 32 or above in trap
mode splits none, R394), no poison is consumed and, in checking mode, the region allows the tags. -/
def tagPasses (c : Ctx) (i : Instr) (d : BitVec 7) (srcs : List Nat) (new : Nat → Option (BitVec 16)) : Bool :=
  passed (c.checkRegs (d.toNat :: srcs)) &&
    c.act.all (fun l => match new l with
      | some t => legalTag (match i with | .scaleset .. => 0 | .scaleadd .. => 0 | _ => d.toNat) t
      | none => false) &&
    ((c.w.mode && decide (32 ≤ d.toNat)) || passed (c.checkSplit (tagWritesOf c d new))) &&
    passed (c.checkPoison [] srcs []) &&
    passed (c.region ((match i with
        | .scaleadd _ _ => c.rowKeys [d.toNat]
        | _ => []) ++ srcs.map (fun f => c.w.rowOf c.first f))
      ((tagWritesOf c d new).map (fun x => (x.row, x.field))))

/-- R234: TAGSET, SCALESET, SCALEADD and RETAG, when they pass their checks, give the rows their new tags, change no element of
a live lane and nothing else, and go on. -/
def tagInstructionsRule : Prop :=
  ∀ (s : State) (c : Ctx) (i : Instr) (d : BitVec 7) (srcs : List Nat) (new : Nat → Option (BitVec 16)),
    s.ctx? = some c → tagRow c i = some (d, srcs, new) → tagPasses c i d srcs new = true →
    ∃ (v : Wave) (n : Nat), exec i s = .next (({ s with free := n } : State).setWave (v.advance c.r)) ∧
      Tagged c.w (tagWritesOf c d new) v ∧
      { v with
        rows := c.w.rows, regionReads := c.w.regionReads, regionWrites := c.w.regionWrites } = c.w

/-- R234: TAGGET writes the tag of v[a], zero-extended, with tag I32 in every active lane. -/
def tagReadRule : Prop :=
  ∀ (s : State) (c : Ctx) (d a : BitVec 7), s.ctx? = some c →
    let o : OpSpec :=
      { regs := [d.toNat, a.toNat]
        carry := [a.toNat]
        writes := c.act.map (fun l => c.w.put l d.toNat
          (BitVec.ofNat 32 (c.w.row (c.w.rowOf l a.toNat)).tag.toNat) (mkTag 2 0)) }
    c.passes o = true → c.Plain o.writes 0 (exec (.tagget d a) s)

end Sys2Proof.Machine

/-- R234: the instructions that set, scale and read tags act as the definitions above say. -/
def Obligations.Tags : Prop :=
  tagInstructionsRule ∧ tagReadRule

namespace Sys2Proof.Machine

/-- The lane that each data-moving cross-lane form takes its element from (R235). -/
def shuffleRow (c : Ctx) : Instr → Option (BitVec 7 × BitVec 7 × List Nat × (Nat → Nat))
  | .shfl d a b => some (d, a, [b.toNat], fun l => (c.w.reg l b.toNat).toNat % c.w.width)
  | .shflx d a m => some (d, a, [], fun l => Nat.xor l (m.toNat % c.w.width))
  | .shflup d a n => some (d, a, [], fun l => if n.toNat ≤ l then l - n.toNat else l)
  | .shfldn d a n => some (d, a, [], fun l => if l + n.toNat < c.w.width then l + n.toNat else l)
  | .bcast d a k => some (d, a, [], fun _ => k.toNat % c.w.width)
  | _ => none

/-- What a data-moving cross-lane form names and writes: the element of the source lane, whose row it reads there (R198), with
its poison, and operand a's tag as the receiving lane names it (where the lanes' windows differ, the model's choice: log entry
90). -/
def shuffleSpec (c : Ctx) (i : Instr) : Option OpSpec :=
  (shuffleRow c i).map (fun (d, a, idx, src) =>
    { regs := [d.toNat, a.toNat] ++ idx
      reads := idx
      carry := [a.toNat]
      laneCarry := c.act.map (fun l => (src l, a.toNat))
      writes := c.act.map (fun l =>
        { c.w.put l d.toNat (c.w.reg (src l) a.toNat) (c.w.tagAt l a.toNat) with
          pois := c.w.regPoison (src l) a.toNat }) })

/-- R235: the data-moving cross-lane forms, on operands that pass the checks, tag their destination and leave an operation on
flag sf2 that gives every active lane the element of its source lane. -/
def crossLaneMovesRule : Prop :=
  ∀ (s : State) (c : Ctx) (i : Instr) (o : OpSpec), s.ctx? = some c → shuffleSpec c i = some o → c.passes o = true →
    c.Later o.writes 0 id (exec i s)

/-- The sum of the elements of some lanes as an exact number. -/
def exactSum (c : Ctx) (a : Nat) (lanes : List Nat) : Int := (lanes.map (fun l => (c.w.reg l a).toInt)).sum

/-- What VOTE, FIRST, REDADD, SCANADD and the integer REDMIN and REDMAX name and write (R235). -/
def reduceSpec (c : Ctx) (i : Instr) : Option OpSpec :=
  let isSet := fun a l => c.w.reg l a != 0
  let int := fun (d a : BitVec 7) (f : Bool → Nat → Int) =>
    ({ regs := [d.toNat, a.toNat]
       data := [(a.toNat, [2, 3])]
       reads := [a.toNat]
       writes := c.act.map (fun l =>
         let fmt := c.w.operandFmt l [a.toNat] 2
         c.w.put l d.toNat (BitVec.ofInt 32 (f (fmt == 2) l)) (mkTag fmt 0)) } : OpSpec)
  match i with
  | .vote d a m =>
    if m = 0 then some
      { regs := [d.toNat, d.toNat + 1, a.toNat]
        pairs := [d.toNat]
        reads := [a.toNat]
        writes := c.act.flatMap (fun l =>
          pairWrites c.w l d.toNat (((c.act.filter (isSet a.toNat)).map (fun j => (2 ^ j : Nat))).sum : Nat)) }
    else some
      { regs := [d.toNat, a.toNat]
        reads := [a.toNat]
        writes := c.act.map (fun l => c.w.put l d.toNat
          (if (if m = 1 then c.act.any (isSet a.toNat) else if m = 2 then c.act.all (isSet a.toNat)
            else c.act.all (fun j => c.w.reg j a.toNat == c.w.reg c.first a.toNat)) then 1 else 0) (mkTag 2 0)) }
  | .first d a => some
      { regs := [d.toNat, a.toNat]
        reads := [a.toNat]
        writes := c.act.map (fun l => c.w.put l d.toNat
          (match c.act.filter (isSet a.toNat) with
            | j :: _ => BitVec.ofNat 32 j
            | [] => 0xFFFFFFFF) (mkTag 2 0)) }
  | .redadd d a => some (int d a (fun _ _ => exactSum c a.toNat c.act))
  | .scanadd d a => some (int d a (fun _ l => exactSum c a.toNat (c.act.filter (fun j => decide (j ≤ l)))))
  | _ => none

/-- R235: VOTE, FIRST, REDADD and SCANADD, on operands that pass the checks, tag their destination and leave an operation on
flag sf2 that writes the ballot pair, the vote, the lowest lane with a non-zero element (or all ones), or the sum modulo
2^32. -/
def crossLaneSumsRule : Prop :=
  ∀ (s : State) (c : Ctx) (i : Instr) (o : OpSpec), s.ctx? = some c → reduceSpec c i = some o → c.passes o = true →
    c.Later o.writes 0 id (exec i s)

/-- What REDMIN, REDMAX and REDFADD name, write and raise (R235, R236). -/
def foldSpec (c : Ctx) (i : Instr) : Option (OpSpec × FFlags) :=
  let ext := fun (isMax : Bool) (d a : BitVec 7) =>
    (({ regs := [d.toNat, a.toNat]
        data := [(a.toNat, [1, 2, 3])]
        reads := [a.toNat]
        writes := c.act.map (fun l =>
          let fmt := c.w.operandFmt l [a.toNat] 2
          c.w.put l d.toNat (c.extreme isMax a.toNat fmt).1 (mkTag fmt 0)) } : OpSpec),
     orFlags (c.act.map (fun l => (c.extreme isMax a.toNat (c.w.operandFmt l [a.toNat] 2)).2)))
  match i with
  | .redmin d a => some (ext false d a)
  | .redmax d a => some (ext true d a)
  | .redfadd d a =>
    let r := treeSum c.fpctl (fun j => if c.act.contains j then some (c.w.reg j a.toNat).toNat else none)
      (Nat.log2 c.w.width) 0
    some
      ({ regs := [d.toNat, a.toNat]
         data := [(a.toNat, [1])]
         reads := [a.toNat]
         writes := c.act.map (fun l => c.w.put l d.toNat (BitVec.ofNat 32 (r.1.getD 0))
           (mkTag (c.w.operandFmt l [a.toNat] 1) 0)) },
       orFlags (c.act.map (fun _ => r.2)))
  | _ => none

/-- R235 and R236 (derived): REDMIN, REDMAX and REDFADD, on operands that pass the checks, tag their destination and leave an
operation on flag sf2 that writes the extreme of the active lanes, or the sum by R236's tree, and raises the flags. -/
def crossLaneFoldsRule : Prop :=
  (∀ (s : State) (c : Ctx) (i : Instr) (o : OpSpec) (fl : FFlags), s.ctx? = some c → foldSpec c i = some (o, fl) →
    c.passes o = true → c.Later o.writes fl id (exec i s)) ∧
  (∀ (c : Ctx) (isMax : Bool) (a fmt : Nat), fmt ≠ 1 → c.act ≠ [] →
    let v := readAs (fmt == 2) (c.extreme isMax a fmt).1
    (∃ l ∈ c.act, v = readAs (fmt == 2) (c.w.reg l a)) ∧
    ∀ l ∈ c.act, if isMax then readAs (fmt == 2) (c.w.reg l a) ≤ v else v ≤ readAs (fmt == 2) (c.w.reg l a))

end Sys2Proof.Machine

/-- R235 and R236: the cross-lane instructions write what the definitions above say. -/
def Obligations.CrossLane : Prop :=
  crossLaneMovesRule ∧ crossLaneSumsRule ∧ crossLaneFoldsRule

namespace Sys2Proof.Machine

/-- What RAND and RANDF name and write (R241): the next draw, as a number or as its high 24 bits over 2^24. -/
def randSpec (c : Ctx) (i : Instr) : Option OpSpec :=
  let draw := fun l => drawWord c.w.seed (c.s.globalLane c.w l) (tgetD c.w.draw l 0)
  match i with
  | .rand d => some
      { regs := [d.toNat]
        writes := c.act.map (fun l => c.w.put l d.toNat (draw l) (mkTag 3 0)) }
  | .randf d => some
      { regs := [d.toNat]
        writes := c.act.map (fun l => c.w.put l d.toNat
          (BitVec.ofNat 32 (f32.round .rne false false ((draw l).toNat / 2 ^ 8) (-24)).1) (mkTag 1 0)) }
  | _ => none

/-- R241 and R83: RAND and RANDF, on operands that pass the checks, leave an operation on flag sf2 that writes one draw of
each active lane, and move each active lane's draw counter on by one. -/
def randomNumbersRule : Prop :=
  ∀ (s : State) (c : Ctx) (i : Instr) (o : OpSpec), s.ctx? = some c → randSpec c i = some o → c.passes o = true →
    c.Later o.writes 0
      (fun w => { w with draw := c.act.foldl (fun t l => tset t l (tgetD t l 0 + 1)) w.draw }) (exec i s)

/-- What EXPR names, writes and raises (R239): its operands are those that the recipe's tokens 0 to 3 read. -/
def exprSpec (c : Ctx) (d a b : BitVec 7) (n : BitVec 4) : OpSpec × FFlags :=
  let toks := recipeTokens (tgetD c.w.recipes n.toNat recipeI0)
  let fields := [a.toNat, a.toNat + 1, b.toNat, d.toNat]
  let used := dedup ((fields.zipIdx).filterMap (fun p => if toks.contains p.2 then some p.1 else none))
  let res := fun l => recipeRun c.fpctl (fields.map (fun f => (c.w.reg l f).toNat)) toks [] 0
  ({ regs := dedup [d.toNat, a.toNat, a.toNat + 1, b.toNat]
     data := used.map (fun f => (f, [1]))
     reads := used
     writes := c.act.map (fun l => c.w.put l d.toNat (BitVec.ofNat 32 ((res l).1.headD 0)) (mkTag 1 0)) },
   orFlags (c.act.map (fun l => (res l).2)))

/-- R238 and R239 (derived): EXPR, on operands that pass the checks, runs the recipe of its slot in every active lane and
writes the value left, with tag F32 and the flags; RECIPE puts a well-formed recipe word that is not poisoned into its slot,
and raises the illegal-instruction trap with reason 5 for a word that is not well formed. -/
def recipesRule : Prop :=
  (∀ (s : State) (c : Ctx) (d a b : BitVec 7) (n : BitVec 4), s.ctx? = some c →
    passed (c.check (exprSpec c d a b n).1) = true →
    passed (c.region (c.rowKeys (exprSpec c d a b n).1.reads ++ [4096 + n.toNat])
      ((exprSpec c d a b n).1.writes.map (fun x => (x.row, x.field)))) = true →
    c.Plain (exprSpec c d a b n).1.writes (exprSpec c d a b n).2 (exec (.expr d a b n) s)) ∧
  (∀ (s : State) (c : Ctx) (a : BitVec 7) (n : BitVec 4), s.ctx? = some c →
    recipeOk (c.w.kreg a.toNat) = true → passed (c.checkPoison [] [] [a.toNat]) = true →
    passed (c.region [2048 + a.toNat] [(4096 + n.toNat, n.toNat)]) = true →
    ∃ v : Wave, exec (.recipe a n) s = .next (s.setWave (v.advance c.r)) ∧
      tgetD v.recipes n.toNat recipeI0 = c.w.kreg a.toNat ∧
      (∀ m, m ≠ n.toNat → tgetD v.recipes m recipeI0 = tgetD c.w.recipes m recipeI0) ∧
      { v with
        recipes := c.w.recipes, regionReads := c.w.regionReads, regionWrites := c.w.regionWrites } = c.w) ∧
  (∀ (s : State) (c : Ctx) (a : BitVec 7) (n : BitVec 4), s.ctx? = some c → recipeOk (c.w.kreg a.toNat) = false →
    exec (.recipe a n) s = .next (c.trap (c.raiseAll 0 ((encode (.recipe a n)).toNat + 5 * 2 ^ 32))))

end Sys2Proof.Machine

/-- R239 to R241: draws and recipes act as the definitions above say. -/
def Obligations.RandomAndRecipes : Prop :=
  randomNumbersRule ∧ recipesRule

/-! ### Uniform instructions (R46, R202, R222, R223) -/

namespace Sys2Proof.Machine

/-- The rows of R223 on two k registers: the exact result before it is taken modulo 2^64, x and y read as signed or not as
the row says. -/
def kRow : Instr → Option (BitVec 7 × BitVec 7 × BitVec 7 × (DWord → DWord → Int))
  | .kadd d a b => some (d, a, b, fun x y => x.toInt + y.toInt)
  | .ksub d a b => some (d, a, b, fun x y => x.toInt - y.toInt)
  | .kmul d a b => some (d, a, b, fun x y => x.toInt * y.toInt)
  | .kand d a b => some (d, a, b, fun x y => ((x &&& y).toNat : Int))
  | .kor d a b => some (d, a, b, fun x y => ((x ||| y).toNat : Int))
  | .kxor d a b => some (d, a, b, fun x y => ((x ^^^ y).toNat : Int))
  | .kshl d a b => some (d, a, b, fun x y => (x.toNat : Int) * 2 ^ y.toNat)
  | .kshr d a b => some (d, a, b, fun x y => (x.toNat : Int) / 2 ^ y.toNat)
  | .ksar d a b => some (d, a, b, fun x y => x.toInt / 2 ^ y.toNat)
  | .kmin d a b => some (d, a, b, fun x y => Min.min x.toInt y.toInt)
  | .kmax d a b => some (d, a, b, fun x y => Max.max x.toInt y.toInt)
  | .kminu d a b => some (d, a, b, fun x y => Min.min (x.toNat : Int) y.toNat)
  | .kmaxu d a b => some (d, a, b, fun x y => Max.max (x.toNat : Int) y.toNat)
  | .kcmpeq d a b => some (d, a, b, fun x y => if x.toNat = y.toNat then 1 else 0)
  | .kcmplt d a b => some (d, a, b, fun x y => if x.toInt < y.toInt then 1 else 0)
  | .kcmpltu d a b => some (d, a, b, fun x y => if x.toNat < y.toNat then 1 else 0)
  | _ => none

/-- What a uniform instruction writes: the k register, the k registers read, and the value (R46, R222, R223). -/
def kSpec (c : Ctx) (i : Instr) : Option (BitVec 7 × List Nat × DWord) :=
  match i with
  | .kaddi d a imm => some (d, [a.toNat], BitVec.ofInt 64 ((c.w.kreg a.toNat).toInt + imm.toInt))
  | .kmovi d imm => some (d, [], BitVec.ofInt 64 imm.toInt)
  | .kmovhi d imm => some (d, [d.toNat], BitVec.ofNat 64 ((c.w.kreg d.toNat).toNat * 2 ^ 19 + imm.toNat))
  | .kmov d a => some (d, [a.toNat], c.w.kreg a.toNat)
  | _ => (kRow i).map (fun (d, a, b, f) =>
      (d, [a.toNat, b.toNat], BitVec.ofInt 64 (f (c.w.kreg a.toNat) (c.w.kreg b.toNat))))

end Sys2Proof.Machine

/-- R223, R46 and R222: every well-formed uniform instruction, when the k registers it reads are not poisoned and checking mode
allows the write, writes its result modulo 2^64 to its k register, clears that register's poison, changes no other part of
the machine and goes on. -/
def Obligations.UniformArithmetic : Prop :=
  ∀ (s : State) (c : Ctx) (i : Instr) (d : BitVec 7) (ks : List Nat) (v : DWord), s.ctx? = some c →
    i.wellFormed = true → kSpec c i = some (d, ks, v) → c.kPasses ks [d.toNat] = true →
    c.SetsK d.toNat v (exec i s)

namespace Sys2Proof.Machine

/-- R222: MOVVK, when its field lies in the window, the lowest active lane's element is not poisoned and checking mode allows
it, writes that element, zero-extended, to k[d], changes no other part of the machine and goes on. -/
def vectorToUniformRule : Prop :=
  ∀ (s : State) (c : Ctx) (d a : BitVec 7), s.ctx? = some c → (Instr.movvk d a).wellFormed = true →
    c.passes { regs := [a.toNat], first := [a.toNat], kwrites := [d.toNat] } = true →
    c.SetsK d.toNat (BitVec.ofNat 64 (c.w.reg c.first a.toNat).toNat) (exec (.movvk d a) s)

end Sys2Proof.Machine

/-- R45, R46, R202, R219, R220 and R222: comparisons, the immediate forms, SEL, the vector moves and MOVVK write what the
definitions above say. -/
def Obligations.CompareImmediateMove : Prop :=
  comparisonsRule ∧ immediateFormsRule ∧ selectAndMoveRule ∧ vectorToUniformRule

/-! ### The end of a run, control instructions and special registers (R46, R47, R179 to R184, R191, R203 to R216, R281, R398
to R408) -/

namespace Sys2Proof.Machine

/-- The outcome of a control instruction: the wave goes on with `next` as the address of each active lane (none: the next run),
and with the other changes that `u` makes to it; nothing else of the machine changes. -/
def Ctx.Goes (c : Ctx) (u : Wave) (next : Nat → Option Nat) (out : Host.Outcome State Fault Refusal) : Prop :=
  ∃ t, out = .next (c.s.setWave (({ u with target := t } : Wave).advance c.r)) ∧
    ∀ l ∈ c.act, tget t l = (next l).map (BitVec.ofNat 32)

/-- A wave with the sets of checking mode as they were. -/
def Wave.sameSets (v w : Wave) : Wave := { v with regionReads := w.regionReads, regionWrites := w.regionWrites }

/-- R191 and R39: a word that is not the last of its run leaves the wave at the next word; at the last word, when no loop entry
ends there and the wave is not in trap mode, every live active lane goes to the address that a control instruction gave it or
falls through to the offset after the run, every other lane stays where it is, and the wave issues no run. In trap mode the same
holds while a live lane is not parked; when every live lane is, the wave leaves the handler, and its lanes go where R399 sends
them. -/
def endOfRunRule : Prop :=
  ∀ (w : Wave) (r : RunCtx),
    (w.pc ≠ r.last → (w.advance r).pc = w.pc + 4 ∧ (w.advance r).run = w.run ∧ (w.advance r).vpc = w.vpc) ∧
    (w.pc = r.last → w.loopsAt r.last = [] → w.mode = false →
      (w.advance r).run = none ∧
      (∀ l, l ∈ lanesOf r.active → w.isLive l = true →
        (w.advance r).vpcOf l = (tget w.target l).getD (BitVec.ofNat 32 (r.last + 4))) ∧
      (∀ l, (l ∉ lanesOf r.active ∨ w.isLive l = false) → (w.advance r).vpcOf l = w.vpcOf l)) ∧
    (w.pc = r.last → w.loopsAt r.last = [] → w.mode = true → r.last + 4 < 2 ^ 25 → (∀ l, tget w.target l ≠ some exited) →
      (w.advance r).run = none ∧
      (w.unparked ≠ [] → (w.advance r).mode = true ∧
        (∀ l, l ∈ lanesOf r.active → w.isLive l = true →
          (w.advance r).vpcOf l = (tget w.target l).getD (BitVec.ofNat 32 (r.last + 4))) ∧
        (∀ l, (l ∉ lanesOf r.active ∨ w.isLive l = false) → (w.advance r).vpcOf l = w.vpcOf l)) ∧
      (w.unparked = [] → w.live ≠ [] → ∀ f, w.frame = some f → (w.advance r).mode = false ∧
        ∀ l ∈ w.live, (w.advance r).vpcOf l =
          if w.parkMode.getLsbD l = true ∧ w.trapcause ≠ 15 ∧ w.traplanes.getLsbD l = true then BitVec.ofNat 32 (f.offset + 4)
          else tgetD f.curVpc l exited))

/-- R182: at the last word of a run, outside trap mode, the loop entries that end there are processed from the one set last on:
a counter falls by one; one that reaches 0 makes its entry inactive and the next entry is processed the same way; at the first
that does not, the lanes that fall through go back to its entry's start, it stays active and the entries after it stay as they
are. When every counter has reached 0 the lanes fall through. -/
def loopBackRule : Prop :=
  ∀ (w : Wave) (r : RunCtx) (done : List Nat) (k : Nat) (rest : List Nat) (e : LoopEntry), w.pc = r.last → w.mode = false →
    w.loopsAt r.last = done ++ k :: rest → (done ++ k :: rest).Nodup → (∀ j ∈ done, tgetD w.lc j 0 = 1) →
    tget w.loops k = some e →
    let v := w.advance r
    let n := tgetD w.lc k 0 - 1
    tgetD v.lc k 0 = n ∧
    (∀ j ∈ done, tgetD v.lc j 0 = 0 ∧ ∀ x, tget w.loops j = some x → tget v.loops j = some { x with active := false }) ∧
    (n ≠ 0 → tget v.loops k = some e ∧ (∀ j ∈ rest, tget v.lc j = tget w.lc j ∧ tget v.loops j = tget w.loops j) ∧
      ∀ l, l ∈ lanesOf r.active → w.isLive l = true → tget w.target l = none → v.vpcOf l = BitVec.ofNat 32 e.start) ∧
    (n = 0 → tget v.loops k = some { e with active := false } ∧
      (rest = [] → ∀ l, l ∈ lanesOf r.active → w.isLive l = true → tget w.target l = none →
        v.vpcOf l = BitVec.ofNat 32 (r.last + 4)))

end Sys2Proof.Machine

/-- R182 and R191: the end of a run and the loop back act as the definitions above say. -/
def Obligations.RunEnds : Prop :=
  endOfRunRule ∧ loopBackRule

namespace Sys2Proof.Machine

/-- The branches of R209: the registers tested, the k registers tested, the offset in blocks, and which lanes take it. -/
def branchRow (c : Ctx) : Instr → Option (List Nat × List Nat × BitVec 19 × (Nat → Bool))
  | .br off => some ([], [], off, fun _ => true)
  | .brz a off => some ([a.toNat], [], off, fun l => c.w.reg l a.toNat == 0)
  | .brnz a off => some ([a.toNat], [], off, fun l => c.w.reg l a.toNat != 0)
  | .kbrz a off => some ([], [a.toNat], off, fun _ => c.w.kreg a.toNat == 0)
  | .kbrnz a off => some ([], [a.toNat], off, fun _ => c.w.kreg a.toNat != 0)
  | _ => none

/-- The target of a branch at an offset (R47): the block of the branch plus the signed number of blocks. -/
def blockTarget (pc : Nat) (off : BitVec 19) : Int := ((pc / 64 : Nat) + off.toInt) * 64

/-- R209 and R47: a branch, when its registers pass the checks, sends every active lane that takes it to the target, which lies
in the code, and lets the others fall through; a target outside the code raises the alignment trap in the lanes that take it,
unless none does. -/
def branchesRule : Prop :=
  ∀ (s : State) (c : Ctx) (i : Instr) (regs ks : List Nat) (off : BitVec 19) (taken : Nat → Bool), s.ctx? = some c →
    branchRow c i = some (regs, ks, off, taken) →
    passed (c.checkRegs regs) = true → passed (c.checkPoison regs [] ks) = true →
    let t := blockTarget c.w.pc off
    ((0 ≤ t ∧ t < c.codeBytes ∨ ∀ l ∈ c.act, taken l = false) →
      ∃ u : Wave, u.sameSets c.w = c.w ∧ c.Goes u (fun l => if taken l then some t.toNat else none) (exec i s)) ∧
    ((t < 0 ∨ (c.codeBytes : Int) ≤ t) → (∃ l ∈ c.act, taken l = true) →
      exec i s = .next (c.trap (c.raiseIn 3 (c.act.filter taken) (t % 2 ^ 64).toNat)))

/-- The loop instructions of R181: counter, count, length in words and the k register that holds the count. -/
def loopRow (c : Ctx) : Instr → Option (BitVec 2 × Nat × Nat × List Nat)
  | .loopi k n l => some (k, n.toNat, l.toNat + 1, [])
  | .loop k a l => some (k, (c.w.kreg a.toNat).toNat % 2 ^ 32, l.toNat + 1, [a.toNat])
  | _ => none

/-- R181: LOOPI and LOOP outside trap mode, with a body that lies in the code and a count register that is not poisoned: a count
of 0 makes the entry inactive and sends the lanes past the body; any other count sets the counter and the entry (active, start P
+ 4, end P + 4 × length) as the one set last, and the lanes fall through into the body. In trap mode it is an illegal
instruction with reason 7. -/
def loopsRule : Prop :=
  ∀ (s : State) (c : Ctx) (i : Instr) (k : BitVec 2) (n len : Nat) (ks : List Nat), s.ctx? = some c →
    loopRow c i = some (k, n, len, ks) →
    (c.w.mode = true → exec i s = .next (c.trap (c.raiseAll 0 ((encode i).toNat + 7 * 2 ^ 32)))) ∧
    (c.w.mode = false → passed (c.checkPoison [] [] ks) = true → c.w.pc + 4 + 4 * len ≤ c.codeBytes →
      ∃ u : Wave, ({ u.sameSets c.w with lc := c.w.lc, loops := c.w.loops } : Wave) = c.w ∧
        (∀ j, j ≠ k.toNat → tget u.loops j = tget c.w.loops j ∧ tget u.lc j = tget c.w.lc j) ∧
        (n = 0 → u.lc = c.w.lc ∧ (∀ e, tget u.loops k.toNat = some e → e.active = false) ∧
          c.Goes u (fun _ => some (c.w.pc + 4 * len + 4)) (exec i s)) ∧
        (n ≠ 0 → tget u.lc k.toNat = some (BitVec.ofNat 32 n) ∧
          (∃ e, tget u.loops k.toNat = some e ∧ e.active = true ∧ e.start = c.w.pc + 4 ∧ e.stop = c.w.pc + 4 * len ∧
            ∀ j x, j ≠ k.toNat → tget c.w.loops j = some x → x.seq < e.seq) ∧
          c.Goes u (fun _ => none) (exec i s)))

end Sys2Proof.Machine

/-- R181, R209: branches and the loop instructions act as the definitions above say. -/
def Obligations.BranchesAndLoops : Prop :=
  branchesRule ∧ loopsRule

namespace Sys2Proof.Machine

/-- Whether R206 lets a window move pass: the new bases of the active lanes, all live lanes within the allotment, and the new
windows resident. -/
def moveOk (c : Ctx) (base : Nat → Int) : Bool :=
  let bases := c.w.live.map (fun l => if c.act.contains l then base l else ((tgetD c.w.wbase l 0 : Nat) : Int))
  c.act.all (fun l => decide (0 ≤ base l) && decide (base l + c.w.win ≤ 2 ^ 30) && decide (base l + c.w.win ≤ c.w.wtop) &&
    decide ((c.w.wtop : Int) ≤ base l + c.w.allot)) &&
  bases.all (fun a => bases.all (fun b => decide (a + c.w.win - b ≤ c.w.allot))) && decide (c.w.win ≤ c.w.allot)

/-- The calls of R211: the slide, the register of CALLV and each lane's target. -/
def callRow (c : Ctx) : Instr → Option (BitVec 7 × List Nat × (Nat → Int))
  | .call n off => some (n, [], fun _ => blockTarget c.w.pc off)
  | .callv a n => some (n, [a.toNat], fun l => ((c.w.reg l a.toNat).toNat : Int))
  | _ => none

/-- R210 and R211: CALL and CALLV outside trap mode, with targets that are multiples of 64 inside the code and window moves that
R206 lets pass: every active lane's window base rises by the slide, the link word (slide and return offset) stands in stack
position w′ − 1 of each with the row's tag unchanged, no other element of a live lane changes, the latent bit of sr.errstat
falls only with the last unconsumed poison (R420), and the lane goes to its target. -/
def callsRule : Prop :=
  ∀ (s : State) (c : Ctx) (i : Instr) (n : BitVec 7) (regs : List Nat) (target : Nat → Int), s.ctx? = some c →
    i.wellFormed = true → callRow c i = some (n, regs, target) → c.w.mode = false →
    passed (c.checkRegs regs) = true → passed (c.checkPoison regs [] []) = true →
    passed (c.region (c.rowKeys regs)
      (c.act.map (fun l => ((tgetD c.w.wbase l 0 + n.toNat - 1) % c.w.allot, n.toNat - 1)))) = true →
    (∀ l ∈ c.act, target l % 64 = 0 ∧ 0 ≤ target l ∧ target l < c.codeBytes) →
    moveOk c (fun l => ((tgetD c.w.wbase l 0 + n.toNat : Nat) : Int)) = true →
    ∃ u : Wave, c.Goes u (fun l => some (target l).toNat) (exec i s) ∧
      ({ u.sameSets c.w with rows := c.w.rows, wbase := c.w.wbase, errstat := c.w.errstat } : Wave) = c.w ∧
      Latent c.w false u ∧
      (∀ l ∈ c.act, tgetD u.wbase l 0 = tgetD c.w.wbase l 0 + n.toNat ∧
        u.elem ((tgetD c.w.wbase l 0 + n.toNat - 1) % c.w.allot) l =
          BitVec.ofNat 32 (n.toNat * 2 ^ 25 + (c.w.pc + 4))) ∧
      (∀ l, l ∉ c.act → tget u.wbase l = tget c.w.wbase l) ∧
      (∀ r, (u.row r).tag = (c.w.row r).tag) ∧
      (∀ r l, (l ∈ c.act → r ≠ (tgetD c.w.wbase l 0 + n.toNat - 1) % c.w.allot) → u.elem r l = c.w.elem r l)

/-- R212: RET outside trap mode, when every active lane's link position is resident and not poisoned, its link is a whole
one (slide not 0, return offset a multiple of 4 inside the code) and R206 lets the window moves pass: every active lane's
window base falls by the link's slide and the lane goes to the return offset; no register changes. -/
def returnsRule : Prop :=
  ∀ (s : State) (c : Ctx), s.ctx? = some c → c.w.mode = false →
    let base := fun l => tgetD c.w.wbase l 0
    let link := fun l => (c.w.elem ((base l - 1) % c.w.allot) l).toNat
    (∀ l ∈ c.act, 0 < base l ∧ c.w.wtop ≤ base l - 1 + c.w.allot ∧
      (c.w.row ((base l - 1) % c.w.allot)).poison.getLsbD l = false ∧ link l / 2 ^ 25 ≠ 0 ∧ link l % 4 = 0 ∧
      link l % 2 ^ 25 < c.codeBytes) →
    moveOk c (fun l => (base l : Int) - (link l / 2 ^ 25 : Nat)) = true →
    ∃ u : Wave, c.Goes u (fun l => some (link l % 2 ^ 25)) (exec .ret s) ∧
      ({ u.sameSets c.w with wbase := c.w.wbase } : Wave) = c.w ∧
      (∀ l ∈ c.act, ((tgetD u.wbase l 0 : Nat) : Int) = base l - (link l / 2 ^ 25 : Nat)) ∧
      (∀ l, l ∉ c.act → tget u.wbase l = tget c.w.wbase l)

end Sys2Proof.Machine

/-- R210 to R212: calls and returns act as the definitions above say. -/
def Obligations.CallsAndReturns : Prop :=
  callsRule ∧ returnsRule

namespace Sys2Proof.Machine

/-- R213: JMPV, when its register passes the checks and every active lane's element is a multiple of 64 inside the code, sends
each lane to its element; WSLIDE outside trap mode, when R206 lets the moves pass, adds its signed slide to every active lane's
window base. No register changes. -/
def jumpAndSlideRule : Prop :=
  ∀ (s : State) (c : Ctx), s.ctx? = some c →
    (∀ a : BitVec 7, passed (c.checkRegs [a.toNat]) = true → passed (c.checkPoison [a.toNat] [] []) = true →
      (∀ l ∈ c.act, (c.w.reg l a.toNat).toNat % 64 = 0 ∧ (c.w.reg l a.toNat).toNat < c.codeBytes) →
      ∃ u : Wave, u.sameSets c.w = c.w ∧
        c.Goes u (fun l => some (c.w.reg l a.toNat).toNat) (exec (.jmpv a) s)) ∧
    (∀ sv : BitVec 7, c.w.mode = false →
      moveOk c (fun l => ((tgetD c.w.wbase l 0 : Nat) : Int) + sv.toInt) = true →
      ∃ u : Wave, c.Goes u (fun _ => none) (exec (.wslide sv) s) ∧ ({ u with wbase := c.w.wbase } : Wave) = c.w ∧
        (∀ l ∈ c.act, ((tgetD u.wbase l 0 : Nat) : Int) = (tgetD c.w.wbase l 0 : Nat) + sv.toInt) ∧
        (∀ l, l ∉ c.act → tget u.wbase l = tget c.w.wbase l))

/-- R206 (checks 1 and 4) and R391: a WSLIDE outside trap mode whose new base is negative in some active lane takes the fill
trap with reason 2 and position 0 in those lanes. -/
def windowUnderflowRule : Prop :=
  ∀ (s : State) (c : Ctx) (sv : BitVec 7), s.ctx? = some c → c.w.mode = false →
    (∃ l ∈ c.act, ((tgetD c.w.wbase l 0 : Nat) : Int) + sv.toInt < 0) →
    ∃ e, exec (.wslide sv) s = .next (c.trap e) ∧ e.cause = 7 ∧ e.info = 2#64 <<< 30 ∧
      e.lanes = maskOf (c.act.filter (fun l => decide (((tgetD c.w.wbase l 0 : Nat) : Int) + sv.toInt < 0)))

end Sys2Proof.Machine

/-- R206, R213: JMPV, WSLIDE and the fill trap act as the definitions above say. -/
def Obligations.WindowMoves : Prop :=
  jumpAndSlideRule ∧ windowUnderflowRule

/-- R214 to R216, R179, R180, R281 and R166: EXIT takes the active lanes out of the live ones and every other lane keeps its
address; YIELD waits for the next clk outside deterministic mode; SLEEP waits for count × 16 clk, and SLEEP 0 is a YIELD outside
deterministic mode and no wait in it; NOP waits for nothing; WAITF waits for the named flags and WAITC until the class's
counter is at most n. In deterministic mode EXIT and YIELD give up the logical core. None of them changes a register. -/
def Obligations.ExitAndWaits : Prop :=
  (∀ (s : State) (c : Ctx), s.ctx? = some c →
    let now := s.clkOf c.w
    let det := s.isDet c.w.launch
    (∃ x, c.Goes { c.w with vpc := setLanes c.w.vpc c.act exited } (fun _ => none) (.next x) ∧
      exec .exit s = .next (x.yieldTurn c.w)) ∧
    (∃ x, c.Goes (if det then c.w else { c.w with
        wait := .yield (now + 1)
        ready := now + 1
        raised := false }) (fun _ => none) (.next x) ∧
      exec .yield s = .next (x.yieldTurn c.w)) ∧
    (∀ n : BitVec 14, c.Goes (if n = 0 ∧ det = true then c.w else { c.w with
        wait := if n = 0 then .yield (now + 1) else .sleep (now + n.toNat * 16)
        ready := if n = 0 then now + 1 else now + n.toNat * 16
        raised := false }) (fun _ => none) (exec (.sleep n) s)) ∧
    exec .nop s = .next (s.setWave (c.w.advance c.r)) ∧
    (∀ (m : BitVec 7) (m2 : BitVec 5), c.Goes { c.w with
        wait := if m = 0 ∧ m2 = 0 then .none else .flags (BitVec.ofNat 12 (m.toNat + m2.toNat * 2 ^ 7)) }
      (fun _ => none) (exec (.waitf m m2) s)) ∧
    (∀ (n : BitVec 7) (k : BitVec 3), c.Goes { c.w with
        wait := if s.engCount c.w.uid k.toNat ≤ n.toNat then .none else .counter k.toNat n.toNat }
      (fun _ => none) (exec (.waitc n k) s))) ∧
  (∀ (w : Wave) (lanes : List Nat) (l : Nat),
    (l ∈ lanes → ({ w with vpc := setLanes w.vpc lanes exited } : Wave).isLive l = false) ∧
    (l ∉ lanes → ({ w with vpc := setLanes w.vpc lanes exited } : Wave).vpcOf l = w.vpcOf l))

namespace Sys2Proof.Machine

/-- The value of a special register in a lane, as the table of R405 gives it; sr.trapvpc is left out here. -/
def srValue (c : Ctx) (n l : Nat) : Nat :=
  [l, c.w.idx, if c.w.accepts = [] then c.s.teamIndex c.w else 2 ^ 32 - 1,
   match c.launch? with
   | some x => x.gridTeams
   | none => 0,
   c.w.lcore, c.w.lcore / 16, c.w.tag.toNat, c.w.fpctl.toNat, c.w.fpflags.toNat, c.w.trapcause.toNat,
   c.w.traplanes.toNat, c.w.trapinfo.toNat, tgetD c.w.wbase l 0, c.w.wtop, tgetD c.w.hbase l 0,
   match c.w.frame with
   | some f => (tgetD f.curVpc l exited).toNat
   | none => 0,
   c.w.seed.toNat, c.s.ns, c.w.errstat.toNat, (tgetD c.w.draw l 0).toNat].getD n 0

/-- What a read of a value of the machine names and writes (R406, R408): d with tag UI32, or the pair d, d + 1 with tag I64. -/
def readSpec (c : Ctx) (d : Nat) (wide : Bool) (v : Nat → Nat) : OpSpec :=
  { regs := if wide then [d, d + 1] else [d]
    pairs := if wide then [d] else []
    writes := c.act.flatMap (fun l =>
      if wide then pairWrites c.w l d (v l) else [c.w.put l d (BitVec.ofNat 32 (v l)) (mkTag 3 0)]) }

/-- R405, R406 and R408: GETSR of every special register (sr.trapvpc once the wave has taken a trap), PERF of its items 0 to 3
and CLOCK, on operands that pass the checks, write the value in every active lane, leave everything else and go on; GETSR of
sr.trapvpc before any trap and PERF of the caches' counts do the same with a value that nothing constrains (log entries 3 and
8). -/
def specialRegisterReadsRule : Prop :=
  ∀ (s : State) (c : Ctx), s.ctx? = some c →
    (∀ d a : BitVec 7, a.toNat < 20 → (a.toNat = 15 → c.w.frame ≠ none) →
      let o := readSpec c d.toNat ([10, 11, 16, 17, 18].contains a.toNat) (srValue c a.toNat)
      c.passes o = true → c.Plain o.writes 0 (exec (.getsr d a) s)) ∧
    (∀ d n : BitVec 7, n.toNat < 4 →
      let o := readSpec c d.toNat true (fun _ =>
        [c.w.issued, c.w.runs, c.w.stallClk, ((s.clkOf c.w : Int) - c.w.startClk).toNat].getD n.toNat 0)
      c.passes o = true → c.Plain o.writes 0 (exec (.perf d n) s)) ∧
    (∀ d : BitVec 7,
      let o := readSpec c d.toNat true (fun _ => s.clkOf c.w)
      c.passes o = true → c.Plain o.writes 0 (exec (.clock d) s)) ∧
    (∀ d : BitVec 7, c.w.frame = none → ∃ v : Nat → Nat,
      let o := readSpec c d.toNat false v
      c.passes o = true → c.Plain o.writes 0 (exec (.getsr d 15) s)) ∧
    (∀ d n : BitVec 7, n.toNat = 4 ∨ n.toNat = 5 → ∃ v : Nat,
      let o := readSpec c d.toNat true (fun _ => v)
      c.passes o = true → c.Plain o.writes 0 (exec (.perf d n) s))

/-- The outcome of an effect instruction that changes its wave to `u` and nothing else: the run that follows must open a region
(R50, R55). -/
def Ctx.Effect (c : Ctx) (u : Wave) (out : Host.Outcome State Fault Refusal) : Prop :=
  ∃ v : Wave, v.sameSets u = u ∧ out = .next (c.s.setWave { v.advance c.r with afterEffect := true })

/-- R406, R67, R69 and R420: SETSR of sr.fpctl, sr.fpflags or sr.errstat, when its source passes the checks, takes the value of
the lowest active lane with the reserved bits zero and changes nothing else; R394 and R395: SETSR of sr.hbase in trap mode sets
each active lane's base from its own element, and SETSR of sr.hbase or sr.wtop outside trap mode is an illegal instruction with
reason 6. -/
def specialRegisterWritesRule : Prop :=
  ∀ (s : State) (c : Ctx) (d a : BitVec 7), s.ctx? = some c →
    let x := (c.w.reg c.first a.toNat).toNat
    (d.toNat = 7 → passed (c.checkRegs [a.toNat]) = true → passed (c.checkPoison [] [a.toNat] []) = true →
      c.Effect { c.w with fpctl := BitVec.ofNat 32 (x % 8) } (exec (.setsr d a) s)) ∧
    (d.toNat = 8 → passed (c.checkRegs [a.toNat]) = true → passed (c.checkPoison [] [a.toNat] []) = true →
      c.Effect { c.w with fpflags := BitVec.ofNat 32 (x % 32) } (exec (.setsr d a) s)) ∧
    (d.toNat = 18 → passed (c.checkRegs [a.toNat, a.toNat + 1]) = true → a.toNat % 2 = 0 →
      passed (c.checkPoison [] [a.toNat, a.toNat + 1] []) = true →
      c.Effect { c.w with errstat := BitVec.ofNat 64 (c.w.pair c.first a.toNat) &&& 0xFFFF00000000FF0F#64 }
        (exec (.setsr d a) s)) ∧
    (d.toNat = 14 → c.w.mode = true → passed (c.checkRegs [a.toNat]) = true →
      passed (c.checkPoison [a.toNat] [] []) = true →
      ∃ u : Wave, ({ u with hbase := c.w.hbase } : Wave) = c.w ∧
        (∀ l ∈ c.act, tgetD u.hbase l 0 = (c.w.reg l a.toNat).toNat) ∧
        (∀ l, l ∉ c.act → tget u.hbase l = tget c.w.hbase l) ∧ c.Effect u (exec (.setsr d a) s)) ∧
    (d.toNat = 13 ∨ d.toNat = 14 → c.w.mode = false →
      exec (.setsr d a) s = .next (c.trap (c.raiseAll 0 ((encode (.setsr d a)).toNat + 6 * 2 ^ 32))))

/-- R207 and R392: SETSR of sr.wtop in trap mode, its field in the window: a value below the allotment, or one that leaves a
needed position outside value − allotment to value − 1, is a fault inside the handler with cause 0 and reason 8, whether the
source is poisoned or not; any other value, of a source that is not poisoned, becomes sr.wtop, every element at a position that
stays resident keeps its value and tag, every row that becomes resident has tag 0x0000, and the latent bit of sr.errstat falls
only with the last unconsumed poison (R420). -/
def windowTopWriteRule : Prop :=
  ∀ (s : State) (c : Ctx) (d a : BitVec 7), s.ctx? = some c → d.toNat = 13 → c.w.mode = true →
    passed (c.checkRegs [a.toNat]) = true →
    let v := (c.w.reg c.first a.toNat).toNat
    let fits := fun (lo hi : Int) => (v : Int) ≤ lo + c.w.allot ∧ hi ≤ v
    let ok := c.w.allot ≤ v ∧ ∀ x ∈ c.w.needed, fits x.2.1 x.2.2
    (¬ok → exec (.setsr d a) s = .next (c.trap (c.raiseAll 0 ((encode (.setsr d a)).toNat + 8 * 2 ^ 32)))) ∧
    (ok → passed (c.checkPoison [] [a.toNat] []) = true → 0 < c.w.allot → c.w.allot ≤ c.w.wtop →
      ∃ (u : Wave) (n : Nat), exec (.setsr d a) s =
          .next (({ s with free := n } : State).setWave { u.advance c.r with afterEffect := true }) ∧
        ({ u.sameSets c.w with rows := c.w.rows, wtop := c.w.wtop, errstat := c.w.errstat } : Wave) = c.w ∧ u.wtop = v ∧
        Latent c.w false u ∧
        (∀ p, v - c.w.allot ≤ p → p < v → c.w.resident p = true → u.row (p % c.w.allot) = c.w.row (p % c.w.allot)) ∧
        (∀ p, v - c.w.allot ≤ p → p < v → c.w.resident p = false → (u.row (p % c.w.allot)).tag = 0))

end Sys2Proof.Machine

/-- R207, R405 to R408: GETSR, SETSR, CLOCK and PERF act as the definitions above say. -/
def Obligations.SpecialRegisters : Prop :=
  specialRegisterReadsRule ∧ specialRegisterWritesRule ∧ windowTopWriteRule

namespace Sys2Proof.Machine

/-- R407 and R411: CACHE, on an address pair that passes the checks (none for L1ALL), changes no memory, no register and nothing
of another core and goes on: L1EV and L1ALL drop failed copies of the core's L1, L1ALL all of them, and L2WB and L2EV
nothing. -/
def cacheHintsRule : Prop :=
  ∀ (s : State) (c : Ctx) (a : BitVec 7) (op : BitVec 2), s.ctx? = some c →
    let fs := if op = 3 then [] else [a.toNat, a.toNat + 1]
    passed (c.check { regs := fs, pairs := if op = 3 then [] else [a.toNat], reads := fs }) = true →
    ∃ (u : Wave) (kept : List (Nat × Nat)), u.sameSets c.w = c.w ∧
      exec (.cache a op) s = .next (({ s with badCopies := kept } : State).setWave (u.advance c.r)) ∧
      (∀ x ∈ kept, x ∈ s.badCopies) ∧ (∀ x ∈ s.badCopies, x.1 ≠ c.w.pcore → x ∈ kept) ∧
      (op = 3 → ∀ x ∈ kept, x.1 ≠ c.w.pcore) ∧ (op = 1 ∨ op = 2 → kept = s.badCopies)

/-! ### Traps and handlers (R391 to R400) -/

/-- R393: a trap with a handler (a table entry that is read, is not poisoned and is not 0xFFFFFFFF, and for a spill or fill a
spill area) enters it: the frame holds the lanes' addresses, the region entry record, the header, the offset and sr.fpctl, and
what the interrupted code waits for; sr.trapcause, sr.traplanes and sr.trapinfo hold the trap; sr.fpctl is 0; every live lane
goes to the handler, its sr.hbase becomes its sr.wbase, and every exited lane stays exited; no lane is parked; the wave is in
trap mode between runs and waits for nothing, its next run ready from now on (R186); no register row, no k register and nothing
of the machine outside the wave changes, but that the line of the entry is converted where it has a COMMITTED version (R149). -/
def trapEntryRule : Prop :=
  ∀ (s : State) (w : Wave) (t : Trap) (l : Launch) (x : Xlat) (h : Nat), s.launch? w.launch = some l → l.handlerAddr ≠ 0 →
    (t.cause = 6 ∨ t.cause = 7 → w.spill ≠ none) →
    s.translateFor w.cancelled l.domain (l.handlerAddr + 4 * t.cause) .read = .ok x → s.anyPoison w.tag x.ver x.key 4 = false →
    h = s.readNat w.tag x.ver x.key 4 → h ≠ 0xFFFFFFFF →
    ∃ u : Wave, s.enterTrap w t = (s.convertAt [(0, x.key, 4)]).setWave u ∧
      (∃ f, u.frame = some f ∧ f.curVpc = w.vpc ∧ f.entry = w.region ∧ f.header = t.header ∧ f.offset = t.offset ∧
        f.fpctl = w.fpctl ∧ f.run = t.run ∧ f.needs = t.needs ∧ f.reads = w.regionReads ∧ f.writes = w.regionWrites ∧
        f.serial = w.regionSerial ∧ f.wait = w.wait ∧ f.fp = w.fpPending) ∧
      u.trapcause = BitVec.ofNat 32 t.cause ∧ u.traplanes = t.lanes ∧ u.trapinfo = t.info ∧ u.fpctl = 0 ∧
      u.mode = true ∧ u.run = none ∧ u.trap = none ∧ u.parked = 0 ∧ u.wait = .none ∧ u.fpPending = [] ∧
      u.ready = s.clkOf w ∧ u.raised = false ∧
      (∀ i ∈ w.live, u.vpcOf i = BitVec.ofNat 32 h ∧ tget u.hbase i = some (tgetD w.wbase i 0)) ∧
      (∀ i, i ∉ w.live → u.vpcOf i = w.vpcOf i ∧ tget u.hbase i = tget w.hbase i) ∧
      { u with
        frame := w.frame
        trapcause := w.trapcause
        traplanes := w.traplanes
        trapinfo := w.trapinfo
        fpctl := w.fpctl
        mode := w.mode
        run := w.run
        trap := w.trap
        parked := w.parked
        parkMode := w.parkMode
        vpc := w.vpc
        hbase := w.hbase
        afterEffect := w.afterEffect
        reached := w.reached
        cancelled := w.cancelled
        faultWait := w.faultWait
        wait := w.wait
        fpPending := w.fpPending
        laterRegion := w.laterRegion
        ready := w.ready
        raised := w.raised
        taken := w.taken } = w

end Sys2Proof.Machine

/-- R398, R393 and R395: TRAP outside trap mode raises cause 32 + n with n as its record in the active lanes, whose addresses
become its offset; the handler is entered at once when no flag has an operation attached, and the trap waits for the flags
otherwise. TRAP, CALL, CALLV, RET and WSLIDE in trap mode are double faults with inner cause 0 and reason 7, and RFT outside
trap mode is an illegal instruction with reason 6. -/
def Obligations.SoftwareTraps : Prop :=
  ∀ (s : State) (c : Ctx), s.ctx? = some c →
    let at_ : Wave := { c.w with vpc := setLanes c.w.vpc c.act (BitVec.ofNat 32 c.w.pc), cancelled := [], run := none }
    let t : Nat → Trap := fun n =>
      { cause := 32 + n
        lanes := maskOf c.act
        info := BitVec.ofNat 64 n
        offset := c.w.pc
        atHeader := false
        header := c.r.word
        run := some c.r
        needs := [] }
    let inner : Instr → State := fun i =>
      c.s.doubleFault at_ 0 (BitVec.ofNat 64 ((encode i).toNat + 7 * 2 ^ 32)) c.w.pc
    let raised : Nat → Wave := fun n =>
      { at_ with
        trap := some (t n)
        stall := none }
    (∀ n : BitVec 7, c.w.mode = false → (∀ p ∈ c.w.pend, p.flag = none) →
      exec (.trap n) s = .next (s.enterTrap (raised n.toNat) (t n.toNat))) ∧
    (∀ n : BitVec 7, c.w.mode = false → (∃ p ∈ c.w.pend, p.flag ≠ none) →
      exec (.trap n) s = .next (s.setWave (raised n.toNat))) ∧
    (c.w.mode = true →
      (∀ n, exec (.trap n) s = .next (inner (.trap n))) ∧ (∀ n off, exec (.call n off) s = .next (inner (.call n off))) ∧
      (∀ a n, exec (.callv a n) s = .next (inner (.callv a n))) ∧ exec .ret s = .next (inner .ret) ∧
      (∀ sv, exec (.wslide sv) s = .next (inner (.wslide sv)))) ∧
    (∀ k, c.w.mode = false → exec (.rft k) s = .next (c.trap (c.raiseAll 0 ((encode (.rft k)).toNat + 6 * 2 ^ 32))))

/-- R399 and R395: RFT in trap mode parks the active lanes, each with its choice, unless it would continue after a trap taken at
a run header; and when no live lane remains unparked the handler is left: a live lane that chose to continue, that the trap
struck and whose cause is not 15 goes past the trapping word, every other live lane to its saved address; the region entry
record and sr.fpctl are the frame's, with what the interrupted region has read and written and what the code waited for (the
record's sr.wtop is what the handler left: DEDUCED, log entry 65); no lane is parked and no register changes. -/
def Obligations.HandlerReturn : Prop :=
  (∀ (s : State) (c : Ctx) (k : BitVec 1), s.ctx? = some c → c.w.mode = true →
    (k = 1 → ∀ f, c.w.frame = some f → f.run = none → c.w.trapcause ≠ 1 ∧ c.w.trapcause ≠ 9) →
    ∃ u : Wave, c.Goes u (fun _ => none) (exec (.rft k) s) ∧
      ({ u with
        parked := c.w.parked
        parkMode := c.w.parkMode } : Wave) = c.w ∧
      (∀ i, i < 64 → u.parked.getLsbD i = (c.w.parked.getLsbD i || c.act.contains i)) ∧
      (∀ i ∈ c.act, i < 64 → u.parkMode.getLsbD i = (k == 1))) ∧
  (∀ (w : Wave) (f : Frame), w.frame = some f → w.mode = true → w.live ≠ [] → w.unparked = [] →
    w.tryLeave.mode = false ∧ w.tryLeave.parked = 0 ∧ w.tryLeave.region = { f.entry with wtop := w.wtop } ∧
    w.tryLeave.fpctl = f.fpctl ∧ w.tryLeave.regionReads = f.reads ∧ w.tryLeave.regionWrites = f.writes ∧
    w.tryLeave.regionSerial = f.serial ∧ w.tryLeave.wait = f.wait ∧ w.tryLeave.fpPending = f.fp ∧
    (∀ i ∈ w.live, w.tryLeave.vpcOf i =
      if w.parkMode.getLsbD i = true ∧ w.trapcause ≠ 15 ∧ w.traplanes.getLsbD i = true then BitVec.ofNat 32 (f.offset + 4)
      else tgetD f.curVpc i exited) ∧
    (∀ i, i ∉ w.live → w.tryLeave.vpcOf i = w.vpcOf i) ∧
    w.tryLeave.rows = w.rows ∧ w.tryLeave.k = w.k) ∧
  (∀ w : Wave, w.unparked ≠ [] → w.tryLeave = w)

namespace Sys2Proof.Machine

/-- R396 and R397: a double fault or a halt of a wave in no gang takes every lane of it out of the live ones and marks its
launch faulted. A trap with no handler is such a halt with inner cause 0xFF: where handler_addr is 0, where the trap is a spill
or fill and the wave has no spill area, and where the trap's entry of the table is 0xFFFFFFFF. An entry that cannot be read
makes it a double fault with inner cause 9, the fault's cause and the entry's address, a poisoned one with inner cause 16. -/
def haltsRule : Prop :=
  (∀ (s : State) (w : Wave) (inner src off outer : Nat) (info : DWord) (l : Launch), s.launch? w.launch = some l →
    (∀ t g, s.team? w.team = some t → tget s.grps t.grp = some g → g.gangs = []) →
    (∃ v, (s.haltWave w inner info off outer src).wave? w.uid = some v ∧ v.live = [] ∧ v.run = none ∧ v.mode = false ∧
      v.rows = w.rows ∧ v.k = w.k) ∧
    (∃ m, (s.haltWave w inner info off outer src).launch? w.launch = some m ∧ m.faulted = true)) ∧
  (∀ (s : State) (w : Wave) (t : Trap) (l : Launch), s.launch? w.launch = some l →
    let halts := fun (s1 : State) (inner info : Nat) => ∃ u : Wave, u.uid = w.uid ∧ u.launch = w.launch ∧ u.rows = w.rows ∧
      s.enterTrap w t = s1.haltWave u inner (BitVec.ofNat 64 info) t.offset t.cause t.offset
    let at_ := l.handlerAddr + 4 * t.cause
    (l.handlerAddr = 0 ∨ ((t.cause = 6 ∨ t.cause = 7) ∧ w.spill = none) → halts s 0xFF 0) ∧
    (l.handlerAddr ≠ 0 → (t.cause = 6 ∨ t.cause = 7 → w.spill ≠ none) →
      (∀ k, s.translateFor w.cancelled l.domain at_ .read = .error (.cause k) → halts s 9 (k * 2 ^ 56 + at_ % 2 ^ 52)) ∧
      (∀ x, s.translateFor w.cancelled l.domain at_ .read = .ok x →
        (s.anyPoison w.tag x.ver x.key 4 = true → halts (s.convertAt [(0, x.key, 4)]) 16 0) ∧
        (s.anyPoison w.tag x.ver x.key 4 = false → s.readNat w.tag x.ver x.key 4 = 0xFFFFFFFF →
          halts (s.convertAt [(0, x.key, 4)]) 0xFF 0))))

end Sys2Proof.Machine

/-- R393 to R397: traps enter their handlers, and double faults halt, as the definitions above say. -/
def Obligations.TrapsAndHalts : Prop :=
  trapEntryRule ∧ haltsRule

/-! ### Loads, stores, atomics and queue operations (R265 to R272, R361 to R371) -/

namespace Sys2Proof.Machine

/-- The outcome of an instruction that leaves an operation to be performed later (R50, R175, R177): the tags of its
destinations are written, the operation is the wave's last, `ids` new numbers are used, an effect instruction (`eff`) makes
the next run open a region (R55), and nothing else of the machine changes. -/
def Ctx.Issues (c : Ctx) (ws : List RegW) (p : Pend) (eff : Bool) (ids : Nat) (out : Host.Outcome State Fault Refusal) :
    Prop :=
  ∃ (v : Wave) (n : Nat),
    out = .next (({ c.s with
      free := n
      nextId := c.s.nextId + ids } : State).setWave
        { v.advance c.r with afterEffect := eff || (v.advance c.r).afterEffect }) ∧ c.s.free ≤ n ∧
    Tagged c.w ws v ∧
    { v.butRegs c.w with
      pend := c.w.pend
      nextPend := c.w.nextPend } = c.w ∧
    v.errstat = c.w.errstat ∧ v.fpflags = c.w.fpflags ∧ v.fpPending = c.w.fpPending ∧
    v.nextPend = c.w.nextPend + 1 ∧ v.pend = c.w.pend ++ [p]

/-- An operation of the run in progress (R175, R345). -/
def Ctx.op (c : Ctx) (kind : PendKind) (flag : Option Nat) (dests : List Nat) (acq rel : Bool) (scope : Nat) : Pend :=
  { id := c.w.nextPend
    kind := kind
    flag := flag
    serial := c.r.serial
    offset := c.w.pc
    dests := dests
    acquire := acq
    release := rel
    scope := scope }

/-- The bytes that an access of format f reads or writes (R37). -/
def bytesOf (f : BitVec 5) : Nat := if f = 19 then 8 else 4

/-- The effective address of a lane (R265): its register pair plus a signed number of units, modulo 2^64. -/
def address (c : Ctx) (a : BitVec 7) (units : Int) (l : Nat) : Nat := ((c.w.pair l a.toNat + units) % 2 ^ 64).toNat

/-- The scratchpad offset of a lane (R265). -/
def scratchOffset (c : Ctx) (a : BitVec 7) (units : Int) (l : Nat) : Nat :=
  (((c.w.reg l a.toNat).toNat + units) % 2 ^ 32).toNat

/-- The tags that a load into n registers gives its destination (R60, R64): the format with the scale kept, or for I64 I64 on
the even registers and RAW on the odd ones. -/
def loadTags (c : Ctx) (d : BitVec 7) (f : BitVec 5) (n : Nat) : List RegW :=
  c.act.flatMap (fun l => (List.range n).map (fun j => c.w.put l (d.toNat + j) 0
    (if f = 19 then (if j % 2 = 0 then mkTag 19 0 else 0) else mkTag f.toNat (c.w.keptScale l (d.toNat + j) f.toNat))))

/-- The rows of n registers of a lane from d on. -/
def rowsAt (c : Ctx) (l : Nat) (d : BitVec 7) (n : Nat) : List Nat :=
  (List.range n).map (fun j => c.w.rowOf l (d.toNat + j))

/-- One access of a lane where its address translates to x. -/
def accessOf (l addr size : Nat) (x : Xlat) (rows : List Nat) (data : List Word) : LaneAcc :=
  { lane := l
    addr := addr
    key := x.key
    mt := x.mt
    ver := x.ver
    det := x.det
    size := size
    rows := rows
    data := data }

/-- The scope of a load's or store's order (R37, R345): 3, the system, for order 2, else 2, the device. -/
def loadScope (ord : BitVec 2) : Nat := if ord = 2 then 3 else 2

/-- R265, R268, R271 and R345: LD, LDS and KLD, well formed, on operands that pass the checks, with aligned addresses that
translate, or that lie in the scratchpad, tag their destination and leave a load of each active lane's bytes (of one lane for
KLD) attached to flag sf1, an acquire of device scope for order 1 and of system scope for order 2. -/
def loadsRule : Prop :=
  ∀ (s : State) (c : Ctx), s.ctx? = some c →
    (∀ (d a : BitVec 7) (f : BitVec 5) (ord : BitVec 2) (off : BitVec 5) (ts : List Xlat),
      (Instr.ld d a f ord off).wellFormed = true →
      let n := bytesOf f / 4
      let at_ := address c a (off.toInt * bytesOf f)
      let o : OpSpec :=
        { regs := (List.range n).map (fun j => d.toNat + j) ++ [a.toNat, a.toNat + 1]
          pairs := if f = 19 then [d.toNat] else []
          reads := [a.toNat, a.toNat + 1]
          writes := loadTags c d f n }
      c.passes o = true → (∀ l ∈ c.act, at_ l % bytesOf f = 0) →
      c.translateAll .read (c.act.map (fun l => (l, at_ l))) = .ok (.go ts) →
      c.Issues o.writes (c.op
        (.load ((c.act.zip ts).map (fun x => accessOf x.1 (at_ x.1) (bytesOf f) x.2 (rowsAt c x.1 d n) [])))
        (some c.sf1) (dedup (o.writes.map (fun x => x.row))) (ord == 1 || ord == 2) false (loadScope ord)) false 0
        (exec (.ld d a f ord off) s)) ∧
    (∀ (d a : BitVec 7) (f : BitVec 5) (n : BitVec 2) (off : BitVec 5),
      (Instr.lds d a f n off).wellFormed = true →
      let m := 2 ^ n.toNat
      let at_ := scratchOffset c a (off.toInt * (4 * m : Nat))
      let o : OpSpec :=
        { regs := (List.range m).map (fun j => d.toNat + j) ++ [a.toNat]
          pairs := if f = 19 then [d.toNat] else []
          reads := [a.toNat]
          writes := loadTags c d f m }
      ¬(f = 19 ∧ n = 0) → c.passes o = true → (∀ l ∈ c.act, at_ l % bytesOf f = 0) →
      (∀ l ∈ c.act, s.scratchBad c.w 8 (at_ l) (4 * m) = none) →
      c.Issues o.writes (c.op
        (.loadScratch (c.act.map (fun l =>
          accessOf l (at_ l) (4 * m) { key := at_ l, mt := 0, ver := false, det := false } (rowsAt c l d m) [])))
        (some c.sf1) (dedup (o.writes.map (fun x => x.row))) false false 2) false 0 (exec (.lds d a f n off) s)) ∧
    (∀ (d a : BitVec 7) (f : BitVec 5) (ord : BitVec 2) (off : BitVec 5) (l : Nat) (rest : List Nat) (x : Xlat)
      (ts : List Xlat), (Instr.kld d a f ord off).wellFormed = true → c.act = l :: rest →
      let at_ := (((c.w.kreg a.toNat).toNat + off.toInt * bytesOf f) % 2 ^ 64).toNat
      c.passes { kreads := [a.toNat], kwrites := [d.toNat] } = true → at_ % bytesOf f = 0 →
      c.translateAll .read (c.act.map (fun l => (l, at_))) = .ok (.go (x :: ts)) →
      c.Issues [] (c.op (.loadK d.toNat (accessOf l at_ (bytesOf f) x [] []) (f == 2)) (some c.sf1) [2048 + d.toNat]
        (ord == 1 || ord == 2) false (loadScope ord)) false 0 (exec (.kld d a f ord off) s))

/-- R266, R268, R271, R137 and R345: ST and KST, well formed, on operands that pass the checks, with aligned addresses that
translate and raise no version fault, leave a store of each active lane's registers (one store for KST), a release of device
scope for order 1 and of system scope for order 2, attached to no flag; STS, within the scratchpad, writes it at issue, lane
after lane, and changes nothing else. -/
def storesRule : Prop :=
  ∀ (s : State) (c : Ctx), s.ctx? = some c →
    (∀ (d a : BitVec 7) (f : BitVec 5) (ord : BitVec 2) (off : BitVec 5) (ts : List Xlat),
      (Instr.st d a f ord off).wellFormed = true →
      let fs := (List.range (bytesOf f / 4)).map (fun j => d.toNat + j)
      let at_ := address c a (off.toInt * bytesOf f)
      c.passes
        { regs := fs ++ [a.toNat, a.toNat + 1]
          pairs := if f = 19 then [d.toNat] else []
          data := [(d.toNat, [f.toNat])]
          reads := fs ++ [a.toNat, a.toNat + 1] } = true →
      (∀ l ∈ c.act, at_ l % bytesOf f = 0) →
      c.translateAll .write (c.act.map (fun l => (l, at_ l))) = .ok (.go ts) →
      c.checkVersions ((c.act.map (fun l => (l, at_ l))).zip ts) = .ok none →
      c.Issues [] (c.op
        (.store ((c.act.zip ts).map (fun x =>
          accessOf x.1 (at_ x.1) (bytesOf f) x.2 [] (fs.map (fun r => c.w.reg x.1 r)))))
        none [] false (ord == 1 || ord == 2) (loadScope ord)) true 0 (exec (.st d a f ord off) s)) ∧
    (∀ (d a : BitVec 7) (f : BitVec 5) (ord : BitVec 2) (off : BitVec 5) (l : Nat) (rest : List Nat) (x : Xlat)
      (ts : List Xlat), (Instr.kst d a f ord off).wellFormed = true → c.act = l :: rest →
      let at_ := (((c.w.kreg a.toNat).toNat + off.toInt * bytesOf f) % 2 ^ 64).toNat
      let v := (c.w.kreg d.toNat).toNat
      c.passes { kreads := [a.toNat, d.toNat] } = true → at_ % bytesOf f = 0 →
      c.translateAll .write (c.act.map (fun l => (l, at_))) = .ok (.go (x :: ts)) →
      c.checkVersions ((c.act.map (fun l => (l, at_))).zip (x :: ts)) = .ok none →
      c.Issues [] (c.op (.store [accessOf l at_ (bytesOf f) x []
        (if f = 19 then [BitVec.ofNat 32 v, BitVec.ofNat 32 (v / 2 ^ 32)] else [BitVec.ofNat 32 v])])
        none [] false (ord == 1 || ord == 2) (loadScope ord)) true 0 (exec (.kst d a f ord off) s)) ∧
    (∀ (d a : BitVec 7) (f : BitVec 5) (n : BitVec 2) (off : BitVec 5),
      (Instr.sts d a f n off).wellFormed = true →
      let m := 2 ^ n.toNat
      let fs := (List.range m).map (fun j => d.toNat + j)
      let at_ := scratchOffset c a (off.toInt * (4 * m : Nat))
      ¬(f = 19 ∧ n = 0) →
      c.passes
        { regs := fs ++ [a.toNat]
          pairs := if f = 19 then [d.toNat] else []
          data := ((List.range m).filter (fun j => f != 19 || j % 2 == 0)).map (fun j => (d.toNat + j, [f.toNat]))
          reads := fs ++ [a.toNat] } = true →
      (∀ l ∈ c.act, at_ l % bytesOf f = 0) → (∀ l ∈ c.act, s.scratchBad c.w 8 (at_ l) (4 * m) = none) →
      ∃ u : Wave, u.sameSets c.w = c.w ∧ exec (.sts d a f n off) s = .next ((c.act.foldl (fun (s : State) l =>
        s.scratchWrite c.w (at_ l) (fs.flatMap (fun r => (toBytes 4 (c.w.reg l r).toNat).map (fun b => (b, false)))))
        s).setWave (u.advance c.r)))

end Sys2Proof.Machine

/-- R264 to R271: the loads and stores issue as the definitions above say. -/
def Obligations.LoadsAndStores : Prop :=
  loadsRule ∧ storesRule

namespace Sys2Proof.Machine

/-- The atomics by number (R361): operation, registers, scope and order. -/
def amoRow : Instr → Option (Nat × BitVec 7 × BitVec 7 × BitVec 7 × BitVec 2 × BitVec 1)
  | .amoAdd d a b sv o => some (0, d, a, b, sv, o)
  | .amoMin d a b sv o => some (1, d, a, b, sv, o)
  | .amoMax d a b sv o => some (2, d, a, b, sv, o)
  | .amoXchg d a b sv o => some (3, d, a, b, sv, o)
  | .amoMinu d a b sv o => some (4, d, a, b, sv, o)
  | .amoMaxu d a b sv o => some (5, d, a, b, sv, o)
  | .amoAnd d a b sv o => some (6, d, a, b, sv, o)
  | .amoOr d a b sv o => some (7, d, a, b, sv, o)
  | .amoXor d a b sv o => some (8, d, a, b, sv, o)
  | .amoIncw d a b sv o => some (9, d, a, b, sv, o)
  | .amoDecw d a b sv o => some (10, d, a, b, sv, o)
  | .amoCas d a b sv o => some (11, d, a, b, sv, o)
  | .amoFadd d a b sv o => some (12, d, a, b, sv, o)
  | .amoFmin d a b sv o => some (13, d, a, b, sv, o)
  | .amoFmax d a b sv o => some (14, d, a, b, sv, o)
  | .amoCasc d a b sv o => some (15, d, a, b, sv, o)
  | _ => none

/-- The words of an atomic's value in a lane (R361): two for I64. -/
def amoWords (c : Ctx) (b : BitVec 7) (l : Nat) : Nat := if c.w.fmtAt l b.toNat = 19 then 2 else 1

/-- The operand registers of an atomic of n words (R361, R362, R368): two values for CAS, and a task word besides for CASC. -/
def amoSources (op n : Nat) : Nat := if op = 15 then 2 * n + 1 else if op = 11 then 2 * n else n

/-- R361 to R364 and R368: every atomic, on operands that pass the checks (no RAW operand for the floating ones), with aligned
addresses that translate, lie for CASC in no other device and raise no version fault, tags its destination like operand b (v127
is none, but for CASC, whose status has tag UI32) and leaves the operation with its operands, attached to flag sf1 when it
returns a value, an acquire, a release and SC at its scope when its order says SC; CASC's is at least device scope (R355), and
in deterministic mode its lanes take their places in the launch's order of tasks at issue (R119, R369; the model's choice, log
entry 76). -/
def atomicsRule : Prop :=
  ∀ (s : State) (c : Ctx) (i : Instr) (op : Nat) (d a b : BitVec 7) (sv : BitVec 2) (ord : BitVec 1)
    (ts : List Xlat), s.ctx? = some c → amoRow i = some (op, d, a, b, sv, ord) → c.act ≠ [] →
    let at_ := address c a 0
    let n := amoWords c b
    let ret := decide (d.toNat ≠ 127) || op == 15
    let results := fun l => if op = 15 then n l + 1 else n l
    let o := c.amoSpec op d.toNat a.toNat b.toNat
    c.passes o = true → (12 ≤ op → op ≤ 14 → ∀ l ∈ c.act, c.w.fmtAt l b.toNat ≠ 0) →
    (∀ l ∈ c.act, at_ l % (4 * n l) = 0) →
    c.translateAll .atomic (c.act.map (fun l => (l, at_ l))) = .ok (.go ts) → (op = 15 → ∀ x ∈ ts, x.mt ≠ 4) →
    c.checkVersions ((c.act.map (fun l => (l, at_ l))).zip ts) = .ok none →
    let accs := (c.act.zip ts).map (fun x => accessOf x.1 (at_ x.1) (4 * n x.1) x.2
      (if ret then rowsAt c x.1 d (results x.1) else [])
      ((List.range (amoSources op (n x.1))).map (fun j => c.w.reg x.1 (b.toNat + j))))
    let numbered := if op = 15 then s.reserveTickets c.w.launch c.act.length else (none, s)
    ({ c with s := numbered.2 } : Ctx).Issues o.writes (c.op
      (if op = 15 then
          .casc accs (accs.map (fun x => (x.lane, s.hostClk c.w.launch (homeSlice x.key / 8)))) s.nextId numbered.1
        else .atomic op (c.act.map (fun l => c.w.fmtAt l b.toNat)) accs ret)
      (if ret then some c.sf1 else none) (dedup (o.writes.map (fun x => x.row))) (ord == 1) (ord == 1)
      (if op = 15 then max 2 sv.toNat else sv.toNat)) true 1
      (exec i s)

/-- One element of a floating atomic (R363): the exact sum rounded to nearest even, or the minimum or maximum of R68, subnormals
kept. -/
def floatElement (op : Nat) (F : FFmt) (x y : Nat) : Nat × FFlags :=
  let p : FpCtl :=
    { rm := .rne
      ftz := false }
  if op = 12 then p.finish F (addVal .rne (p.val F x) (p.val F y)) else fMinMax p F (op == 14) false x y

/-- The formats of the floating atomics by number, with the canonical NaN, +∞ and −∞ of each (R66, R361). -/
def atomicFormats : List (FFmt × Nat × Nat × Nat) :=
  [(f32, 0x7FC00000, 0x7F800000, 0xFF800000), (f16, 0x7E00, 0x7C00, 0xFC00), (bf16, 0x7FC0, 0x7F80, 0xFF80)]

/-- R362 and R363: the value that each atomic writes. An integer atomic computes with the old value and the operand as numbers of n
bits, which the signed forms read in two's complement. A floating one computes each element of its format, rounding to nearest
even and keeping subnormals, as some sums show; a NaN operand, and the sum of +∞ and −∞, give the canonical NaN of the format. -/
def atomicValuesRule : Prop :=
  (∀ op x y : Nat, 12 ≤ op → op ≤ 14 → amoFloat op 1 x y = floatElement op f32 x y ∧
    amoFloat op 4 x y = halves (fun x y _ => floatElement op f16 x y) x y 0 ∧
    amoFloat op 5 x y = halves (fun x y _ => floatElement op bf16 x y) x y 0) ∧
  (∀ e ∈ atomicFormats, ∀ op x y : Nat, 12 ≤ op → op ≤ 14 →
    ((e.1.decode x).isNan = true → (floatElement op e.1 x y).1 = e.2.1 ∧ (floatElement op e.1 y x).1 = e.2.1) ∧
    floatElement 12 e.1 e.2.2.1 e.2.2.2 = (e.2.1, nv) ∧ floatElement 12 e.1 e.2.2.2 e.2.2.1 = (e.2.1, nv)) ∧
  (floatElement 12 f32 1 1 = (2, 0) ∧ floatElement 12 f32 0x7FFFFF 1 = (0x800000, 0) ∧ floatElement 12 f16 1 2 = (3, 0) ∧
    floatElement 12 f32 0x3F800000 0x33800000 = (0x3F800000, nx) ∧
    floatElement 12 f32 0x3F800001 0x33800000 = (0x3F800002, nx) ∧
    floatElement 12 f32 0x7F7FFFFF 0x7F7FFFFF = (0x7F800000, of_ ||| nx)) ∧
  ∀ n : Nat, n = 32 ∨ n = 64 → ∀ x y : BitVec n,
    amoInt 0 n x.toNat y.toNat = (x + y).toNat ∧
    amoInt 1 n x.toNat y.toNat = (if x.toInt ≤ y.toInt then x else y).toNat ∧
    amoInt 2 n x.toNat y.toNat = (if x.toInt ≥ y.toInt then x else y).toNat ∧
    amoInt 3 n x.toNat y.toNat = y.toNat ∧
    amoInt 4 n x.toNat y.toNat = min x.toNat y.toNat ∧ amoInt 5 n x.toNat y.toNat = max x.toNat y.toNat ∧
    amoInt 6 n x.toNat y.toNat = (x &&& y).toNat ∧ amoInt 7 n x.toNat y.toNat = (x ||| y).toNat ∧
    amoInt 8 n x.toNat y.toNat = (x ^^^ y).toNat ∧
    amoInt 9 n x.toNat y.toNat = (if x.toNat ≥ y.toNat then 0#n else x + 1).toNat ∧
    amoInt 10 n x.toNat y.toNat = (if x.toNat = 0 ∨ x.toNat > y.toNat then y else x - 1).toNat

end Sys2Proof.Machine

/-- R361 to R366: atomics issue, and integer atomics compute, as the definitions above say. -/
def Obligations.AtomicOperations : Prop :=
  atomicsRule ∧ atomicValuesRule

namespace Sys2Proof.Machine

/-- The memory-queue instructions (R370): operation, status register, address, first element register, scope
and order. -/
def queueRow : Instr → Option (Nat × BitVec 7 × BitVec 7 × BitVec 7 × BitVec 2 × BitVec 1)
  | .qpush d a b sv o => some (0, d, a, b, sv, o)
  | .qpop d a sv o => some (1, d, a, 0, sv, o)
  | .qpeek d a sv o => some (2, d, a, 0, sv, o)
  | _ => none

/-- The parts of an entry of n words at an address, as addresses: the first that a line holds and, where the entry crosses into
the next line, the rest (R370). -/
def entryParts (va n : Nat) : List Nat :=
  if va % 128 + 4 * n ≤ 128 then [va % 2 ^ 64] else [va % 2 ^ 64, (va - va % 128 + 128) % 2 ^ 64]

end Sys2Proof.Machine

/-- R370 and R371 for lanes whose blocks are all not well formed, or all well formed with one element size: QPUSH, QPOP and
QPEEK, on operands that pass the checks, with control blocks whose 32 aligned bytes translate and entries, each lane's after
those that earlier lanes use of the same block and each in its parts, that translate and, where they are written or the wave is
untagged, raise no version fault, tag the status register UI32 and the element registers of QPOP and QPEEK RAW, and leave the
queue operation attached to flag sf1, an acquire, a release and SC at its scope when its order says SC. Two clauses are the
model's own choice: that the operation keeps every element register that its block may come to name (log entry 82, DESIGN
CHOICE), and that the entries are translated at issue (log entry 23, DEDUCED). -/
def Obligations.QueueOperations : Prop :=
  ∀ (s : State) (c : Ctx) (i : Instr) (op : Nat) (d a b : BitVec 7) (sv : BitVec 2) (ord : BitVec 1) (ts es : List Xlat)
    (n : Nat), s.ctx? = some c → queueRow i = some (op, d, a, b, sv, ord) → c.act ≠ [] →
    let at_ := address c a 0
    let xs := c.act.map (fun l => (l, at_ l))
    let block := fun (x : Xlat) => QBlock.of (s.readNat c.w.tag x.ver x.key 32)
    let elems := (List.range n).map (fun j => (if op = 0 then b.toNat else d.toNat + 1) + j)
    let src := if op = 0 then [b.toNat] else []
    let o : OpSpec :=
      { regs := [a.toNat, a.toNat + 1, d.toNat] ++ src ++ elems
        reads := [a.toNat, a.toNat + 1] ++ src
        laneReads := if op = 0 then c.act.flatMap (fun l => elems.map (fun f => (l, f))) else []
        writes := c.act.map (fun l => c.w.put l d.toNat 0 (mkTag 3 0)) ++ (if op = 0 then [] else
          c.act.flatMap (fun l => elems.map (fun f => c.w.put l f 0 0))) }
    (∀ l ∈ c.act, at_ l % 32 = 0) → c.translateAll .atomic xs = .ok (.go ts) →
    (∀ x ∈ ts, (block x).ok = decide (n ≠ 0) ∧ ((block x).ok = true → (block x).esize = 4 * n)) →
    passed (c.check { o with
      regs := [a.toNat, a.toNat + 1, d.toNat] ++ src
      laneReads := []
      writes := c.act.map (fun l => c.w.put l d.toNat 0 (mkTag 3 0)) }) = true →
    c.passes o = true →
    let ents := ((c.act.zip ts).zipIdx).flatMap (fun x =>
      ((block x.1.2).entryFor op ((ts.take x.2).filter (fun y => y.key == x.1.2.key)).length).elim []
        (fun va => (entryParts va n).map (fun p => (x.1.1, p))))
    c.translateAll .atomic ents = .ok (.go es) →
    c.checkVersions (xs.zip ts ++ (if c.w.tag = 0 ∨ op = 0 then ents.zip es else [])) = .ok none →
    let inWindow := fun (f : Nat) => ([0, 1, 2, 3].map (fun j => f + j)).filter (fun x => c.w.fieldOk c.act x)
    let accs := (c.act.zip ts).map (fun x => accessOf x.1 (at_ x.1) 32 x.2
      ((d.toNat :: (if op = 0 then [] else inWindow (d.toNat + 1))).map (fun f => c.w.rowOf x.1 f))
      (if op = 0 then (inWindow b.toNat).map (fun f => c.w.reg x.1 f)
        else [BitVec.ofNat 32 n, c.keepsTag (inWindow (d.toNat + 1))]))
    c.Issues o.writes (c.op (.queueOp op accs) (some c.sf1) (dedup (accs.flatMap (fun x => x.rows))) (ord == 1) (ord == 1)
      sv.toNat) (op != 2) 0 (exec i s)

namespace Sys2Proof.Machine

/-- Whether no two accesses of an operation name the same register element. -/
def accessesApart (accs : List LaneAcc) : Prop :=
  (accs.map (fun a => a.lane)).Nodup ∧ ∀ a ∈ accs, a.rows.Nodup

/-- R265, R271, R177, R63 and R414: LOAD_RETURN of a load that may be performed takes it off its wave and writes its bytes, low
word first, to the destination rows of each lane still live, with the poison of what it read, a failed copy in the core's L1
or a failed transfer to the core among it (R411), which has then come; no other element and no tag changes; a KLD's value goes to its k register, sign-extended for I32 and
zero-extended else. VARIABLE_LATENCY_COMPLETE makes the writes that the operation holds. -/
def loadReturnsRule : Prop :=
  (∀ (s : State) (w p : Nat) (x : Wave) (q : Pend) (accs : List LaneAcc), s.pending? w p = some (x, q) →
    q.kind = .load accs → accessesApart accs →
    let s1 := s.touch x.tag accs
    ∃ u : Wave, exec (.loadReturn w p) s = .next ((s1.came x accs).setWave u) ∧
      u.pend = x.pend.filter (fun y => y.id != q.id) ∧
      (∀ a ∈ accs, x.isLive a.lane = true → a.lane < 64 → ∀ (j r : Nat), a.rows[j]? = some r → 4 * j + 4 ≤ a.size →
        u.elem r a.lane = BitVec.ofNat 32 (s1.readNat x.tag a.ver (a.key + 4 * j) 4) ∧
        (u.row r).poison.getLsbD a.lane =
          (s1.anyPoison x.tag a.ver a.key a.size || s1.badCopy x.pcore a.key a.size ||
            s1.badCopy (coreTransfer x.pcore) a.key a.size)) ∧
      (∀ r l, (∀ a ∈ accs, a.lane = l → r ∉ a.rows) → u.elem r l = x.elem r l) ∧ (∀ r, (u.row r).tag = (x.row r).tag) ∧
      { u with
        rows := x.rows
        pend := x.pend
        debts := x.debts
        errstat := x.errstat } = x) ∧
  (∀ (s : State) (w p : Nat) (x : Wave) (q : Pend) (accs : List LaneAcc), s.pending? w p = some (x, q) →
    q.kind = .loadScratch accs → accessesApart accs →
    ∃ u : Wave, exec (.loadReturn w p) s = .next (s.setWave u) ∧ u.pend = x.pend.filter (fun y => y.id != q.id) ∧
      (∀ a ∈ accs, x.isLive a.lane = true → a.lane < 64 → ∀ (j r : Nat), a.rows[j]? = some r →
        u.elem r a.lane = BitVec.ofNat 32 (ofBytes (s.scratchBytes x (a.key + 4 * j) 4)) ∧
        (u.row r).poison.getLsbD a.lane = s.scratchPoisoned x (a.key + 4 * j)) ∧
      (∀ r l, (∀ a ∈ accs, a.lane = l → r ∉ a.rows) → u.elem r l = x.elem r l) ∧ (∀ r, (u.row r).tag = (x.row r).tag) ∧
      { u with
        rows := x.rows
        pend := x.pend
        debts := x.debts
        errstat := x.errstat } = x) ∧
  (∀ (s : State) (w p : Nat) (x : Wave) (q : Pend) (k : Nat) (a : LaneAcc) (signed : Bool),
    s.pending? w p = some (x, q) → q.kind = .loadK k a signed → a.size = 4 ∨ a.size = 8 → k < 64 →
    let s1 := s.touch x.tag [a]
    let v := s1.readNat x.tag a.ver a.key a.size
    ∃ u : Wave, exec (.loadReturn w p) s = .next ((s1.came x [a]).setWave u) ∧
      u.pend = x.pend.filter (fun y => y.id != q.id) ∧
      u.kreg k = (if a.size = 4 ∧ signed = true then (BitVec.ofNat 32 v).signExtend 64 else BitVec.ofNat 64 v) ∧
      u.kpoison.getLsbD k = (s1.anyPoison x.tag a.ver a.key a.size || s1.badCopy x.pcore a.key a.size ||
        s1.badCopy (coreTransfer x.pcore) a.key a.size) ∧ (∀ j, j ≠ k → u.kreg j = x.kreg j) ∧
      { u with
        k := x.k
        kpoison := x.kpoison
        pend := x.pend
        debts := x.debts
        errstat := x.errstat } = x) ∧
  (∀ (s : State) (w p : Nat) (x : Wave) (q : Pend) (ws : List LaneWrite) (fl : FFlags),
    s.pending? w p = some (x, q) → q.kind = .regs ws fl → (ws.map (fun y => (y.row, y.lane))).Nodup →
    ∃ u : Wave, exec (.variableLatencyComplete w p) s = .next (s.setWave u) ∧
      u.pend = x.pend.filter (fun y => y.id != q.id) ∧
      (∀ y ∈ ws, x.isLive y.lane = true → u.elem y.row y.lane = y.val) ∧
      (∀ r l, (∀ y ∈ ws, y.row = r → y.lane ≠ l) → u.elem r l = x.elem r l) ∧ (∀ r, (u.row r).tag = (x.row r).tag) ∧
      u.fpflags = x.fpflags ||| fl.zeroExtend 32 ∧ u.k = x.k ∧ u.vpc = x.vpc)

/-- What the lanes of a store, made one after the other, leave at a storage location: the byte of the last that reaches it. -/
def storedByte (accs : List LaneAcc) (k : Nat) : Option Byte :=
  accs.foldl (fun b a => if a.key ≤ k ∧ k < a.key + 4 * a.data.length then
    some (BitVec.ofNat 8 (((a.data[(k - a.key) / 4]?).getD 0).toNat / 2 ^ (8 * ((k - a.key) % 4)))) else b) none

/-- No line has a version of a COMMITTED branch that is still to be made the line (R149). -/
def State.settled (s : State) : Prop := ∀ v ∈ s.versions, s.tagState v.tag.toNat ≠ .committed

/-- Accesses of 4 or 8 aligned bytes, outside every backing area that the device owns (R128), on pages that are not det. -/
def plainAccesses (accs : List LaneAcc) : Prop :=
  ∀ a ∈ accs, (a.size = 4 ∨ a.size = 8) ∧ a.key % a.size = 0 ∧ a.key + a.size ≤ 2 ^ 56 ∧ a.det = false

/-- Whose bytes some accesses of a wave act on (R135 to R137): the committed ones, on pages that are not versioned or for a wave
with no branch tag; or on versioned pages those of the wave's own branch, LIVE or DOOMED. -/
def State.actsOn (s : State) (x : Wave) (accs : List LaneAcc) (tag : BitVec 4) (ver : Bool) : Prop :=
  (tag = 0 ∧ ver = false ∧ (x.tag = 0 ∨ ∀ a ∈ accs, a.ver = false)) ∨
    (tag = x.tag ∧ ver = true ∧ x.tag ≠ 0 ∧ (s.tagState x.tag.toNat = .live ∨ s.tagState x.tag.toNat = .doomed) ∧
      ∀ a ∈ accs, a.ver = true)

/-- R341 to R345, R365 and R135 to R141: STORE_PERFORM of a store that may be performed takes it off its wave and writes the bytes of
its lanes, low word first, one lane after the other, to the bytes that it acts on, the committed ones or the branch's own, and to no
other byte that any tag sees; no other wave and no register changes. On versioned pages the store of a SQUASHED branch writes
nothing. A fence that has come to its turn is passed: an SC fence of device or system scope then counts for the epoch of order
hazards, which advances when every wave of a launch in deterministic mode has passed one (R430). -/
def storesPerformedRule : Prop :=
  (∀ (s : State) (w p : Nat) (x : Wave) (q : Pend) (accs : List LaneAcc) (tag : BitVec 4) (ver : Bool),
    s.pending? w p = some (x, q) → q.kind = .store accs → plainAccesses accs → (∀ a ∈ accs, 4 * a.data.length = a.size) →
    s.actsOn x accs tag ver → s.settled → Memory.wf s.mem = true →
    ∃ (t : State) (u : Wave), exec (.storePerform w p) s = .next t ∧ Memory.wf t.mem = true ∧
      (∀ k, t.readByte tag ver k = (storedByte accs k).getD (s.readByte tag ver k)) ∧
      (ver = true → t.mem = s.mem) ∧ (ver = false → t.versions = s.versions) ∧
      (∀ g b k, ver = true → g ≠ tag → t.readByte g b k = s.readByte g b k) ∧
      (∀ v, v ≠ x.uid → t.wave? v = s.wave? v) ∧ t.wave? x.uid = some u ∧ u.pend = x.pend.filter (fun y => y.id != q.id) ∧
      { u with
        pend := x.pend
        debts := x.debts } = x) ∧
  (∀ (s : State) (w p : Nat) (x : Wave) (q : Pend) (accs : List LaneAcc), s.pending? w p = some (x, q) →
    q.kind = .store accs → x.tag ≠ 0 → s.tagState x.tag.toNat = .squashed → (∀ a ∈ accs, a.ver = true) →
    ∃ u : Wave, exec (.storePerform w p) s = .next (s.setWave u) ∧ u.pend = x.pend.filter (fun y => y.id != q.id) ∧
      { u with
        pend := x.pend
        debts := x.debts } = x) ∧
  (∀ (s : State) (w p : Nat) (x : Wave) (q : Pend) (k : Nat), s.pending? w p = some (x, q) → q.kind = .fence k →
    ∃ (u : Wave) (t : State), exec (.storePerform w p) s = .next t ∧ u.pend = x.pend.filter (fun y => y.id != q.id) ∧
      u.seenSc = (x.seenSc || decide (k = 3 ∧ 2 ≤ q.scope)) ∧
      { u with
        pend := x.pend
        debts := x.debts
        seenSc := x.seenSc } = x ∧
      let v := s.setWave u
      let all := v.isDet x.launch = true ∧ ∀ y ∈ tvals v.waves, y.launch = x.launch → y.seenSc = true
      (¬all → t = v) ∧
      (all → t = { v with
          waves := t.waves
          launches := t.launches } ∧
        ∀ l, s.launch? x.launch = some l → t.launch? x.launch = some { l with epoch := l.epoch + 1 }))

/-- The value that some words spell, the first one lowest. -/
def spelled (ws : List Word) : Nat := (ws.zipIdx).foldl (fun n x => n + x.1.toNat * 2 ^ (32 * x.2)) 0

/-- The new value of an atomic's word of a size, from the old value and the lane's operands (R361 to R363): none where a CAS does
not find its compare operand. -/
def atomicNew (op fmt size old : Nat) (data : List Word) : Option Nat :=
  let y := spelled (data.take (size / 4))
  if op = 11 then (if old = y then some (spelled ((data.drop (size / 4)).take (size / 4))) else none)
  else if 12 ≤ op then some (amoFloat op fmt old y).1
  else some (amoInt op (8 * size) old y)

/-- What one lane's atomic makes of the bytes of memory. -/
def atomicBytes (op : Nat) (m : Nat → Byte) (x : LaneAcc × Nat) : Nat → Byte :=
  match atomicNew op x.2 x.1.size (ofBytes ((List.range x.1.size).map (fun j => m (x.1.key + j)))) x.1.data with
  | none => m
  | some v => fun k => if x.1.key ≤ k ∧ k < x.1.key + x.1.size then BitVec.ofNat 8 (v / 2 ^ (8 * (k - x.1.key))) else m k

/-- R361 to R366, R135, R136 and R414: ATOMIC_PERFORM of an atomic on words without poison performs its lanes one after the other,
each on the bytes that the lanes before it left, of 4 or 8 bytes, committed or of the wave's own branch; each lane that is live
gets the old value of its word in its result registers, poisoned only where the transfer of it failed (R411), the operation
leaves its wave, and no other byte changes. The flags of a floating atomic join the launch's exception summary, with the address
where it was empty. A word that is poisoned is not written (the record of it goes to host memory), and the result is poisoned. -/
def atomicsPerformedRule : Prop :=
  (∀ (s : State) (w p : Nat) (x : Wave) (q : Pend) (op : Nat) (fmts : List Nat) (accs : List LaneAcc) (ret : Bool)
    (tag : BitVec 4) (ver : Bool), s.pending? w p = some (x, q) → q.kind = .atomic op fmts accs ret →
    s.wave? x.uid = some x → fmts.length = accs.length → plainAccesses accs → accessesApart accs → s.actsOn x accs tag ver →
    s.settled → Memory.wf s.mem = true → (∀ a ∈ accs, s.anyPoison tag ver a.key a.size = false) →
    let after := fun (n : Nat) => ((accs.zip fmts).take n).foldl (atomicBytes op) (s.readByte tag ver)
    ∃ t u, exec (.atomicPerform w p) s = .next t ∧ t.wave? x.uid = some u ∧ (∀ v, v ≠ x.uid → t.wave? v = s.wave? v) ∧
      u.pend = x.pend.filter (fun y => y.id != q.id) ∧ (∀ k, t.readByte tag ver k = after accs.length k) ∧
      (ver = true → t.mem = s.mem ∧ ∀ g b k, g ≠ tag → t.readByte g b k = s.readByte g b k) ∧
      (∀ (i : Nat) (a : LaneAcc), accs[i]? = some a → x.isLive a.lane = true → a.lane < 64 →
        ∀ (j r : Nat), a.rows[j]? = some r → 4 * j + 4 ≤ a.size →
          u.elem r a.lane = BitVec.ofNat 32 (ofBytes ((List.range 4).map (fun b => after i (a.key + 4 * j + b)))) ∧
          (u.row r).poison.getLsbD a.lane = s.badCopy (coreTransfer x.pcore) a.key a.size) ∧
      (∀ r l, (∀ a ∈ accs, a.lane = l → r ∉ a.rows) → u.elem r l = x.elem r l) ∧
      (∀ (a : LaneAcc) (f : Nat) (l : Launch), accs = [a] → fmts = [f] → 12 ≤ op → s.launch? x.launch = some l →
        let fl := (amoFloat op f (s.readNat tag ver a.key a.size) (spelled (a.data.take (a.size / 4)))).2
        ∃ l', t.launch? x.launch = some l' ∧ l'.excFlags = l.excFlags ||| fl ∧
          (fl ≠ 0 → l.excFlags = 0 → l'.excAddr = BitVec.ofNat 64 a.addr))) ∧
  (∀ (s : State) (w p : Nat) (x : Wave) (q : Pend) (op fmt : Nat) (a : LaneAcc) (ret : Bool),
    s.pending? w p = some (x, q) → q.kind = .atomic op [fmt] [a] ret → x.tag = 0 → s.wave? x.uid = some x →
    plainAccesses [a] → a.rows.Nodup → s.settled → s.anyPoison 0 false a.key a.size = true →
    ∃ t u, exec (.atomicPerform w p) s = .next t ∧ t.wave? x.uid = some u ∧ u.pend = x.pend.filter (fun y => y.id != q.id) ∧
      (∀ k, k < 2 ^ 49 → t.readByte 0 false k = s.readByte 0 false k) ∧
      (x.isLive a.lane = true → a.lane < 64 → ∀ (j r : Nat), a.rows[j]? = some r → 4 * j + 4 ≤ a.size →
        u.elem r a.lane = BitVec.ofNat 32 (s.readNat 0 false (a.key + 4 * j) 4) ∧ (u.row r).poison.getLsbD a.lane = true))

end Sys2Proof.Machine

/-- R265, R267, R362, R363: what was issued is performed as the definitions above say. -/
def Obligations.AccessesPerformed : Prop :=
  loadReturnsRule ∧ storesPerformedRule ∧ atomicsPerformedRule

/-! ### Fences, barriers and rings (R282 to R286, R372 to R377, R430) -/

namespace Sys2Proof.Machine

/-- R372 and R345: FENCE leaves a fence of its kind that the wave's later accesses must respect, attached to no flag, whatever
its active lanes, and changes nothing else; the epoch of order hazards (R430) waits until the fence is passed. -/
def fencesRule : Prop :=
  ∀ (s : State) (c : Ctx) (scope kind : BitVec 2), s.ctx? = some c →
    ∃ u : Wave, u.pend = c.w.pend ++ [c.op (.fence kind.toNat) none [] false false scope.toNat] ∧
      u.nextPend = c.w.nextPend + 1 ∧
      { u with
        pend := c.w.pend
        nextPend := c.w.nextPend } = c.w ∧
      exec (.fence scope kind) s = .next (s.setWave (u.advance c.r))

/-- The accesses and fences of a wave that it has not performed when it orders them within its team (1) or its cluster group
(2), added to those that it owed before (R339; the model's own account, log entry 81). -/
def owedBy (w : Wave) (k : Nat) : List (Nat × Nat) :=
  w.debts ++ (w.pend.filter (fun p => p.kind.accesses || p.kind.isFence)).map (fun p => (p.id, k))

/-- The barrier instructions: the barrier, the count they name (0: every live wave), whether they wait, and the field they
read in the lowest active lane (R374, R375, R377). -/
def barrierRow (c : Ctx) (i : Instr) : Option (BarSite × Nat × Bool × List Nat) :=
  let named := fun (n : BitVec 7) (cc : BitVec 1) (b : BitVec 7) (waits : Bool) =>
    (BarSite.named c.w.team n.toNat, if cc = 1 then (c.w.reg c.first b.toNat).toNat % 2 ^ 7 else 0, waits,
      if cc = 1 then [b.toNat] else [])
  match i with
  | .bara n cc b => some (named n cc b false)
  | .barw n cc b => some (named n cc b true)
  | .cbar => (c.s.team? c.w.team).map (fun t => (BarSite.cluster t.grp, 0, true, []))
  | _ => none

/-- R373 to R375 and R377: BARA, BARW and CBAR at a barrier where the wave has not arrived in the current phase: the first
arrival of a phase fixes the count and a later one joins it; when the phase is not complete the barrier is FILLING with this
wave arrived, and when it is (and no wave waits to arrive again) the barrier is IDLE with the phase advanced. BARA lets the wave
go on, BARW and CBAR leave it waiting for that phase; the arrival releases, within the team or the cluster group, what the wave
has not performed (R345; log entry 81), and no other wave, no register and no memory changes. -/
def barriersRule : Prop :=
  ∀ (s : State) (c : Ctx) (i : Instr) (site : BarSite) (count : Nat) (waits : Bool) (fs : List Nat), s.ctx? = some c →
    barrierRow c i = some (site, count, waits, fs) →
    (∀ g, site = .cluster g → ∃ x, tget s.grps g = some x) → (∃ t, s.team? c.w.team = some t) →
    s.wave? c.w.uid = some c.w →
    passed (c.checkRegs fs) = true → passed (c.checkPoison [] fs []) = true →
    let b := s.barrier site
    s.barComplete site b = false → (b.filling = true → c.w.uid ∉ b.arrived) →
    (∀ v ∈ tvals s.waves, site.agains b.phase.toNat v = []) → site.agains b.phase.toNat c.w = [] →
    let arrived : Barrier :=
      { phase := b.phase
        filling := true
        expected := if b.filling then b.expected else count
        arrived := if b.filling then b.arrived ++ [c.w.uid] else [c.w.uid] }
    ∃ (t : State) (u : Wave), exec i s = .next t ∧ ({ u.sameSets c.w with debts := c.w.debts } : Wave) = c.w ∧
      u.debts = owedBy c.w (match site with | .named _ _ => 1 | .cluster _ => 2) ∧
      t.barrier site = (if s.barComplete site arrived then
        { phase := b.phase + 1
          filling := false
          expected := 0
          arrived := [] }
        else arrived) ∧
      t.wave? c.w.uid = some { u.advance c.r with
        afterEffect := true
        wait := if waits then site.waitFor b.phase.toNat else .none } ∧
      (∀ v, v ≠ c.w.uid → t.wave? v = s.wave? v) ∧ t.mem = s.mem

end Sys2Proof.Machine

/-- R372 to R377 and R407: cache hints, fences and barriers act as the definitions above say. -/
def Obligations.FencesAndBarriers : Prop :=
  cacheHintsRule ∧ fencesRule ∧ barriersRule

namespace Sys2Proof.Machine

/-- What the ring instructions that write a register name (R284, R286). -/
def ringReg (c : Ctx) (d : BitVec 7) (v : Word) : OpSpec :=
  { regs := [d.toNat]
    writes := c.act.map (fun l => c.w.put l d.toNat v (mkTag 3 0)) }

/-- R282: RINIT with a legal record, on a ring that no stream and no CPYRING uses and no wave waits on, whose slots lie in the
scratchpad, makes the ring with every slot FREE and every index 0. R286: RSTAT writes the counts of FILLED and FREE slots, the
slot count and bit 23 of a ring that is initialised, and 0 of one that is not, with tag UI32 in every active lane. -/
def ringSetUpRule : Prop :=
  ∀ (s : State) (c : Ctx) (r : BitVec 7), s.ctx? = some c →
    (∀ a : BitVec 7, (∃ t, s.team? c.w.team = some t) → s.ringStreamed c.w.team r.toNat = false →
      s.ringCopying c.w.team r.toNat = false → (s.ring c.w.team r.toNat).waiters = [] →
      passed (c.checkRegs [a.toNat, a.toNat + 1]) = true → passed (c.checkPoison [] [a.toNat, a.toNat + 1] []) = true →
      let base := (c.w.reg c.first a.toNat).toNat
      let g := (c.w.reg c.first (a.toNat + 1)).toNat
      let sl := g % 2 ^ 5
      let cl := g / 2 ^ 8
      4 ≤ sl → sl ≤ 16 → 1 ≤ cl → cl ≤ 6 → g / 2 ^ 5 % 2 ^ 3 = 0 → base % 2 ^ sl = 0 →
      s.scratchBad c.w 8 base (2 ^ (sl + cl)) = none →
      ∃ t, exec (.rinit a r) s = .next t ∧ t.mem = s.mem ∧
        (∃ u : Wave, u.sameSets c.w = c.w ∧ t.wave? c.w.uid = some { u.advance c.r with afterEffect := true }) ∧
        t.ring c.w.team r.toNat =
          { init := true
            base := base
            sizeLog := sl
            countLog := cl
            acq := 0
            pub := 0
            get := 0
            rel := 0
            slots := []
            held := []
            waiters := [] }) ∧
    (∀ d : BitVec 7,
      let x := s.ring c.w.team r.toNat
      let n := fun k => (List.range (2 ^ x.countLog)).countP (fun i => x.at i == k)
      let v := if x.init then n 3 + n 0 * 2 ^ 8 + 2 ^ x.countLog * 2 ^ 16 + 2 ^ 23 else 0
      c.passes (ringReg c d (BitVec.ofNat 32 v)) = true →
      c.Plain (ringReg c d (BitVec.ofNat 32 v)).writes 0 (exec (.rstat d r) s))

/-- RACQ and RGET: whether the instruction gets, the state of the slot it wants and the state it gives it (R283, R284). -/
def ringRow : Instr → Option (BitVec 7 × BitVec 7 × Bool)
  | .racq d r => some (d, r, false)
  | .rget d r => some (d, r, true)
  | _ => none

/-- R283 and R284: RACQ and RGET on an initialised ring that no wave waits on (for RGET, no stream's): when the slot at the
acquire index is FREE (RACQ) or that at the get index is FILLED (RGET), and the code that a handler interrupted does not wait
for the same, it becomes PRODUCING or CONSUMING, the index advances and its offset stands in d in every active lane that is
live; otherwise the wave waits in the ring's order and takes no slot. -/
def ringTakesRule : Prop :=
  ∀ (s : State) (c : Ctx) (i : Instr) (d r : BitVec 7) (get : Bool), s.ctx? = some c →
    ringRow i = some (d, r, get) → (∃ t, s.team? c.w.team = some t) →
    let x := s.ring c.w.team r.toNat
    let idx := if get then x.get else x.acq
    let slot := idx.toNat % 2 ^ x.countLog
    let free := decide (tgetD x.slots slot 0 = if get then 3 else 0)
    x.init = true → x.waiters = [] → (get = true → s.ringStreamed c.w.team r.toNat = false) →
    x.settle = x → c.w.heldWait.bind (Wait.ring? r.toNat get) = none →
    c.passes (ringReg c d 0) = true →
    ∃ (t : State) (u : Wave), exec i s = .next t ∧ t.mem = s.mem ∧ t.wave? c.w.uid = some u ∧
      (free = true → u.wait = .none ∧
        (∀ l ∈ c.act, l < 64 → u.isLive l = true → u.reg l d.toNat = BitVec.ofNat 32 (x.base + slot * 2 ^ x.sizeLog)) ∧
        (t.ring c.w.team r.toNat).waiters = [] ∧
        (t.ring c.w.team r.toNat).slots = tset x.slots slot (if get then 4 else 1) ∧
        (if get then (t.ring c.w.team r.toNat).get else (t.ring c.w.team r.toNat).acq) = idx + 1) ∧
      (free = false → t.ring c.w.team r.toNat = { x with waiters := [if get then .rget c.w.uid else .racq c.w.uid] } ∧
        u.wait = (if get then .rget r.toNat d.toNat (maskOf c.act) else .racq r.toNat d.toNat (maskOf c.act)))

/-- R283, R284 and R272: RPUB makes the PRODUCING slot that its offset names PUBLISHED, and RREL makes a CONSUMING one RELEASED
(for RREL, of no stream's ring, and for RPUB, a slot that no CPYRING holds); the moves in order that this allows are made and
the waves that wait are served; the wave releases within its team what it has not performed (R285; log entry 81). An offset that
names no slot in the needed state raises the scratchpad-bounds fault with reason 2. -/
def ringMovesRule : Prop :=
  ∀ (s : State) (c : Ctx) (a r : BitVec 7), s.ctx? = some c →
    let x := s.ring c.w.team r.toNat
    let off := (c.w.reg c.first a.toNat).toNat
    let slot := (off - x.base) / 2 ^ x.sizeLog
    let named := x.base ≤ off ∧ (off - x.base) % 2 ^ x.sizeLog = 0 ∧ slot < 2 ^ x.countLog
    x.init = true → passed (c.checkRegs [a.toNat]) = true → passed (c.checkPoison [] [a.toNat] []) = true →
    (named ∧ tgetD x.slots slot 0 = 1 ∧ slot ∉ x.held → ∃ u : Wave,
      ({ u.sameSets c.w with debts := c.w.debts } : Wave) = c.w ∧ u.debts = owedBy c.w 1 ∧
      exec (.rpub a r) s = .next ((s.setWave { u.advance c.r with afterEffect := true }).updateRing c.w.team r.toNat
        { x with slots := tset x.slots slot 2 })) ∧
    (named ∧ tgetD x.slots slot 0 = 4 ∧ s.ringStreamed c.w.team r.toNat = false → ∃ u : Wave,
      ({ u.sameSets c.w with debts := c.w.debts } : Wave) = c.w ∧ u.debts = owedBy c.w 1 ∧
      exec (.rrel a r) s = .next ((s.setWave { u.advance c.r with afterEffect := true }).updateRing c.w.team r.toNat
        { x with slots := tset x.slots slot 5 })) ∧
    (¬(named ∧ tgetD x.slots slot 0 = 1) →
      exec (.rpub a r) s = .next (c.trap (c.raiseAll 8 (2 * 2 ^ 29 + off % 2 ^ 25)))) ∧
    (¬(named ∧ tgetD x.slots slot 0 = 4) →
      exec (.rrel a r) s = .next (c.trap (c.raiseAll 8 (2 * 2 ^ 29 + off % 2 ^ 25))))

end Sys2Proof.Machine

/-- R282 to R286: the ring instructions act as the definitions above say. -/
def Obligations.Rings : Prop :=
  ringSetUpRule ∧ ringTakesRule ∧ ringMovesRule

/-! ### Bulk copies, digests and the block store (R272 to R281, R287 to R291, R429) -/

namespace Sys2Proof.Machine

/-- A bulk operation of the run in progress that starts now (R277, R280): it counts on its class's counter, and has all its
bytes, so many to read and so many to write, before it. -/
def Ctx.bulkOf (c : Ctx) (major : Nat) (kind : BulkKind) (colPrivate : Bool) (reads writes : Nat) : Bulk :=
  { id := c.s.nextId + 1
    wave := c.w.uid
    team := c.w.team
    launch := c.w.launch
    core := c.w.pcore
    tag := c.w.tag
    eng := c.s.nextId
    major := major
    kind := kind
    colPrivate := colPrivate
    faultWait := none
    cancelled := []
    serial := c.r.serial
    before := c.w.nextPend
    data :=
      { left := if reads = 0 then [] else [(0, reads)]
        got := [] }
    unput := if writes = 0 then [] else [(0, writes)]
    carried := false }

/-- The outcome of an instruction that starts a bulk operation of a counter class: the operation is in flight, its class's
counter has one more, the next run must open a region, and nothing else of the machine changes but `more`. -/
def Ctx.Starts (c : Ctx) (cls major : Nat) (kind : BulkKind) (colPrivate : Bool) (reads writes : Nat)
    (more : State → State) (out : Host.Outcome State Fault Refusal) : Prop :=
  ∃ u : Wave, ({ u.sameSets c.w with stall := c.w.stall } : Wave) = c.w ∧ u.stall = none ∧
    out = .next (more (({ c.s with
      nextId := c.s.nextId + 2
      eng := c.s.eng ++ [{ id := c.s.nextId, wave := c.w.uid, cls := cls, done := false }]
      bulk := tset c.s.bulk (c.s.nextId + 1) (c.bulkOf major kind colPrivate reads writes) } : State).setWave
        { u.advance c.r with afterEffect := true }))

/-- What a bulk instruction needs and starts: the fields named, those that must be even, those consumed in every active lane and
in the lowest one, whether its values are aligned and within limits, the scratchpad ranges, the counter class, the major opcode,
the operation, whether it may write column-private memory, and how many bytes it reads and writes. -/
structure BulkSpec where
  regs : List Nat
  pairs : List Nat
  reads : List Nat
  first : List Nat
  legal : Bool
  scratch : List (Nat × Nat)
  cls : Nat
  major : Nat
  kind : BulkKind
  priv : Bool
  reading : Nat
  writing : Nat

/-- The bulk instructions but CPYRING and DIGEST (R272 to R274, R289). -/
def bulkRow (c : Ctx) (i : Instr) : Option BulkSpec :=
  let copy := fun (d a : BitVec 7) (out : Bool) =>
    let base := (c.w.reg c.first d.toNat).toNat
    let n := (c.w.reg c.first (d.toNat + 1)).toNat
    let va := address c a 0 c.first
    ({ regs := [d.toNat, d.toNat + 1, a.toNat, a.toNat + 1]
       pairs := []
       reads := []
       first := [d.toNat, d.toNat + 1, a.toNat, a.toNat + 1]
       legal := base % 4 == 0 && n % 4 == 0 && decide (n ≤ 262144) && va % 4 == 0 && n != 0
       scratch := [(base, n)]
       cls := 0
       major := 0x2C
       kind := if out then .copyOut va base n else .copyIn va base n
       priv := out && c.intoPrivate va n
       reading := n
       writing := n } : BulkSpec)
  let lanes := fun (d a : BitVec 7) (z : BitVec 2) (out : Bool) =>
    let base := (c.w.reg c.first d.toNat).toNat
    let stride := (c.w.reg c.first (d.toNat + 1)).toNat
    let size := 4 * 2 ^ z.toNat
    let xs := c.act.map (fun l => (address c a 0 l, (base + l * stride) % 2 ^ 32))
    ({ regs := [d.toNat, d.toNat + 1, a.toNat, a.toNat + 1]
       pairs := []
       reads := [a.toNat, a.toNat + 1]
       first := [d.toNat, d.toNat + 1]
       legal := base % 4 == 0 && stride % 4 == 0 && stride != 0 && stride % size == 0 && xs.all (fun x => x.1 % size == 0)
       scratch := xs.map (fun x => (x.2, size))
       cls := 1
       major := 0x2C
       kind := if out then .scatter xs size else .gather xs size
       priv := out && xs.any (fun x => c.intoPrivate x.1 size)
       reading := xs.length * size
       writing := xs.length * size } : BulkSpec)
  let block := fun (d a b : BitVec 7) (store : Bool) =>
    let base := (c.w.reg c.first d.toNat).toNat
    let n := (c.w.reg c.first (d.toNat + 1)).toNat
    let off := (c.w.reg c.first b.toNat).toNat
    let name := BitVec.ofNat 64 (c.w.pair c.first a.toNat)
    ({ regs := [d.toNat, d.toNat + 1, a.toNat, a.toNat + 1, b.toNat]
       pairs := [a.toNat]
       reads := []
       first := [d.toNat, d.toNat + 1, a.toNat, a.toNat + 1, b.toNat]
       legal := base % 4 == 0 && n % 4 == 0 && decide (n ≤ 262144) && off % 4 == 0
       scratch := [(base, n)]
       cls := 0
       major := 0x2E
       kind := if store then .kvStore name off base n else .kvLoad name off base n
       priv := false
       reading := n
       writing := if store then 0 else n } : BulkSpec)
  match i with
  | .cpyin d a _ => some (copy d a false)
  | .cpyout d a _ => some (copy d a true)
  | .cpygath d a _ z => some (lanes d a z false)
  | .cpyscat d a _ z => some (lanes d a z true)
  | .kvld d a b => some (block d a b false)
  | .kvst d a b => some (block d a b true)
  | _ => none

/-- Whether the registers, limits and ranges of a bulk instruction pass their checks (R392). -/
def bulkPasses (c : Ctx) (b : BulkSpec) : Bool :=
  passed (c.checkRegs b.regs) && passed (c.checkFormat b.pairs [] true) && passed (c.checkPoison b.reads b.first []) && b.legal &&
    b.scratch.all (fun x => c.s.scratchBad c.w 8 x.1 x.2 == none)

/-- R273, R274, R279, R280, R289 and R170: CPYIN, CPYOUT (of at least one byte), CPYGATH, CPYSCAT, KVLD and KVST, when they pass
their checks and the core and the counter have room, start their operation; with no room, a wave that has its place in the
queue keeps its run slot and nothing changes. -/
def bulkIssueRule : Prop :=
  ∀ (s : State) (c : Ctx) (i : Instr) (b : BulkSpec), s.ctx? = some c → bulkRow c i = some b → bulkPasses c b = true →
    (c.mayBulk b.cls = true → c.Starts b.cls b.major b.kind b.priv b.reading b.writing id (exec i s)) ∧
    (c.mayBulk b.cls = false → c.w.stall ≠ none → exec i s = .next s)

/-- R264, R275, R276 and R429: CPYRING into an initialised ring, of 1 to its slot count of slots, those that it will take after what
waits before it all within scratchpad, starts its copy as the last that waits for the ring's free slots; PREF names its address
pair and does nothing else; DIGEST with an aligned descriptor of a legal range, whose lines its read converts (R149), starts the
digest of the bytes that it names, which holds no region open (R170). -/
def ringCopiesAndDigestsRule : Prop :=
  ∀ (s : State) (c : Ctx), s.ctx? = some c →
    (∀ d a r : BitVec 7,
      let fs := [d.toNat, a.toNat, a.toNat + 1]
      let va := address c a 0 c.first
      let n := (c.w.reg c.first d.toNat).toNat
      let x := s.ring c.w.team r.toNat
      passed (c.checkRegs fs) = true → passed (c.checkPoison [] fs []) = true → va % 4 = 0 → x.init = true →
      1 ≤ n → n ≤ 2 ^ x.countLog → (∀ i, i < n → s.scratchBad c.w 8
        (x.base + (x.acq.toNat + s.ringAhead c.w.team r.toNat + i) % 2 ^ x.countLog * 2 ^ x.sizeLog) (2 ^ x.sizeLog) = none) →
      c.mayBulk 0 = true → (∀ e ∈ tkeys s.bulk, e ≤ s.nextId) →
      c.Starts 0 0x2C (.ring va r.toNat n 0 []) false (n * 2 ^ x.sizeLog) (n * 2 ^ x.sizeLog)
        (fun t => t.setRing c.w.team r.toNat { x with waiters := x.waiters ++ [.copy (s.nextId + 1)] })
        (exec (.cpyring d a r) s)) ∧
    (∀ (a : BitVec 7) (l : BitVec 1), passed (c.checkRegs [a.toNat, a.toNat + 1]) = true →
      ∃ u : Wave, u.sameSets c.w = c.w ∧ exec (.pref a l) s = .next (s.setWave (u.advance c.r))) ∧
    (∀ (a : BitVec 7) (x0 x1 x2 x3 : Xlat),
      let fs := [a.toNat, a.toNat + 1]
      let va := address c a 0 c.first
      let word := fun (x : Xlat) => s.readNat c.w.tag x.ver x.key 8
      passed (c.checkRegs fs) = true → a.toNat % 2 = 0 → passed (c.checkPoison [] fs []) = true → va % 8 = 0 →
      c.translateAll .read ((List.range 4).map (fun i => (c.first, (va + 8 * i) % 2 ^ 64))) = .ok (.go [x0, x1, x2, x3]) →
      word x1 < 2 ^ 40 → word x2 % 32 = 0 → word x3 = 0 → c.mayBulk 0 = true →
      ({ c with s := s.convertAt ([x0, x1, x2, x3].map (fun x => (0, x.key, 8))) } : Ctx).Starts 0 0x35
        (.digest (word x0) (word x1) (word x2)) false (word x1) 0 id (exec (.digest a) s))

end Sys2Proof.Machine

/-- R272 to R277 and R429: bulk copies and digests start as the definitions above say. -/
def Obligations.BulkCopies : Prop :=
  bulkIssueRule ∧ ringCopiesAndDigestsRule

namespace Sys2Proof.Machine

/-- The name that a register pair holds in a lane (R287). -/
def nameOf (c : Ctx) (a : BitVec 7) (l : Nat) : DWord := BitVec.ofNat 64 (c.w.pair l a.toNat)

/-- What KVALLOC, KVFREE and KVSHARE name: their status register and the pairs of their names, read in the lowest active lane, which
must be even (R287, R288). -/
def nameSpec (c : Ctx) (d : BitVec 7) (names : List (BitVec 7)) : OpSpec :=
  { regs := d.toNat :: names.flatMap (fun a => [a.toNat, a.toNat + 1])
    pairs := names.map (fun a => a.toNat)
    first := names.flatMap (fun a => [a.toNat, a.toNat + 1])
    writes := c.act.map (fun l => c.w.put l d.toNat 0 (mkTag 3 0)) }

/-- The outcome of an instruction that leaves a name operation on the block store (R50, R288): its status register is tagged, the
operation is the wave's last, the wave waits for its status, the next run must open a region, and nothing else of the machine
changes. -/
def Ctx.AsksStore (c : Ctx) (o : OpSpec) (op : Nat) (d : BitVec 7) (name name2 : DWord)
    (out : Host.Outcome State Fault Refusal) : Prop :=
  ∃ (v : Wave) (n : Nat), out = .next (({ c.s with free := n } : State).setWave
      { v.advance c.r with afterEffect := true }) ∧ c.s.free ≤ n ∧
    Tagged c.w o.writes v ∧ v.wait = .ops ∧
    { v.butRegs c.w with
      pend := c.w.pend
      nextPend := c.w.nextPend
      wait := c.w.wait } = c.w ∧
    v.pend = c.w.pend ++ [c.op (.kvName op name name2 (c.act.map (fun l => (c.w.rowOf l d.toNat, l)))) none
      (dedup (o.writes.map (fun x => x.row))) false false 2]

/-- R287, R288 and R291: KVALLOC, KVFREE and KVSHARE, on operands that pass the checks, go on to a next state that tags their status
register UI32 and leaves their operation on the block store, for whose status the wave waits; KVMAP leaves each active lane's query
on flag sf1; KVSTAT tags d and d + 1 UI32 and waits for the wave's earlier name operations. -/
def blockNamesRule : Prop :=
  ∀ (s : State) (c : Ctx), s.ctx? = some c →
    (∀ d a : BitVec 7, c.passes (nameSpec c d [a]) = true →
      c.AsksStore (nameSpec c d [a]) 0 d (nameOf c a c.first) 0 (exec (.kvalloc d a) s)) ∧
    (∀ d a : BitVec 7, c.passes (nameSpec c d [a]) = true →
      c.AsksStore (nameSpec c d [a]) 1 d (nameOf c a c.first) 0 (exec (.kvfree d a) s)) ∧
    (∀ d a b : BitVec 7, c.passes (nameSpec c d [a, b]) = true →
      c.AsksStore (nameSpec c d [a, b]) 2 d (nameOf c a c.first) (nameOf c b c.first) (exec (.kvshare d a b) s)) ∧
    (∀ d a : BitVec 7,
      let o : OpSpec :=
        { regs := [d.toNat, a.toNat, a.toNat + 1]
          pairs := [a.toNat]
          reads := [a.toNat, a.toNat + 1]
          writes := c.act.map (fun l => c.w.put l d.toNat 0 (mkTag 3 0)) }
      c.passes o = true →
      c.Issues o.writes (c.op (.kvMap (c.act.map (fun l => (c.w.rowOf l d.toNat, l, nameOf c a l)))) (some c.sf1)
        (dedup (o.writes.map (fun x => x.row))) false false 2) false 0 (exec (.kvmap d a) s)) ∧
    (∀ d : BitVec 7,
      let o : OpSpec :=
        { regs := [d.toNat, d.toNat + 1]
          pairs := [d.toNat]
          writes := c.act.flatMap (fun l =>
            [c.w.put l d.toNat 0 (mkTag 3 0), c.w.put l (d.toNat + 1) 0 (mkTag 3 0)]) }
      c.passes o = true →
      ∃ (v : Wave) (n : Nat), exec (.kvstat d) s = .next (({ s with free := n } : State).setWave (v.advance c.r)) ∧
        s.free ≤ n ∧ Tagged c.w o.writes v ∧ v.wait = .kvstat d.toNat (maskOf c.act) ∧
        { v.butRegs c.w with
          wait := c.w.wait
          target := c.w.target } = c.w)

/-- Whether every name of a state but one of a domain resolves in another as it does in the first, for every caller (R142). -/
def otherNamesStand (s t : State) (dom name : Nat) : Prop :=
  ∀ d k g, (d ≠ dom ∨ k ≠ name) → t.kvBinding d k g = s.kvBinding d k g

/-- R288 and R262, KVALLOC: at an enabled store with a free block and name, a name with no reserved bit that resolves to none comes
to resolve to a new block of zeros with reference count 1 that the caller's tag owns, with status 0; every other name and block
stands. A name that resolves has status 1, and a store with no free block or name status 3: nothing changes. -/
def allocates (s : State) (dom : Nat) (name : DWord) (tag : BitVec 4) : Prop :=
  (s.kvBinding dom name.toNat tag = none → 0 < s.kvFreeBlocks → 0 < s.kvFreeNames → (∀ n ∈ s.kvNames, n.block < s.nextId) →
    ∃ t, s.kvAlloc dom name tag = (t, 0) ∧
      (∃ n b, t.kvBinding dom name.toNat tag = some n ∧ tget t.kvBlocks n.block = some b ∧ b.owner = tag ∧
        b.lost = false ∧ (∀ i, tgetD b.bytes i 0 = 0) ∧ t.kvRefs n.block = 1) ∧
      (∀ k, k ≠ s.nextId → tget t.kvBlocks k = tget s.kvBlocks k) ∧ otherNamesStand s t dom name.toNat ∧ t.mem = s.mem) ∧
  (s.kvBinding dom name.toNat tag ≠ none → s.kvAlloc dom name tag = (s, 1)) ∧
  (s.kvBinding dom name.toNat tag = none → (s.kvFreeBlocks = 0 ∨ s.kvFreeNames = 0) → s.kvAlloc dom name tag = (s, 3))

/-- R288 and R262, KVFREE of a name that is bound to a block that is not lost, at a store whose bindings are all different: the
freed binding is gone, so that a name with no other binding that the caller sees no longer resolves; whatever did not resolve to
that binding resolves as before, for every name and caller; the block goes with its last name, and every other block, or the
block while another name has it, stands. A name that resolves to none has status 2, and one of a lost block status 5. -/
def frees (s : State) (dom : Nat) (name : DWord) (tag : BitVec 4) : Prop :=
  (∀ n b, s.kvBinding dom name.toNat tag = some n → tget s.kvBlocks n.block = some b → b.lost = false → s.kvNames.Nodup →
    ∃ t, s.kvFree dom name tag = (t, 0) ∧ n ∉ t.kvNames ∧
      ((∀ m ∈ s.kvNames, m.domain = dom → m.name = name.toNat → (m.tag = tag ∨ m.tag = 0) → m = n) →
        t.kvBinding dom name.toNat tag = none) ∧
      (∀ d k g, s.kvBinding d k g ≠ some n → t.kvBinding d k g = s.kvBinding d k g) ∧
      ((∀ m ∈ s.kvNames, m.block = n.block → m = n) → tget t.kvBlocks n.block = none) ∧
      (∀ m ∈ s.kvNames, m ≠ n → m.block = n.block → tget t.kvBlocks n.block = some b) ∧
      (∀ k, k ≠ n.block → tget t.kvBlocks k = tget s.kvBlocks k) ∧ t.mem = s.mem) ∧
  (s.kvBinding dom name.toNat tag = none → s.kvFree dom name tag = (s, 2)) ∧
  (∀ n b, s.kvBinding dom name.toNat tag = some n → tget s.kvBlocks n.block = some b → b.lost = true →
    s.kvFree dom name tag = (s, 5))

/-- R288 and R262, KVSHARE of a name that resolves to a block that is not lost: a new name that resolves to none comes to resolve to
the same block, which has one reference more; no block changes and every other name stands. A first name that resolves to none has
status 2, one of a lost block 5; a new name with a reserved bit has status 7, one that resolves 1; a full count has status 4, and
a store with no free name 3: nothing changes. -/
def shares (s : State) (dom : Nat) (name new : DWord) (tag : BitVec 4) : Prop :=
  (s.kvBinding dom name.toNat tag = none → s.kvShare dom name new tag = (s, 2)) ∧
  ∀ n b, s.kvBinding dom name.toNat tag = some n → tget s.kvBlocks n.block = some b →
    (b.lost = true → s.kvShare dom name new tag = (s, 5)) ∧
    (b.lost = false →
      (2 ^ 44 ≤ new.toNat → s.kvShare dom name new tag = (s, 7)) ∧
      (new.toNat < 2 ^ 44 → s.kvBinding dom new.toNat tag ≠ none → s.kvShare dom name new tag = (s, 1)) ∧
      (new.toNat < 2 ^ 44 → s.kvBinding dom new.toNat tag = none →
        (65535 ≤ s.kvRefs n.block → s.kvShare dom name new tag = (s, 4)) ∧
        (s.kvRefs n.block < 65535 → s.kvFreeNames = 0 → s.kvShare dom name new tag = (s, 3)) ∧
        (s.kvRefs n.block < 65535 → 0 < s.kvFreeNames →
          ∃ t m, s.kvShare dom name new tag = (t, 0) ∧ t.kvBinding dom new.toNat tag = some m ∧ m.block = n.block ∧
            t.kvRefs n.block = s.kvRefs n.block + 1 ∧ t.kvBlocks = s.kvBlocks ∧ otherNamesStand s t dom new.toNat ∧
            t.mem = s.mem)))

/-- R287, R288, R262 and R291: what the name operations do at the block store, and their status. A disabled store answers 8, and a
name with a reserved bit 7: nothing changes. -/
def blockNameResultsRule : Prop :=
  ∀ (s : State) (dom : Nat) (name new : DWord) (tag : BitVec 4),
    (s.kvOn = false → s.kvAlloc dom name tag = (s, 8) ∧ s.kvFree dom name tag = (s, 8) ∧ s.kvShare dom name new tag = (s, 8)) ∧
    (s.kvOn = true → 2 ^ 44 ≤ name.toNat →
      s.kvAlloc dom name tag = (s, 7) ∧ s.kvFree dom name tag = (s, 7) ∧ s.kvShare dom name new tag = (s, 7)) ∧
    (s.kvOn = true → name.toNat < 2 ^ 44 → allocates s dom name tag ∧ frees s dom name tag ∧ shares s dom name new tag)

end Sys2Proof.Machine

/-- R262, R287 to R291: the block-store instructions act as the definitions above say. -/
def Obligations.BlockStore : Prop :=
  blockNamesRule ∧ blockNameResultsRule

/-! ### Rays and the matrix engine (R292 to R317, R329 to R336) -/

namespace Sys2Proof.Machine

/-- The operands of TRACE and TRACEQ (R329): ten ray registers, of which the first eight are F32, and `more`. -/
def rayOperands (a b : BitVec 7) (more : List Nat) (writes : List RegW) (reads : List Nat) : OpSpec :=
  { regs := (List.range 10).map (fun j => a.toNat + j) ++ more
    data := (List.range 8).map (fun j => (a.toNat + j, [1]))
    reads := (List.range 10).map (fun j => a.toNat + j) ++ reads
    kreads := [b.toNat]
    writes := writes }

end Sys2Proof.Machine

/-- R329 to R331, R333 and R336: TRACE and TRACEQ, on operands that pass the checks, with a root that is a multiple of 128 and
room in the engine, put one ray of each active lane in flight, with the lane's ten registers and the root; TRACE tags its six
results (t, u and v F32, the others UI32), counts one operation on the ray counter and changes no element; TRACEQ carries its
two payload words and writes no register. RQUERY writes the wave's ray counter, its core's rays and whether its engine holds
tasks, or a count of the engine, with tag UI32. -/
def Obligations.Rays : Prop :=
  ∀ (s : State) (c : Ctx), s.ctx? = some c →
    (∀ d a b : BitVec 7,
      let fs := (List.range 6).map (fun j => d.toNat + j)
      let o := rayOperands a b fs (c.act.flatMap (fun l => (List.range 6).map (fun j =>
        c.w.put l (d.toNat + j) 0 (mkTag (if j = 0 ∨ j = 3 ∨ j = 4 then 1 else 3) 0)))) []
      c.passes o = true → (c.w.kreg b.toNat).toNat % 128 = 0 →
      ((tvals s.rays).filter (fun r => r.core == c.w.pcore && r.result.isNone)).length + c.act.length ≤ 2048 →
      s.engCount c.w.uid 3 < 255 →
      ∃ (t : State) (v : Wave), exec (.trace d a b) s = .next t ∧ t.wave? c.w.uid = some (v.advance c.r) ∧
        Tagged c.w o.writes v ∧ v.butRegs c.w = c.w ∧ t.mem = s.mem ∧
        t.eng = s.eng ++ [{ id := s.nextId, wave := c.w.uid, cls := 3, done := false }] ∧
        ∀ (j l : Nat), c.act[j]? = some l → ∃ r, tget t.rays (s.nextId + 1 + j) = some r ∧ r.lane = l ∧
          r.eng = some s.nextId ∧ r.wave = c.w.uid ∧ r.root = c.w.kreg b.toNat ∧ r.result = none ∧
          r.regs = (List.range 10).map (fun i => c.w.reg l (a.toNat + i)) ∧ r.rows = fs.map (fun f => c.w.rowOf l f)) ∧
    (∀ d a b : BitVec 7,
      let o := rayOperands a b [d.toNat, d.toNat + 1] [] [d.toNat, d.toNat + 1]
      c.passes o = true → (c.w.kreg b.toNat).toNat % 128 = 0 →
      ((tvals s.rays).filter (fun r => r.core == c.w.pcore && r.result.isNone)).length + c.act.length ≤ 2048 →
      ∃ (t : State) (v : Wave), exec (.traceq d a b) s = .next t ∧ v.sameSets c.w = c.w ∧
        t.wave? c.w.uid = some { v.advance c.r with afterEffect := true } ∧ t.mem = s.mem ∧ t.eng = s.eng ∧
        ∀ (j l : Nat), c.act[j]? = some l → ∃ r, tget t.rays (s.nextId + j) = some r ∧ r.lane = l ∧ r.eng = none ∧
          r.wave = c.w.uid ∧ r.root = c.w.kreg b.toNat ∧ r.result = none ∧
          r.regs = (List.range 10).map (fun i => c.w.reg l (a.toNat + i)) ∧
          r.payload = [c.w.reg l d.toNat, c.w.reg l (d.toNat + 1)]) ∧
    (∀ d item : BitVec 7,
      let v := if item = 0 then
          s.engCount c.w.uid 3 +
            ((tvals s.rays).filter (fun r => r.core == c.w.pcore && r.result.isNone)).length % 2 ^ 12 * 2 ^ 8 +
            (if s.heldTasks.any (fun h => h.source == 1 && h.place == c.w.pcore) then 2 ^ 20 else 0)
        else ((tgetD s.rayCounts c.w.pcore [])[item.toNat - 1]?.getD 0).toNat
      let o : OpSpec :=
        { regs := [d.toNat]
          writes := c.act.map (fun l => c.w.put l d.toNat (BitVec.ofNat 32 v) (mkTag 3 0)) }
      c.passes o = true → c.Plain o.writes 0 (exec (.rquery d item) s))

namespace Sys2Proof.Machine

/-- R294 to R296: GANG with a legal member word of 2 to 6 distinct members that exist, on a register whose latch is empty, sets
the register: its members, an empty latch and empty reuse latches. -/
def gangRegistersRule : Prop :=
  ∀ (s : State) (c : Ctx) (d a : BitVec 7) (tm : Team) (u : Grp), s.ctx? = some c → s.team? c.w.team = some tm →
    tget s.grps tm.grp = some u →
    c.passes { regs := [a.toNat, a.toNat + 1], pairs := [a.toNat], first := [a.toNat, a.toNat + 1] } = true →
    let m := c.w.pair c.first a.toNat
    let n := m / 2 ^ 56
    let members := (List.range n).map (fun i => (m / 2 ^ (8 * i + 6) % 4, m / 2 ^ (8 * i) % 64))
    2 ≤ n → n ≤ 6 → m % 2 ^ 56 < 2 ^ (8 * n) → members.Nodup →
    (∀ x ∈ members, x.1 < u.teams.length ∧ x.2 < tm.waves) → (s.gang tm.grp d.toNat).latch = [] →
    ∃ (t : State) (v : Wave), exec (.gang d a) s = .next t ∧ v.sameSets c.w = c.w ∧
      t.wave? c.w.uid = some (v.advance c.r) ∧
      t.gang tm.grp d.toNat =
        { members := members
          latch := []
          complete := false
          reuse := []
          retired := false
          waited := 0 } ∧
      (∀ k, k ≠ d.toNat → t.gang tm.grp k = s.gang tm.grp k) ∧ t.mem = s.mem ∧ t.teams = s.teams

/-- The joint operations by number (R301): operation, tile, first register, gang, stream and whether the fragment is kept. -/
def mmaRow : Instr → Option (Nat × BitVec 6 × BitVec 7 × BitVec 4 × BitVec 3 × BitVec 1)
  | .mma d a g st r => some (0, d, a, g, st, r)
  | .mman d a g st r => some (1, d, a, g, st, r)
  | .mmas d a g st r => some (2, d, a, g, st, r)
  | _ => none

/-- R298, R300, R301, R303 and R306: MMA, MMAN and MMAS of a listed member, on a tile of its allotment, an open stream with its
gang among the subscribers, a fragment in registers of one legal tag that fits the stream and the tile, when the latch is not
complete and holds no arrival that it would clash with: the member arrives with its fragment (every lane's elements), its wave
waits on the gang, its matrix counter has one more operation, and the latch is complete when every member has arrived. -/
def jointOperationsRule : Prop :=
  ∀ (s : State) (c : Ctx) (i : Instr) (op : Nat) (d : BitVec 6) (a : BitVec 7) (g : BitVec 4) (st : BitVec 3) (r : BitVec 1)
    (tm : Team) (u : Grp) (m : Nat) (tag : BitVec 16),
    s.ctx? = some c → mmaRow i = some (op, d, a, g, st, r) → s.team? c.w.team = some tm → tget s.grps tm.grp = some u →
    let gg := s.gang tm.grp g.toNat
    let x := s.stream tm.grp st.toNat
    let n := fragRegs (pairK (tagFmt tag) x.fmt) (elemCount (tagFmt tag)) c.w.width
    d.toNat < tm.accTiles → x.st = 1 → gg.members.findIdx? (fun y => y == (tm.rank, c.w.idx)) = some m →
    tget gg.reuse m = none → c.fragTag a.toNat (some x.fmt) = (tag, true) → isMatFmt (tagFmt tag) = true →
    passed (c.checkRegs ((List.range n).map (fun j => a.toNat + j))) = true →
    matFormatOk op (tagParts tag) x.parts (s.tile c.w.team d.toNat).tag = true →
    (x.subs.any (fun y => y.gang == g.toNat)) = true → gg.retired = false → gg.complete = false →
    s.engCount c.w.uid 2 < 255 → (∀ b ∈ gg.latch, b.op = op ∧ b.stream = st.toNat) →
    (∀ b ∈ gg.latch, b.team = c.w.team → b.tile ≠ d.toNat) →
    ∃ (t : State) (v : Wave) (y : Arrival), exec i s = .next t ∧ ({ v.sameSets c.w with wait := c.w.wait } : Wave) = c.w ∧
      v.wait = .gang g.toNat ∧ t.wave? c.w.uid = some { v.advance c.r with afterEffect := true } ∧
      t.eng = s.eng ++ [{ id := s.nextId, wave := c.w.uid, cls := 2, done := false }] ∧
      (t.gang tm.grp g.toNat).latch = gg.latch ++ [y] ∧
      ((t.gang tm.grp g.toNat).complete = true ↔
        ∀ k, k < gg.members.length → k = m ∨ ∃ b ∈ gg.latch, b.member = k) ∧
      y.member = m ∧ y.wave = c.w.uid ∧ y.team = c.w.team ∧ y.op = op ∧ y.stream = st.toNat ∧ y.tile = d.toNat ∧
      y.offset = c.w.pc ∧ y.frag.tag = tag ∧
      (∀ (j l : Nat), j < n → l < c.w.width → c.w.width ≤ 64 →
        tgetD y.frag.words (64 * j + l) 0 = c.w.reg l (a.toNat + j)) ∧
      tget (t.gang tm.grp g.toNat).reuse m = (if r = 1 then some y.frag else none)

/-- The table entry that an accumulator operation takes (R306). -/
def accEntry (c : Ctx) (tile : Nat) (counted : Bool) (kind : ResvKind) : Resv :=
  { id := if counted then c.s.nextId + 1 else c.s.nextId
    cluster := c.s.clusterOf c.grp
    team := c.w.team
    wave := c.w.uid
    eng := if counted then c.s.nextId else 0
    prio := c.w.prio
    tiles := [(c.w.team, tile)]
    kind := kind
    granted := false
    raised := false
    readyAt := none }

/-- The outcome of an accumulator instruction: its wave is `u`, its table entry is taken, it counts on the matrix counter where
`counted`, and its tile has the tag given. -/
def Ctx.Accumulates (c : Ctx) (u : Wave) (tile : Nat) (counted : Bool) (kind : ResvKind) (tag : BitVec 16)
    (out : Host.Outcome State Fault Refusal) : Prop :=
  ∃ t : State, out = .next t ∧ t.wave? c.w.uid = some u ∧ (t.tile c.w.team tile).tag = tag ∧
    (t.tile c.w.team tile).elems = (c.s.tile c.w.team tile).elems ∧
    tget t.resv (accEntry c tile counted kind).id = some (accEntry c tile counted kind) ∧
    t.eng = c.s.eng ++ (if counted then [{ id := c.s.nextId, wave := c.w.uid, cls := 2, done := false }] else []) ∧
    t.mem = c.s.mem

/-- Whether the record of ACCLD and ACCST passes its checks (R316). -/
def accRecordOk (c : Ctx) (a : BitVec 7) : Bool :=
  let base := (c.w.reg c.first a.toNat).toNat
  passed (c.checkRegs [a.toNat, a.toNat + 1]) && passed (c.checkPoison [] [a.toNat, a.toNat + 1] []) && base % 8 == 0 &&
    (c.w.reg c.first (a.toNat + 1)).toNat == 32768 && c.s.scratchBad c.w 8 base 32768 == none

/-- R293, R306 and R315 to R317: ACCZ, ACCLD, ACCST and ACCRD of a tile of the allotment, well formed, on operands that pass the
checks, with a free table entry and room on the counter, take their entry; ACCZ and ACCLD write the tile's tag at issue (ACCZ
its format and scale, ACCLD its format with scale 0 for A36 and the tile's scale for I36), ACCRD tags its eight registers, or
v[d] alone for stat. -/
def accumulatorsRule : Prop :=
  ∀ (s : State) (c : Ctx) (tm : Team), s.ctx? = some c → s.team? c.w.team = some tm →
    ((tvals s.resv).filter (fun e => e.cluster == s.clusterOf c.grp)).length < 32 → s.engCount c.w.uid 2 < 255 →
    (∀ (d : BitVec 7) (f : BitVec 5) (sv : BitVec 8), d.toNat < tm.accTiles →
      let tag := BitVec.ofNat 16 (f.toNat * 2 ^ 11 + sv.toNat)
      c.Accumulates (c.w.advance c.r) d.toNat false (.accz d.toNat tag) tag (exec (.accz d f sv) s)) ∧
    (∀ (d a : BitVec 7) (f : BitVec 5), d.toNat < tm.accTiles → accRecordOk c a = true →
      let base := (c.w.reg c.first a.toNat).toNat
      let tag := BitVec.ofNat 16 (f.toNat * 2 ^ 11 + (if f = 20 then 0 else (s.tile c.w.team d.toNat).tag.toNat % 2 ^ 8))
      ∃ v : Wave, v.sameSets c.w = c.w ∧
        c.Accumulates (v.advance c.r) d.toNat true (.accld d.toNat f.toNat base tag) tag (exec (.accld d a f) s)) ∧
    (∀ d a : BitVec 7, d.toNat < tm.accTiles → accRecordOk c a = true →
      ∃ v : Wave, v.sameSets c.w = c.w ∧
        c.Accumulates { v.advance c.r with afterEffect := true } d.toNat true
          (.accst d.toNat (c.w.reg c.first a.toNat).toNat) (s.tile c.w.team d.toNat).tag (exec (.accst d a) s)) ∧
    (∀ (d a : BitVec 7) (toF32 stat : BitVec 1) (chunk : BitVec 5),
      (Instr.accrd d a toF32 stat chunk).wellFormed = true → a.toNat < tm.accTiles →
      (stat = 0 → chunk.toNat < 4096 / (8 * c.w.width)) →
      let tag := (s.tile c.w.team a.toNat).tag
      let fs := (List.range (if stat = 1 then 1 else 8)).map (fun j => d.toNat + j)
      let fmt := if stat = 1 then 3 else if tagFmt tag = 20 ∨ toF32 = 1 then 1 else 2
      let o : OpSpec :=
        { regs := fs
          writes := c.act.flatMap (fun l => fs.map (fun f => c.w.put l f 0 (mkTag fmt 0))) }
      c.passes o = true →
      ∃ v : Wave, Tagged c.w o.writes v ∧ v.butRegs c.w = c.w ∧
        c.Accumulates (v.advance c.r) a.toNat true
          (.accrd a.toNat chunk.toNat tag (stat == 1) (toF32 == 1)
            (c.act.map (fun l => (l, fs.map (fun f => c.w.rowOf l f))))) tag (exec (.accrd d a toF32 stat chunk) s))

end Sys2Proof.Machine

/-- R298 to R303, R306 and R315 to R317: matrix operations and accumulator instructions issue as the definitions above say. -/
def Obligations.MatrixIssue : Prop :=
  jointOperationsRule ∧ accumulatorsRule

namespace Sys2Proof.Machine

/-- R309 to R314: STRMOPEN of a CLOSED stream with a legal descriptor, on a ring of the team that no stream uses, whose slots
hold a B fragment and lie in the scratchpad, and with subscribers of distinct gangs, makes the stream OPEN with every subscriber
at position 0. STRMCLOSE of a CLOSED stream ends its run; of an OPEN one that no latch and no table entry names, and that holds
no slot, it makes the stream CLOSED, and the wave's wait for that is over at once. STRMSTAT writes the stream's state, ring,
subscribers and slots, with tag UI32. -/
def streamsRule : Prop :=
  ∀ (s : State) (c : Ctx) (tm : Team) (u : Grp), s.ctx? = some c → s.team? c.w.team = some tm → tget s.grps tm.grp = some u →
    (∀ d a : BitVec 7,
      let v := (c.w.reg c.first a.toNat).toNat
      let fmt := v / 2 ^ 8 % 2 ^ 5
      let scale := v / 2 ^ 16 % 2 ^ 8
      let ring := v % 2 ^ 4
      let r := s.ring c.w.team ring
      let subs := subsOf (c.w.reg c.first (a.toNat + 1)).toNat
      passed (c.checkRegs [a.toNat, a.toNat + 1]) = true → passed (c.checkPoison [] [a.toNat, a.toNat + 1] []) = true →
      v = ring + fmt * 2 ^ 8 + scale * 2 ^ 16 → isMatFmt fmt = true → (isNarrow fmt = true ∨ scale = 0) → r.init = true →
      fragBytes (shapeK fmt) (elemCount fmt) ≤ 2 ^ r.sizeLog →
      s.scratchBad c.w 8 r.base (2 ^ r.countLog * 2 ^ r.sizeLog) = none → (s.stream tm.grp d.toNat).st = 0 →
      s.ringStreamed c.w.team ring = false → subs ≠ [] → (subs.map (fun y => y.gang)).Nodup →
      ∃ (t : State) (w : Wave), exec (.strmopen d a) s = .next t ∧ w.sameSets c.w = c.w ∧
        t.wave? c.w.uid = some { w.advance c.r with afterEffect := true } ∧
        t.stream tm.grp d.toNat =
          { st := 1
            team := c.w.team
            ring := ring
            fmt := fmt
            scale := BitVec.ofNat 8 scale
            subs := subs
            taken := []
            freed := 0 } ∧
        (∀ y ∈ subs, y.pos = 0 ∧ y.window ≠ 0)) ∧
    (∀ d : BitVec 7, (s.stream tm.grp d.toNat).st = 0 →
      exec (.strmclose d) s = .next (s.setWave { c.w.advance c.r with afterEffect := true })) ∧
    (∀ d : BitVec 7, (s.stream tm.grp d.toNat).st = 1 → (s.stream tm.grp d.toNat).taken = [] →
      (∀ e ∈ tvals s.resv, e.names tm.grp d.toNat = false) →
      (∀ e ∈ u.gangs, ∀ b ∈ e.2.latch, b.stream ≠ d.toNat) →
      ∃ (t : State) (v : Wave), exec (.strmclose d) s = .next t ∧ (t.stream tm.grp d.toNat).st = 0 ∧
        t.wave? c.w.uid = some v ∧ v.wait = .none ∧
        ({ v with frame := c.w.frame, wait := c.w.wait } : Wave) = { c.w.advance c.r with afterEffect := true }) ∧
    (∀ (d : BitVec 7) (sv : BitVec 3),
      let x := s.stream tm.grp sv.toNat
      let v := if x.st = 0 then 0
        else (if x.st = 1 then 1 else 2) + x.ring * 2 ^ 2 + x.subs.length * 2 ^ 8 + x.taken.length * 2 ^ 16
      let o : OpSpec :=
        { regs := [d.toNat]
          writes := c.act.map (fun l => c.w.put l d.toNat (BitVec.ofNat 32 v) (mkTag 3 0)) }
      c.passes o = true → c.Plain o.writes 0 (exec (.strmstat d sv) s))

end Sys2Proof.Machine

/-- R294 to R296 and R309 to R314: gang registers and streams act as the definitions above say. -/
def Obligations.GangsAndStreams : Prop :=
  gangRegistersRule ∧ streamsRule

/-! ### Tasks, the combine buffer, branches and run headers (R39, R54, R176, R191, R194, R195, R378 to R390, R431 to R436) -/

namespace Sys2Proof.Machine

/-- The outcome of an effect instruction that writes registers at once: the writes are made, the next run must open a region,
and the machine is as `more` says. -/
def Ctx.Answers (c : Ctx) (ws : List RegW) (more : State → Prop) (out : Host.Outcome State Fault Refusal) : Prop :=
  ∃ (t : State) (v : Wave), out = .next t ∧ t.wave? c.w.uid = some { v.advance c.r with afterEffect := true } ∧
    Wrote c.w ws v ∧ v.butRegs c.w = c.w ∧ t.mem = c.s.mem ∧ more t

/-- The outcome of an effect instruction that leaves its wave waiting for its answer, with the tags of its destination
written. -/
def Ctx.Awaits (c : Ctx) (ws : List RegW) (wait : Wait) (more : State → Prop) (out : Host.Outcome State Fault Refusal) : Prop :=
  ∃ (t : State) (v : Wave), out = .next t ∧ t.wave? c.w.uid = some { v.advance c.r with afterEffect := true } ∧
    Tagged c.w ws v ∧ v.wait = wait ∧
    { v.butRegs c.w with
      wait := c.w.wait } = c.w ∧ t.mem = c.s.mem ∧ more t

/-- The writes of one status for each active lane to d, with tag UI32. -/
def statusWrites (c : Ctx) (d : BitVec 7) (v : Nat → Nat) : List RegW :=
  c.act.map (fun l => c.w.put l d.toNat (BitVec.ofNat 32 (v l)) (mkTag 3 0))

/-- What an instruction that acts once and answers a status in d names: registers `fs`, read in the lowest active lane. -/
def onceSpec (c : Ctx) (d : BitVec 7) (fs pairs : List Nat) : OpSpec :=
  { regs := d.toNat :: fs
    pairs := pairs
    first := fs
    writes := statusWrites c d (fun _ => 0) }

/-- The enqueue instructions: whether they wait (R378, R379). -/
def enqRow : Instr → Option (BitVec 7 × BitVec 7 × BitVec 7 × Bool)
  | .enqt d a b => some (d, a, b, true)
  | .enqtn d a b => some (d, a, b, false)
  | _ => none

end Sys2Proof.Machine

/-- R378 and R379: ENQT and ENQTN, on operands that pass the checks, where every active lane's table entry can be read, whose lines
the reads convert (R149): a lane whose index is invalid gets status 2, every other lane status 3 when the depth is beyond task_depth.
When entries for all the rest are free together, they are accepted in ascending lane order with their records, keys (0 takes the
entry's), tag and depth, and get status 0; otherwise ENQTN gives them status 1, and ENQT leaves its wave waiting and nothing
accepted. That status 2 is answered before status 3 is the model's own choice (log entry 20, DEDUCED). -/
def Obligations.TaskEnqueue : Prop :=
  ∀ (s : State) (c : Ctx) (i : Instr) (d a b : BitVec 7) (waits : Bool) (l : Launch), s.ctx? = some c →
    enqRow i = some (d, a, b, waits) → s.launch? c.w.launch = some l → s.dropsTag c.w.tag = false →
    l.stopDispatch = false →
    let grp := (List.range 8).map (fun j => a.toNat + j)
    let o : OpSpec :=
      { regs := d.toNat :: b.toNat :: grp
        reads := b.toNat :: grp
        writes := statusWrites c d (fun _ => 0) }
    let word := fun k => (c.w.reg k b.toNat).toNat
    let entry := fun k => s.taskEntry l c.w.cancelled c.w.tag (word k % 2 ^ 16)
    let valid := c.act.filter (fun k => entry k != .invalid)
    let deep := decide (l.record.toNat / 2 ^ 432 % 2 ^ 4 < c.w.depth + 1)
    let taken := if deep then [] else valid
    let read : Ctx := { c with s := s.convertAt (c.act.flatMap (fun k => s.tablePlaces l c.w.cancelled (word k % 2 ^ 16))) }
    let status := fun (v k : Nat) => if entry k = .invalid then 2 else if deep then 3 else v
    c.passes o = true → (∀ k ∈ valid, ∃ off role key, entry k = .entry off role key) →
    (taken.length ≤ s.poolFree c.w.launch →
      read.Answers (statusWrites c d (status 0)) (fun t => ∃ ts, t.pool = s.pool ++ ts ∧ ts.length = taken.length ∧
        ∀ (j k : Nat), taken[j]? = some k → ∃ x, ts[j]? = some x ∧ x.launch = c.w.launch ∧ x.entry = word k % 2 ^ 16 ∧
          x.tag = c.w.tag ∧ x.depth = c.w.depth + 1 ∧ x.record = grp.map (fun f => c.w.reg k f) ∧
          x.accept = l.nextAccept + j ∧
          ∀ off role key, entry k = .entry off role key →
            x.key = BitVec.ofNat 16 (if word k / 2 ^ 16 = 0 then key else word k / 2 ^ 16)) (exec i s)) ∧
    (s.poolFree c.w.launch < taken.length → waits = false →
      read.Answers (statusWrites c d (status 1)) (fun t => t.pool = s.pool) (exec i s)) ∧
    (s.poolFree c.w.launch < taken.length → waits = true →
      ∃ (t : State) (u : Wave), exec i s = .next t ∧ t.pool = s.pool ∧ t.mem = read.s.mem ∧
        t.wave? c.w.uid = some u ∧ u.wait = .enqt d.toNat (maskOf taken) ∧
        (t.heldTasks.filter (fun h => h.source == 3 && h.place == c.w.uid)).length =
          (s.heldTasks.filter (fun h => h.source == 3 && h.place == c.w.uid)).length + taken.length)

namespace Sys2Proof.Machine

/-- R381, R382 and R388: CBOPEN on an aligned record that translates answers 0xFFFFFFFD with no region and 0xFFFFFFFE for an
invalid record; a valid one opens its group when it fits and no CBOPEN waits (every token COLLECTING with no sum, the handle its
number and new generation), answers 0xFFFFFFFF without W when it does not, and waits last in the order with W. The lines that it
has read are converted (R149). CBCLOSE of a handle that names no group does nothing, and to one that does applies the substitution
of the deadline step, whose releases follow (CB_DEADLINE). -/
def combineGroupsRule : Prop :=
  ∀ (s : State) (c : Ctx), s.ctx? = some c →
    (∀ (d a : BitVec 7) (wt : BitVec 1) (x : Xlat) (es : List Xlat),
      let o := onceSpec c d [a.toNat, a.toNat + 1] []
      let va := address c a 0 c.first
      let header := BitVec.ofNat 512 (s.readNat c.w.tag x.ver x.key 64)
      let entries := es.map (fun y => BitVec.ofNat 512 (s.readNat c.w.tag y.ver y.key 64))
      let units := s.regs.sramcfg.toNat % 2 ^ 4 * 4096
      let ok := entries.all (fun e => entryOk header.toNat e.toNat) && decide (groupUnits header entries ≤ units)
      let room := s.cbWaiters.isEmpty && decide (s.cbUsed + groupUnits header entries ≤ units) &&
        decide (s.groups.length < 4096)
      let read : List Xlat → Ctx := fun ys => { c with s := s.convertAt (ys.map (fun y => (0, y.key, 64))) }
      let answered := fun (ys : List Xlat) (v : Nat) =>
        (read ys).Answers (statusWrites c d (fun _ => v)) (fun t => t.groups = s.groups) (exec (.cbopen d a wt) s)
      c.passes o = true → va % 64 = 0 → s.dropsTag c.w.tag = false → c.onceXlate .read [va] = .ok (.go [x]) →
      (units = 0 → answered [x] 0xFFFFFFFD) ∧ (units ≠ 0 → headerOk header.toNat = false → answered [x] 0xFFFFFFFE) ∧
      (units ≠ 0 → headerOk header.toNat = true →
        c.onceXlate .read ((List.range (header.toNat % 2 ^ 13)).map (fun t => (va + 64 + 64 * t) % 2 ^ 64)) = .ok (.go es) →
        (ok = false → answered (x :: es) 0xFFFFFFFE) ∧
        (ok = true → room = true → ∃ (n : Nat) (g : CbGroup), n < 4096 ∧ tget s.groups n = none ∧ g.num = n ∧
          g.gen = tgetD s.generations n 0 + 1 ∧ g.header = header ∧ g.launch = c.w.launch ∧ g.tag = c.w.tag ∧
          g.tokens.map (fun e => e.2.entry) = entries ∧ (∀ e ∈ g.tokens, e.2.st = 1 ∧ e.2.sums = [] ∧ e.2.arrived = 0) ∧
          (read (x :: es)).Answers (statusWrites c d (fun _ => n + g.gen.toNat * 2 ^ 16))
            (fun t => t.groups = tset s.groups n g) (exec (.cbopen d a wt) s)) ∧
        (ok = true → room = false → wt = 0 → answered (x :: es) 0xFFFFFFFF) ∧
        (ok = true → room = false → wt = 1 → (read (x :: es)).Awaits o.writes (.cbopen d.toNat (maskOf c.act) header entries)
          (fun t => t.cbWaiters = s.cbWaiters ++ [c.w.uid] ∧ t.groups = s.groups) (exec (.cbopen d a wt) s)))) ∧
    (∀ a : BitVec 7, passed (c.checkRegs [a.toNat]) = true → passed (c.checkPoison [] [a.toNat] []) = true →
      ∃ v : Wave, v.sameSets c.w = c.w ∧
        let t := s.setWave { v.advance c.r with afterEffect := true }
        exec (.cbclose a) s = .next (match s.cbGroup? c.dom (c.w.reg c.first a.toNat) with
          | none => t
          | some g => t.cbSubstitute g))

/-- R383 and R389: CBPUT, on operands that pass the checks, where every active lane's handle names an open group of its domain
and its source is aligned or lies in the scratchpad, puts one move of each lane in flight, with its handle, token, expert,
source and extent, as one operation on the combine counter; where no lane's handle is valid nothing moves and every arrival is
counted late. CBSTAT leaves the query of each active lane's handle and token on flag sf1. -/
def combineArrivalsRule : Prop :=
  ∀ (s : State) (c : Ctx), s.ctx? = some c →
    (∀ (d a : BitVec 7) (sv : BitVec 1) (l : Launch),
      let fs := [d.toNat, d.toNat + 1, a.toNat] ++ (if sv = 1 then [] else [a.toNat + 1])
      let src := fun k => if sv = 1 then (c.w.reg k a.toNat).toNat else address c a 0 k
      let group := fun k => s.cbGroup? c.dom (c.w.reg k d.toNat)
      let esize := fun (g : CbGroup) => if g.header.toNat / 2 ^ 48 % 4 = 0 then 4 else 2
      let extent := fun (g : CbGroup) => g.header.toNat / 2 ^ 32 % 2 ^ 16 * esize g
      passed (c.check { regs := fs, reads := fs }) = true → s.engCount c.w.uid 4 < 255 → c.act ≠ [] →
      s.launch? c.w.launch = some l →
      ((∀ k ∈ c.act, ∃ g, group k = some g ∧ (sv = 0 → src k % esize g = 0) ∧
          (sv = 1 → s.scratchBad c.w 8 (src k) (extent g) = none)) →
        ∃ (t : State) (v : Wave), exec (.cbput d a sv) s = .next t ∧ v.sameSets c.w = c.w ∧
          t.wave? c.w.uid = some { v.advance c.r with afterEffect := true } ∧ t.mem = s.mem ∧
          t.eng = s.eng ++ [{ id := s.nextId, wave := c.w.uid, cls := 4, done := false }] ∧
          ∀ (j k : Nat) (g : CbGroup), c.act[j]? = some k → group k = some g →
            ∃ m, tget t.moves (s.nextId + 1 + j) = some m ∧ m.eng = s.nextId ∧ m.handle = c.w.reg k d.toNat ∧
              m.token = (c.w.reg k (d.toNat + 1)).toNat % 2 ^ 12 ∧
              m.expert = (c.w.reg k (d.toNat + 1)).toNat / 2 ^ 16 % 2 ^ 8 ∧ m.src = src k ∧ m.len = extent g ∧
              m.fromScratch = (sv == 1) ∧ m.tag = c.w.tag ∧ m.gid = s.globalLane c.w k) ∧
      ((∀ k ∈ c.act, group k = none) →
        ∃ (t : State) (v : Wave), exec (.cbput d a sv) s = .next t ∧ v.sameSets c.w = c.w ∧
          t.wave? c.w.uid = some { v.advance c.r with afterEffect := true } ∧ t.mem = s.mem ∧ t.moves = s.moves ∧
          (l.late.toNat + c.act.length < 2 ^ 32 →
            ∃ m, t.launch? c.w.launch = some m ∧ m.late.toNat = l.late.toNat + c.act.length))) ∧
    (∀ d a : BitVec 7,
      let o : OpSpec :=
        { regs := [d.toNat, a.toNat, a.toNat + 1]
          pairs := [a.toNat]
          reads := [a.toNat, a.toNat + 1]
          writes := statusWrites c d (fun _ => 0) }
      c.passes o = true →
      c.Issues o.writes (c.op (.cbStat (c.act.map (fun l =>
        (c.w.rowOf l d.toNat, l, c.w.reg l a.toNat, c.w.reg l (a.toNat + 1)))))
        (some c.sf1) (dedup (o.writes.map (fun x => x.row))) false false 2) false 0 (exec (.cbstat d a) s))

end Sys2Proof.Machine

/-- R381 to R383, R388 and R389: the combine instructions act as the definitions above say. -/
def Obligations.CombineInstructions : Prop :=
  combineGroupsRule ∧ combineArrivalsRule

namespace Sys2Proof.Machine

/-- R431 and R432: BRID writes the wave's tag, branch index and set id and bit 10 (0 for an untagged wave) with tag UI32, and
VSTAT the state codes of all tags in the pair d, d + 1, in every active lane. -/
def branchQueriesRule : Prop :=
  ∀ (s : State) (c : Ctx) (d : BitVec 7), s.ctx? = some c →
    (∀ v, (c.w.tag = 0 → v = 0) →
      (∀ x, c.w.tag ≠ 0 → s.setOf? c.w.tag = some x →
        v = c.w.tag.toNat + x.tags.findIdx (fun t => t == c.w.tag) % 2 ^ 3 * 2 ^ 4 + x.id % 2 ^ 2 * 2 ^ 8 + 2 ^ 10) →
      (c.w.tag ≠ 0 → s.setOf? c.w.tag ≠ none) →
      let o := readSpec c d.toNat false (fun _ => v)
      c.passes o = true → c.Plain o.writes 0 (exec (.brid d) s)) ∧
    (let code : TagState → Nat := fun t => match t with
        | .free => 0
        | .live => 1
        | .doomed => 2
        | .committed => 3
        | .squashed => 4
      let o := readSpec c d.toNat true (fun _ =>
        ((List.range 15).map (fun i => code (s.tagState (i + 1)) * 2 ^ (4 * (i + 1)))).sum)
      c.passes o = true → c.Plain o.writes 0 (exec (.vstat d) s))

/-- R433 and R143 to R146: COMMIT and SQUASH, on operands that pass the checks, answer 3 for a bit outside their fields, 2 where
the set is not open, 5 for their own set, and 3 for a branch or mask that the set has not; COMMIT answers 4 for a SQUASHED
branch and else waits for its tag; SQUASH answers 0 and makes every LIVE or DOOMED branch of its mask SQUASHED. -/
def branchInstructionsRule : Prop :=
  (∀ (s : State) (c : Ctx) (d a : BitVec 7), s.ctx? = some c → c.passes (onceSpec c d [a.toNat] []) = true →
    let v := (c.w.reg c.first a.toNat).toNat
    let set := s.openSet? c.dom (v % 4)
    let own := fun (x : SpecSet) => c.w.tag != 0 && x.tags.contains c.w.tag
    let answered := fun (i : Instr) (st : Nat) => c.Answers (statusWrites c d (fun _ => st)) (fun t => t.tagStates = s.tagStates)
      (exec i s)
    let commit := Instr.commit d a
    let squash := Instr.squash d a
    (v ≠ v % 4 + v / 16 % 8 * 16 → answered commit 3) ∧ (v ≠ v % 4 + v / 256 % 256 * 256 → answered squash 3) ∧
    (v = v % 4 + v / 16 % 8 * 16 → set = none → answered commit 2) ∧
    (v = v % 4 + v / 256 % 256 * 256 → set = none → answered squash 2) ∧
    (∀ x, set = some x → v = v % 4 + v / 16 % 8 * 16 →
      (own x = true → answered commit 5) ∧ (own x = false → x.tags.length ≤ v / 16 → answered commit 3) ∧
      (∀ tag, own x = false → x.tags[v / 16]? = some tag →
        (s.branchState x (v / 16) = .squashed → answered commit 4) ∧
        (s.branchState x (v / 16) ≠ .squashed → c.Awaits (onceSpec c d [a.toNat] []).writes
          (.commit d.toNat (maskOf c.act) tag.toNat) (fun t => t.tagStates = s.tagStates) (exec commit s)))) ∧
    (∀ x, set = some x → v = v % 4 + v / 256 % 256 * 256 →
      (own x = true → answered squash 5) ∧
      (own x = false → (v / 256 = 0 ∨ 2 ^ x.tags.length ≤ v / 256) → answered squash 3) ∧
      (own x = false → v / 256 ≠ 0 → v / 256 < 2 ^ x.tags.length →
        ∃ t1, c.Answers (statusWrites c d (fun _ => 0)) (fun t => t = t1) (.next t1) ∧ t1.tagStates = s.tagStates ∧
          exec squash s = .next (t1.squashStep x (v / 256))))) ∧
  (∀ (s : State) (x : SpecSet) (mask i : Nat) (tag : BitVec 4), x.tags[i]? = some tag → tag ≠ 0 →
    mask / 2 ^ i % 2 = 1 → (s.tagState tag.toNat = .live ∨ s.tagState tag.toNat = .doomed) →
    (s.squashStep x mask).tagState tag.toNat = .squashed)

end Sys2Proof.Machine

/-- R143 to R146 and R431 to R433: BRID, VSTAT, COMMIT and SQUASH act as the definitions above say. -/
def Obligations.Branching : Prop :=
  branchQueriesRule ∧ branchInstructionsRule

/-- R434 to R436: FLIPQ, on operands that pass the checks, answers 3 for a misaligned address, a head above 3 or of another
domain, 2 for a head that does not scan out, 1 for a full queue of 16, and else 0 with the flip, with the wave's tag, last in
its head's queue. VDROP of a legal range whose pages translate discards the issuing branch's versions of its lines, and nothing
else. -/
def Obligations.FlipsAndDrops : Prop :=
  ∀ (s : State) (c : Ctx), s.ctx? = some c →
    (∀ d a : BitVec 7, c.passes (onceSpec c d ((List.range 5).map (fun i => a.toNat + i)) [a.toNat]) = true →
      let surf := c.w.pair c.first a.toNat
      let done := c.w.pair c.first (a.toNat + 2)
      let hd := (c.w.reg c.first (a.toNat + 4)).toNat
      let h := s.head hd
      let bad := surf % 4096 ≠ 0 ∨ done % 4 ≠ 0 ∨ 3 < hd ∨ h.dom.toNat % 2 ^ 16 ≠ c.dom
      let answered := fun (st : Nat) (more : State → Prop) => c.Answers (statusWrites c d (fun _ => st)) more (exec (.flipq d a) s)
      (bad → answered 3 (fun t => t.heads = s.heads)) ∧
      (¬bad → h.scanning = false → answered 2 (fun t => t.heads = s.heads)) ∧
      (¬bad → h.scanning = true → 16 ≤ h.flips.length → answered 1 (fun t => t.heads = s.heads)) ∧
      (¬bad → h.scanning = true → h.flips.length < 16 →
        answered 0 (fun t => (t.head hd).flips = h.flips ++ [{ surface := surf, doneAddr := done, tag := c.w.tag }]))) ∧
    (∀ (a b : BitVec 7) (xs : List Xlat),
      let fs := [a.toNat, a.toNat + 1, b.toNat]
      let va := address c a 0 c.first
      let n := (c.w.reg c.first b.toNat).toNat
      let units := rangeUnits (n / 2048 + 2) va n
      passed (c.checkRegs fs) = true → a.toNat % 2 = 0 → passed (c.checkPoison [] fs []) = true →
      va % 128 = 0 → n % 128 = 0 → n ≤ 2 ^ 31 → c.onceXlate .write (units.map (fun x => x.1)) = .ok (.go xs) →
      ∃ (t : State) (v : Wave), exec (.vdrop a b) s = .next t ∧ v.sameSets c.w = c.w ∧
        t.wave? c.w.uid = some { v.advance c.r with afterEffect := true } ∧ t.mem = s.mem ∧
        ∀ y : Version, y ∈ t.versions ↔ y ∈ s.versions ∧ ¬(y.tag = c.w.tag ∧ c.w.tag ≠ 0 ∧
          ∃ p ∈ units.zip xs, p.2.ver = true ∧ p.2.key / 128 ≤ y.line ∧ y.line < p.2.key / 128 + p.1.2 / 128))

/-- R39, R54, R176, R191, R194 and R195: a run header that a wave between runs has reached, whose checks pass and whose wait
mask is clear (for an open run, of a wave that does not stop for pre-emption), starts the run: its active lanes are the unparked
lanes at its address, the next word issued is the one after it, and an open run records the region entry, and keeps it for later
while a copy holds the region open. With a flag of its wait mask set nothing changes; with a length of 0 or above 24 it is an
illegal run; inside a run it is an illegal word with reason 4. -/
def Obligations.RunHeaders : Prop :=
  ∀ (s : State) (len : BitVec 5) (wait : BitVec 12) (sf1 sf2 : BitVec 4) (opn : BitVec 1),
    let i : Instr := .runHeader len wait sf1 sf2 opn
    (∀ c : Ctx, s.ctx? = some c → exec i s = .next (c.trap (c.raiseAll 0 ((encode i).toNat + 4 * 2 ^ 32)))) ∧
    ∀ (w : Wave) (l : Launch) (hdr : Nat),
    s.wave? s.cur = some w → s.launch? w.launch = some l → w.issueAddr? = some hdr → w.betweenRuns = true → w.wait = .none →
    let h : Header :=
      { len := len.toNat
        wait := wait
        sf1 := sf1.toNat
        sf2 := sf2.toNat
        opens := opn == 1 }
    let lanes := (List.range w.width).filter (fun k =>
      w.vpcOf k != exited && !w.parked.getLsbD k && (w.vpcOf k).toNat == hdr)
    let clear := ∀ n, n < 12 → wait.getLsbD n = true → w.flagSet n = false
    (s.checkHeader w l hdr h = .ok → clear → (opn = 1 → w.stopping = false) →
      ∃ (u : Wave) (r : RunCtx), exec i s = .next (s.setWave u) ∧ u.run = some r ∧ r.hdr = hdr ∧ r.word = encode i ∧
        r.last = hdr + 4 * len.toNat ∧ r.active = maskOf lanes ∧ u.pc = hdr + 4 ∧ u.runs = w.runs + 1 ∧
        u.serial = w.serial + 1 ∧ r.serial = w.serial + 1 ∧ u.afterEffect = false ∧
        (opn = 1 → s.regionHeld w = false → u.region = w.snapshot) ∧
        (opn = 1 → s.regionHeld w = true → u.region = w.region ∧ u.laterRegion = some (w.snapshot, w.serial + 1)) ∧
        (opn = 0 → u.region = w.region) ∧
        u.rows = w.rows ∧ u.k = w.k ∧ u.vpc = w.vpc) ∧
    (s.checkHeader w l hdr h = .ok → ¬clear → exec i s = .next s) ∧
    (len = 0 ∨ 24 < len.toNat → exec i s = .next (s.headerTrap w hdr (encode i) 1 (w.reachedBy lanes)))

/-! ### The steps of the hardware queues and their packets (R88 to R109, R126 to R130, R143 to R150, R433 to R436) -/

namespace Sys2Proof.Machine

/-- The record of a queue error or warning, and its status bit (R105, R109). -/
def warned (s : State) (q reason addr v bitNo : Nat) : State :=
  (s.queueRecord q reason addr (some v) []).modQueue q (fun y => { y with status := y.status ||| (1#16 <<< bitNo) })

/-- QUEUE_ENABLE (R93, R94, R441 to R443): in D0 with the image verified, a DISABLED queue whose enable bit stands reads its
QCB: with a ring base that is a multiple of 64, a log2_slots of 4 to 16, a partition that exists and a valid domain entry it
becomes IDLE with its status cleared and its indices as they were; otherwise it is in ERROR with the error status bit. -/
def enableStep : Prop :=
  ∀ (s : State) (q : Nat), q < 64 → s.dev = .d0 → s.regs.bootstat.toNat % 2 ^ 8 = 1 → (s.queue q).st = .disabled →
    let v := s.readNat 0 false (s.qcbKey q) 32
    let base := v / 2 ^ 192
    let log := v / 2 ^ 160 % 2 ^ 5
    let dom := v / 2 ^ 176 % 2 ^ 16
    let ok := base % 64 = 0 ∧ 4 ≤ log ∧ log ≤ 16 ∧ s.queuePartition q < s.partitions ∧
      bit (s.readNat 0 false (storageKey 0 (s.regs.domtbase.toNat + 8 * dom)) 8) 63 = true
    bit v 128 = true → base < 2 ^ 64 → ∃ t, exec (.queueEnable q) s = .next t ∧ (∀ p, p ≠ q → t.queue p = s.queue p) ∧
      (t.queue q).readIndex = (s.queue q).readIndex ∧ (t.queue q).ringBase = base ∧ (t.queue q).logSlots = log ∧
      (t.queue q).domain = dom ∧ (t.queue q).prio = v / 2 ^ 168 % 2 ^ 3 ∧ t.everEnabled = true ∧
      (ok → (t.queue q).st = .idle ∧ (t.queue q).status = 0) ∧ (¬ok → (t.queue q).st = .error ∧ (t.queue q).status = 8)

/-- QUEUE_DISABLE (R93): with enable 0, a queue in IDLE or ERROR becomes DISABLED at once, an empty one in PARSE too, and a
queue in FENCE, SERIAL, DEADLINE or HELD keeps its packet and becomes DISABLED once it is consumed (it is then no longer one
that D3hot has disabled, R450). -/
def disableStep : Prop :=
  ∀ (s : State) (q : Nat), bit (s.readNat 0 false (s.qcbKey q) 32) 128 = false →
    let x := s.queue q
    ((x.st = .idle ∨ x.st = .error ∨ x.st = .parse ∧ x.pending = 0) →
      ∃ t, exec (.queueDisable q) s = .next t ∧ (t.queue q).st = .disabled ∧ (t.queue q).readIndex = x.readIndex ∧
        ∀ p, p ≠ q → t.queue p = s.queue p) ∧
    ((x.st = .fence ∨ x.st = .serial ∨ x.st = .deadline ∨ x.st = .held) →
      ∃ t, exec (.queueDisable q) s = .next t ∧ t.queue q = { x with
        disabling := true
        off := false } ∧ ∀ p, p ≠ q → t.queue p = s.queue p)

/-- WRITE_INDEX_UPDATE (R90, R91, R93, R95): an enabled queue takes write_index and the priority of its QCB, and the launches of
the queue its priority; in IDLE it stays so with nothing to read, and in any state it is in ERROR when the indices overrun its
ring. -/
def writeIndexStep : Prop :=
  ∀ (s : State) (q : Nat), (s.queue q).st ≠ .disabled → (s.queue q).st ≠ .error →
    let v := s.readNat 0 false (s.qcbKey q) 32
    let x := s.queue q
    let y := { x with
      writeIndex := BitVec.ofNat 32 (v % 2 ^ 32)
      prio := v / 2 ^ 168 % 2 ^ 3 }
    ∃ t, exec (.writeIndexUpdate q) s = .next t ∧ (∀ p, p ≠ q → t.queue p = s.queue p) ∧
      (t.queue q).writeIndex = y.writeIndex ∧ (t.queue q).prio = y.prio ∧ (t.queue q).readIndex = x.readIndex ∧
      t.launches = s.launches.map (fun e => (e.1, if e.2.queue = q then { e.2 with qprio := y.prio } else e.2)) ∧
      (x.st = .idle → y.pending = 0 → t.queue q = y) ∧
      (2 ^ x.logSlots < y.pending → (t.queue q).st = .error) ∧
      (x.st = .fence ∨ x.st = .serial ∨ x.st = .deadline ∨ x.st = .held → y.pending ≤ 2 ^ x.logSlots → t.queue q = y)

end Sys2Proof.Machine

/-- R88 to R98: QUEUE_ENABLE, QUEUE_DISABLE and WRITE_INDEX_UPDATE as the definitions above say; NOP_PACKET consumes a NOP that
its queue holds and does nothing else; SERIAL_WAIT_END lets a queue in SERIAL go on once its earlier work has retired; and to
consume a packet moves read_index past it and nothing else. Here and below a step takes up its packet (`handed`): the lines that
its slots lie in are converted (R149), and the queue keeps its header. -/
def Obligations.QueueSteps : Prop :=
  enableStep ∧ disableStep ∧ writeIndexStep ∧ (∀ (s : State) (q n : Nat), n ≤ 4 → Consumed s q n (s.consume q n)) ∧
  (∀ (s : State) (q v : Nat), s.InHand q .parse 0 (fun _ _ => 2 ^ 64 - 1) [v] →
    ∃ t, exec (.nopPacket q) s = .next t ∧ Consumed s q 1 t) ∧
  (∀ (s : State) (q : Nat), (s.queue q).st = .serial → s.queueWork q = false →
    ∃ t, exec (.serialWaitEnd q) s = .next t ∧ (t.queue q).st ≠ .serial ∧ (t.queue q).serialDone = true ∧
      (t.queue q).readIndex = (s.queue q).readIndex ∧ ∀ p, p ≠ q → t.queue p = s.queue p)

namespace Sys2Proof.Machine

/-- The SIGNAL packets (R104, R105), on a counter that translates and is no versioned one of a domain with an open set: SET writes
the value, on a poisoned word the rest of its sector becomes zero and clean; ADD writes the sum, a wrap with its status bit
and record; DEC writes the difference, 0 below 0 with its status bit and record; ADD and DEC on poison reject with reason
6. An operation 3 or a misaligned address rejects with reason 3. -/
def signalSteps : Prop :=
  ∀ (s0 : State) (q v : Nat), s0.InHand q .parse 3 (fun _ _ => 2 ^ 162 - 1) [v] →
    let s := s0.handed q [v]
    let op := v / 2 ^ 160 % 4
    let n := v / 2 ^ 128 % 2 ^ 32
    let va := v / 2 ^ 64 % 2 ^ 64
    let x := s.queue q
    (op = 3 ∨ (op = 0 ∧ va % 4 ≠ 0) → exec (.signalSet q) s0 = .next (s.reject q 3 (x.slotAddr 0) (some v) [])) ∧
    (op = 3 ∨ (op = 1 ∧ va % 4 ≠ 0) → exec (.signalAdd q) s0 = .next (s.reject q 3 (x.slotAddr 0) (some v) [])) ∧
    (op = 3 ∨ (op = 2 ∧ va % 4 ≠ 0) → exec (.signalDec q) s0 = .next (s.reject q 3 (x.slotAddr 0) (some v) [])) ∧
    (∀ t : Xlat, op ≠ 3 → va % 4 = 0 → s.xlateFor 0 q x.domain va .atomic = .ok t →
      (t.ver = true → s.hasOpenSet x.domain = false) →
      let s1 := s.recall t.key
      let c := s1.readNat 0 false t.key 4
      let bad := s1.poisonedAt 0 false t.key
      let put := fun (m : Nat) => s1.writeBytes t.key (toBytes 4 m) false
      (op = 0 → bad = false → exec (.signalSet q) s0 = .next ((put n).consume q 1)) ∧
      (op = 0 → bad = true → exec (.signalSet q) s0 = .next ((s1.writeBytes (t.key - t.key % 32)
        (List.replicate (t.key % 32) 0 ++ toBytes 4 n ++ List.replicate (28 - t.key % 32) 0) false).consume q 1)) ∧
      (op = 1 → bad = false → c + n < 2 ^ 32 → exec (.signalAdd q) s0 = .next ((put (c + n)).consume q 1)) ∧
      (op = 1 → bad = false → 2 ^ 32 ≤ c + n →
        exec (.signalAdd q) s0 = .next ((warned (put ((c + n) % 2 ^ 32)) q 8 va v 1).consume q 1)) ∧
      (op = 2 → bad = false → n ≤ c → exec (.signalDec q) s0 = .next ((put (c - n)).consume q 1)) ∧
      (op = 2 → bad = false → c < n → exec (.signalDec q) s0 = .next ((warned (put 0) q 7 va v 0).consume q 1)) ∧
      (op = 1 → bad = true → exec (.signalAdd q) s0 = .next (s1.reject q 6 va (some v) [])) ∧
      (op = 2 → bad = true → exec (.signalDec q) s0 = .next (s1.reject q 6 va (some v) [])))

/-- Whether a counter satisfies a FENCE entry (R100): 0 ZERO, 1 LE, 2 GE, 3 NE. -/
def counterMeets (cond value c : Nat) : Bool :=
  if cond = 0 then decide (c = 0) else if cond = 1 then decide (c ≤ value)
  else if cond = 2 then decide (value ≤ c) else decide (c ≠ value)

/-- FENCE_PACKET and FENCE_EVALUATION (R100, R102), on a fence whose counters can be read: entry i stands in the 128 bits
from 128 (i + 1) on of the packet; an evaluation that has read its first entries already reads the others, and converts their
lines (R149). When all of its entries are satisfied, or with `any` one of them, the packet is consumed; otherwise the queue
waits in FENCE, and its next evaluation starts anew. -/
def fenceSteps : Prop :=
  ∀ (s0 : State) (q : Nat) (slots counters : List Nat) (st : QState), s0.InHand q st 2 fenceUsed slots →
    let s := s0.handed q slots
    let v := slots.headD 0
    let n := v / 2 ^ 64 % 16
    let unit := fun i => (slots[(i + 1) / 4]?).getD 0 / 2 ^ (128 * ((i + 1) % 4)) % 2 ^ 128
    let value := fun i => unit i / 2 ^ 32 % 2 ^ 32
    let seen := (s.queue q).fenceSeen
    let met := seen ++ ((List.range n).drop seen.length).map (fun i =>
      counterMeets (unit i % 4) (value i) ((counters[i]?).getD 0))
    let pass := if bit v 68 then met.any id else met.all id
    let read := s.parserTouch q (s.queue q).domain (((List.range n).drop seen.length).map (fun i => (unit i / 2 ^ 64, 4)))
    counters.length = n →
    (∀ (i c : Nat), counters[i]? = some c → unit i / 2 ^ 64 % 4 = 0 ∧ (unit i % 4 = 0 → value i = 0) ∧
      (seen.length ≤ i → s.parserRead q (s.queue q).domain (unit i / 2 ^ 64) 4 = .ok c)) →
    (st = .parse → pass = true → exec (.fencePacket q) s0 = .next (read.consume q slots.length)) ∧
    (st = .parse → pass = false → ∃ t, exec (.fencePacket q) s0 = .next t ∧
      t.queue q = { s.queue q with
        st := .fence
        fenceSeen := [] } ∧ ∀ p, p ≠ q → t.queue p = s0.queue p) ∧
    (st = .fence → pass = true → exec (.fenceEvaluation q) s0 = .next (read.consume q slots.length)) ∧
    (st = .fence → pass = false → ∃ t, exec (.fenceEvaluation q) s0 = .next t ∧
      t.queue q = { s.queue q with fenceSeen := [] } ∧ (∀ p, p ≠ q → t.queue p = s0.queue p) ∧
      t = { read with queues := t.queues })

/-- R99 to R107: the SIGNAL packets and the FENCE steps as the definitions above say; TIMESTAMP writes the device time to an
address that is a multiple of 8 and translates, as 8 bytes, and is consumed. -/
def counterPacketsRule : Prop :=
  signalSteps ∧ fenceSteps ∧
  (∀ (s0 : State) (q v : Nat) (t : Xlat), s0.InHand q .parse 9 (fun _ _ => 2 ^ 128 - 1) [v] →
    let s := s0.handed q [v]
    let va := v / 2 ^ 64 % 2 ^ 64
    va % 8 = 0 → s.xlateFor 0 q (s.queue q).domain va .write = .ok t →
    (t.ver = true → s.hasOpenSet (s.queue q).domain = false) →
    exec (.timestamp q) s0 = .next ((s.writeBytes t.key (toBytes 8 s.ns) false).consume q 1))

/-- COPY and COPY_FILL (R106): the packet is consumed; with a byte count of 0 it moves nothing, and otherwise a copy from src to
dst, or a fill with the pattern, is in flight; a fill with bits [127:96] not zero is rejected with reason 3. -/
def copyPackets : Prop :=
  ∀ (s0 : State) (q v : Nat), s0.InHand q .parse 8 (fun _ _ => 2 ^ 233 - 1) [v] →
    let s := s0.handed q [v]
    let fill := bit v 232
    let i : Instr := if fill then .copyFill q else .copy q
    let n := v / 2 ^ 192 % 2 ^ 40
    (fill = true → v / 2 ^ 96 % 2 ^ 32 ≠ 0 → exec i s0 = .next (s.reject q 3 ((s.queue q).slotAddr 0) (some v) [])) ∧
    ((fill = true → v / 2 ^ 96 % 2 ^ 32 = 0) → n = 0 → ∃ t, exec i s0 = .next t ∧ Consumed s0 q 1 t) ∧
    ((fill = true → v / 2 ^ 96 % 2 ^ 32 = 0) → n ≠ 0 → ∃ (t : State) (c : PacketCopy), exec i s0 = .next t ∧
      (t.queue q).readIndex = (s.queue q).readIndex + 1 ∧ t.packetCopies = tset s.packetCopies s.nextId c ∧
      c.queue = q ∧ c.domain = (s.queue q).domain ∧ c.slot = (s.queue q).readIndex ∧ c.fill = fill ∧
      c.src = v / 2 ^ 64 % 2 ^ 64 ∧ c.dst = v / 2 ^ 128 % 2 ^ 64 ∧ c.bytes = n ∧ c.faultWait = none ∧ c.lost = [])

/-- COPY_RETIRE and COPY_STOP (R106, R415) of a copy that waits for no fault: a fill writes the bytes of its pattern from dst on,
a copy of ranges that do not overlap the bytes read from src, whose lines are converted (R149), with the poison of each; once
the last is written the copy is gone, and where poison was among them there is a record of event 1. A copy that a fault, a
reserved type or a version conflict stops is gone too, its earlier bytes stay written, and its queue is in ERROR with its
read_index as it was. -/
def copySteps : Prop :=
  ∀ (s : State) (c : Nat) (x : PacketCopy), tget s.packetCopies c = some x → x.faultWait = none →
    (∀ s1, x.fill = true → s.engWrite x.eng x.dst ((List.range x.bytes).map (fun i =>
        (BitVec.ofNat 8 (x.src / 2 ^ (8 * (i % 4))), false))) = (s1, none) →
      exec (.copyRetire c) s = .next ({ s1 with packetCopies := tdel s1.packetCopies c } : State).noteForks) ∧
    (∀ bs, x.fill = false → (x.dst + x.bytes ≤ x.src ∨ x.src + x.bytes ≤ x.dst) → s.packetBytes x = (bs, none) →
      let read := s.engTouch (s.memPlaces x.eng x.src bs.length)
      (∀ s1, read.engWrite x.eng x.dst bs = (s1, none) →
        exec (.copyRetire c) s = .next
          ((({ s1 with packetCopies := tdel s1.packetCopies c } : State).packetPoison ((bs.take x.bytes).any (·.2))).noteForks)) ∧
      (∀ s1 k off va, read.engWrite x.eng x.dst bs = (s1, some { off := off, va := va, err := .cause k }) →
        ∃ t, exec (.copyStop c) s = .next t ∧ tget t.packetCopies c = none ∧ (t.queue x.queue).st = .error ∧
          (t.queue x.queue).readIndex = (s1.queue x.queue).readIndex))

/-- DEADLINE and DEADLINE_FIRE (R108): a head that does not scan out rejects with reason 10; with V the start of its next
blank, the queue waits in DEADLINE until V − lead when that is later than the device time, and fires at once, with the late
status bit, when it is not; at its firing time the record is taken up as that of a LAUNCH, from PARSE. -/
def deadlineSteps : Prop :=
  ∀ (s0 : State) (q v : Nat) (st : QState), s0.InHand q st 10 (fun _ _ => 2 ^ 162 - 1) [v] →
    let s := s0.handed q [v]
    let h := s.head (v / 2 ^ 160 % 4)
    let lead := v / 2 ^ 128 % 2 ^ 32
    let va := v / 2 ^ 64 % 2 ^ 64
    let x := s.queue q
    let fired := fun (y : Queue) =>
      (s.setQueue q { y with
        st := .parse
        fired := true }).takeRecord q va v
    (st = .parse → x.fired = false →
      (h.scanning = false → exec (.deadline q) s0 = .next (s.reject q 10 (x.slotAddr 0) (some v) [])) ∧
      (h.scanning = true → s.ns + lead < h.nextBlank s.ns →
        exec (.deadline q) s0 = .next (s.setQueue q { x with
          st := .deadline
          fireAt := h.nextBlank s.ns - lead })) ∧
      (h.scanning = true → h.nextBlank s.ns ≤ s.ns + lead →
        exec (.deadline q) s0 = .next (fired { x with status := x.status ||| 4 }))) ∧
    (st = .deadline → (s.ns < x.fireAt → exec (.deadlineFire q) s0 = .next s0) ∧
      (x.fireAt ≤ s.ns → exec (.deadlineFire q) s0 = .next (fired x)))

/-- R106 and R108: the COPY and DEADLINE packets and the steps of the copies, as the definitions above say. -/
def copyAndDeadlinePacketsRule : Prop := copyPackets ∧ copySteps ∧ deadlineSteps

end Sys2Proof.Machine

/-- R100 to R108: the signal, fence, copy, timestamp and deadline packets act as the definitions above say. -/
def Obligations.PacketSteps : Prop :=
  counterPacketsRule ∧ copyAndDeadlinePacketsRule

namespace Sys2Proof.Machine

/-- A device write of a queue's packet (R127, R143, R468). -/
def packetWrite (dom addr code : Nat) (bytes : List Byte) : DevWrite :=
  { domain := dom
    va := addr
    bytes := bytes
    add := false
    code := code
    lcore := 0xFFFF
    wave := 0xFF
    launch := BitVec.allOnes 64
    chain := none
    waits := none }

/-- FORK and FORK_PROCEED (R126, R127, R151): a valid FORK holds its queue in HELD; when it stands first in the order of tag
grants and enough tags are FREE, the lowest of them become LIVE, in branch order, the set opens with its backing area, the report
of its tags is written where it names an address, and the packet is consumed. A count below 2 or above 8, or a misaligned
address, rejects with reason 3. -/
def forkSteps : Prop :=
  ∀ (s0 : State) (q v : Nat) (st : QState), s0.InHand q st 4 (fun _ _ => forkUsed) [v] →
    let s := s0.handed q [v]
    let n := v / 2 ^ 104 % 16
    let backing := v / 2 ^ 128 % 2 ^ 64
    let report := v / 2 ^ 192 % 2 ^ 64
    let done := v / 2 ^ 256 % 2 ^ 64
    let pages := v / 2 ^ 64 % 2 ^ 32
    let ok := 2 ≤ n ∧ n ≤ 8 ∧ done % 4 = 0 ∧ report % 8 = 0 ∧ backing % 4096 = 0 ∧ (backing = 0 → pages = 0)
    (st = .parse → ¬ok → exec (.fork q) s0 = .next (s.reject q 3 ((s.queue q).slotAddr 0) (some v) [])) ∧
    (st = .parse → ok → ∃ t, exec (.fork q) s0 = .next t ∧ (t.queue q).st = .held ∧ (t.queue q).held = 4 ∧
      (t.queue q).readIndex = (s0.queue q).readIndex ∧ t.sets = s0.sets ∧ t.tagStates = s0.tagStates) ∧
    (∀ o : Nat, st = .held → (s0.queue q).held = 4 → s0.noteForks = s0 → (s0.queue q).forkOrder = some o →
      (∀ y ∈ tvals s0.queues, ∀ p, y.forkOrder = some p → o ≤ p) →
      let free := (List.range 15).filter (fun i => s.tagState (i + 1) == .free)
      n ≤ free.length →
      ∃ u : State, u.queues = s.queues ∧ u.mem = s.mem ∧
        u.sets = s.sets ++ [{
          domain := (s.queue q).domain
          id := v / 2 ^ 96 % 4
          tags := (free.take n).map (fun i => BitVec.ofNat 4 (i + 1))
          isOpen := true
          backing := backing
          pages := pages
          doneAddr := done }] ∧
        (∀ i, i < 15 → u.tagState (i + 1) = if i ∈ free.take n then .live else s.tagState (i + 1)) ∧
        (report = 0 → exec (.forkProceed q) s0 = .next ((u.consume q 1).noteForks)) ∧
        (∀ x : Xlat, report ≠ 0 → s.xlateFor 0 q (s.queue q).domain report .write = .ok x →
          exec (.forkProceed q) s0 = .next (((u.devPut (packetWrite (s.queue q).domain report 0
            ((List.range 8).map (fun i => BitVec.ofNat 8 (((free.take n)[i]?).elim 0 (· + 1))))) x).consume q 1).noteForks)))

/-- How a COMMIT or SQUASH packet ends with a status (R143, R468): its word is written, where it names an address, and the
packet is consumed; a page that misses keeps both waiting, with the queue in HELD. -/
def endsWith (s : State) (q addr status : Nat) : State :=
  let dom := (s.queue q).domain
  let word := packetWrite dom addr 2 (toBytes 4 status)
  if addr = 0 then s.consume q 1
  else match s.xlateFor 0 q dom addr .write with
    | .ok x => (s.devPut word x).consume q 1
    | .error (.cause c) => (s.devFail word c).consume q 1
    | .error (.miss level) =>
      (s.waitOn 0 q dom addr level (accessBits .write false) (BitVec.allOnes 64) 0xFFFFFFFF).modQueue q (fun y => { y with
        st := .held
        held := 5
        statusAddr := addr
        ending := some status })

/-- COMMIT_PACKET and SQUASH_PACKET (R143, R144, R146): a misaligned status address rejects with reason 3; no open set gives
status 2, a branch or mask that the set does not have 3, a COMMIT of a SQUASHED branch 4; any other COMMIT holds its queue for
the branch's tag, and any other SQUASH performs the squash step, which makes every LIVE or DOOMED tag of its mask SQUASHED, and
ends with status 0. -/
def endPackets : Prop :=
  ∀ (s0 : State) (q v type : Nat), type = 5 ∨ type = 6 →
    s0.InHand q .parse type (fun _ _ => field 191 128 ||| (if type = 5 then field 70 68 else field 79 72) ||| field 65 0) [v] →
    let s := s0.handed q [v]
    let addr := v / 2 ^ 128 % 2 ^ 64
    let branch := v / 2 ^ 68 % 8
    let mask := v / 2 ^ 72 % 2 ^ 8
    let i : Instr := if type = 5 then .commitPacket q else .squashPacket q
    (addr % 4 ≠ 0 → exec i s0 = .next (s.reject q 3 ((s.queue q).slotAddr 0) (some v) [])) ∧
    (addr % 4 = 0 → s.openSet? (s.queue q).domain (v / 2 ^ 64 % 4) = none → exec i s0 = .next (endsWith s q addr 2)) ∧
    (∀ x : SpecSet, addr % 4 = 0 → s.openSet? (s.queue q).domain (v / 2 ^ 64 % 4) = some x →
      (type = 5 → x.tags.length ≤ branch → exec i s0 = .next (endsWith s q addr 3)) ∧
      (type = 5 → branch < x.tags.length → s.branchState x branch = .squashed → exec i s0 = .next (endsWith s q addr 4)) ∧
      (type = 5 → branch < x.tags.length → s.branchState x branch ≠ .squashed →
        exec i s0 = .next (s.setQueue q { s.queue q with
          st := .held
          held := 5
          commitTag := ((x.tags[branch]?).getD 0).toNat
          statusAddr := addr })) ∧
      (type = 6 → (mask = 0 ∨ 2 ^ x.tags.length ≤ mask) → exec i s0 = .next (endsWith s q addr 3)) ∧
      (type = 6 → mask ≠ 0 → mask < 2 ^ x.tags.length → ∃ t, exec i s0 = .next (endsWith t q addr 0) ∧
        (∀ (j : Nat) (g : BitVec 4), x.tags[j]? = some g → g ≠ 0 → bit mask j = true →
          (s.tagState g.toNat = .live ∨ s.tagState g.toNat = .doomed) → t.tagState g.toNat = .squashed) ∧
        (∀ g : BitVec 4, (∀ j, x.tags[j]? = some g → bit mask j = false) → t.tagState g.toNat = s.tagState g.toNat)))

/-- COMMIT_QUIESCENT (R144, R145) for a waiting COMMIT of a queue or a wave: while the branch is not quiescent nothing happens;
a quiescent LIVE branch becomes COMMITTED and the other LIVE or DOOMED tags of its set SQUASHED; a DOOMED one ends the COMMIT
with status 1. -/
def commitSteps : Prop :=
  ∀ (s : State) (byQueue : Bool) (n tag : Nat), s.waitingCommit? byQueue n = some tag → tag < 16 →
    let g := BitVec.ofNat 4 tag
    ((s.tagState tag = .live ∨ s.tagState tag = .doomed) → s.quiescent g = false →
      exec (.commitQuiescent byQueue n) s = .next s) ∧
    (∀ x : SpecSet, s.tagState tag = .live → s.quiescent g = true → s.setOf? g = some x →
      ∃ t, exec (.commitQuiescent byQueue n) s = .next t ∧ t.tagState tag = .committed ∧
        ∀ h : BitVec 4, h ≠ g → t.tagState h.toNat =
          if h ≠ 0 ∧ h ∈ x.tags ∧ (s.tagState h.toNat = .live ∨ s.tagState h.toNat = .doomed) then .squashed
          else s.tagState h.toNat) ∧
    (s.tagState tag = .doomed → s.quiescent g = true →
      (byQueue = true → exec (.commitQuiescent byQueue n) s = .next (endsWith s n (s.queue n).statusAddr 1)) ∧
      (byQueue = false → ∀ (w : Wave) (d : Nat) (lanes : BitVec 64) (k : Nat), s.wave? n = some w → w.uid = n →
        w.wait = .commit d lanes k → w.mode = false → ∃ u : Wave, exec (.commitQuiescent byQueue n) s = .next (s.setWave u) ∧ u.wait = .none ∧
          (∀ l ∈ lanesOf lanes, w.isLive l = true → u.reg l d = 1) ∧ u.vpc = w.vpc))

/-- SCRUB (R149, R150), not in D3hot, of a line with a COMMITTED version: its bytes are the committed line, neither it nor a SQUASHED version
of the line is left, and no other version is made; what memory holds elsewhere stays, where no set's end has a counter. -/
def scrubStep : Prop :=
  ∀ (s : State) (line : Nat) (v : Version), s.committedVersion? line = some v → v.tag ≠ 0 →
    (∀ x ∈ s.sets, x.doneAddr = 0) → Memory.wf s.mem = true → s.dev ≠ .d3hot →
    ∃ t, exec (.scrub line) s = .next t ∧ (∀ i, i < 128 → mget t.mem (line * 128 + i) = tgetD v.bytes i 0) ∧
      (∀ a, (a < line * 128 ∨ line * 128 + 128 ≤ a) → mget t.mem a = mget s.mem a) ∧
      ∀ y ∈ t.versions, y ∈ s.versions ∧ (y.line = line → y.tag ≠ v.tag ∧ s.tagState y.tag.toNat ≠ .squashed)

/-- FLIP and FLIP_QUEUE_ADMIT (R435 to R437) of an aligned flip to a head that scans out for its queue's domain: a full flip
queue leaves it in HELD; with room an untagged flip, and one of a branch that its open set has and that is not SQUASHED, joins the
head's queue with its tag, and any other tagged flip is discarded, its done word written as 2; either way the packet is consumed.
A head that does not scan out rejects with reason 10, a misaligned address or another domain with reason 3. -/
def flipSteps : Prop :=
  ∀ (s0 : State) (q v : Nat) (st : QState), s0.InHand q st 7 (fun _ _ => flipUsed) [v] →
    st = .parse ∨ (st = .held ∧ (s0.queue q).held = 7) →
    let s := s0.handed q [v]
    let i : Instr := if st = .parse then .flip q else .flipQueueAdmit q
    let hd := v / 2 ^ 160 % 4
    let h := s.head hd
    let surface := v / 2 ^ 64 % 2 ^ 64
    let done := v / 2 ^ 192 % 2 ^ 64
    let bad := surface % 4096 ≠ 0 ∨ done % 4 ≠ 0 ∨ h.domain ≠ (s.queue q).domain
    let joins := fun (tag : BitVec 4) => ∃ t, exec i s0 = .next t ∧
      (t.queue q).readIndex = (s0.queue q).readIndex + 1 ∧
      t.head hd = { h with flips := h.flips ++ [{ surface := surface, doneAddr := done, tag := tag }] } ∧
      ∀ j, j ≠ hd → t.head j = s0.head j
    (bad → exec i s0 = .next (s.reject q 3 ((s.queue q).slotAddr 0) (some v) [])) ∧
    (¬bad → h.scanning = false → exec i s0 = .next (s.reject q 10 ((s.queue q).slotAddr 0) (some v) [])) ∧
    (¬bad → h.scanning = true → 16 ≤ h.flips.length → st = .parse →
      exec i s0 = .next (s.setQueue q { s.queue q with
        st := .held
        held := 7 })) ∧
    (¬bad → h.scanning = true → h.flips.length < 16 →
      let set := s.openSet? (s.queue q).domain (v / 2 ^ 168 % 4)
      let branch := v / 2 ^ 164 % 8
      (bit v 162 = false → joins 0) ∧
      (∀ x : SpecSet, bit v 162 = true → set = some x → branch < x.tags.length → s.branchState x branch ≠ .squashed →
        joins ((x.tags[branch]?).getD 0)) ∧
      (bit v 162 = true → (∀ x : SpecSet, set = some x → x.tags.length ≤ branch ∨ s.branchState x branch = .squashed) →
        (done = 0 → exec i s0 = .next (s.consume q 1)) ∧
        (∀ y : Xlat, done ≠ 0 → s.translate h.domain done .write = .ok y → (y.ver = true → s.hasOpenSet h.domain = false) →
          exec i s0 = .next ((s.writeBytes y.key (toBytes 4 2) false).consume q 1))))

end Sys2Proof.Machine

/-- R126 to R130, R143 to R150, R435 and R436: the futures and flip packets and their steps, as the definitions above say. -/
def Obligations.FuturesPackets : Prop := forkSteps ∧ endPackets ∧ commitSteps ∧ scrubStep ∧ flipSteps

/-! ### Launches, placement, tasks and retirement (R99, R110 to R123, R131, R153 to R167, R214, R379, R382, R387, R422) -/

namespace Sys2Proof.Machine

/-- LAUNCH and LAUNCH_ACCEPT (R99, R111, R131): the record's address must be a multiple of 64, its reserved bits zero and its
fields valid, or the packet is rejected with reason 3, 2 and 3. A record with no fault queue whose argument block can be
read waits in PARSE while 1,024 launches stand or its task reserve does not fit, the lines read being converted (R149); else
an untagged one with work is accepted, with its record, arguments, domain and number. -/
def launchSteps : Prop :=
  ∀ (s0 : State) (q hdr type : Nat) (i : Instr),
    s0.InHand q .parse type (fun _ _ => if type = 1 then 2 ^ 128 - 1 else 2 ^ 162 - 1) [hdr] →
    (i = .launch q ∧ type = 1) ∨ (i = .launchAccept q ∧ type = if (s0.queue q).fired then 10 else 1) →
    let s := s0.handed q [hdr]
    let x := s.queue q
    let va := hdr / 2 ^ 64 % 2 ^ 64
    (va % 64 ≠ 0 → exec i s0 = .next (s.reject q 3 va (some hdr) [])) ∧
    (∀ v, va % 64 = 0 → s.parserRead q x.domain va 256 = .ok v →
      (recordClean v = false → exec i s0 = .next (s.reject q 2 va (some hdr) [])) ∧
      (recordClean v = true → recordOk v = false → exec i s0 = .next (s.reject q 3 va (some hdr) [])) ∧
      (∀ args, recordClean v = true → recordOk v = true → v / 2 ^ 768 % 2 ^ 64 = 0 →
        s.parserRead q x.domain (v / 2 ^ 448 % 2 ^ 64) (v / 2 ^ 96 % 2 ^ 16) = .ok args →
        let reserved := (tvals s.launches).foldl (fun t l => t + l.reserve) 0
        let room := s.launches.length < 1024 ∧ reserved + v / 2 ^ 416 % 2 ^ 16 ≤ 131072
        (¬room → exec i s0 = .next
          (s.parserTouch q x.domain [(va, 256), (v / 2 ^ 448 % 2 ^ 64, v / 2 ^ 96 % 2 ^ 16), (0, 0)])) ∧
        (room → v / 2 ^ 440 % 8 = 7 → v / 2 ^ 128 % 2 ^ 32 ≠ 0 → v / 2 ^ 192 % 2 ^ 16 ≠ 0 →
          ∃ (t : State) (l : Launch), exec i s0 = .next t ∧ (t.queue q).readIndex = x.readIndex + 1 ∧
            t.launches = tset s.launches s.nextId l ∧ l.uid = s.nextId ∧ l.id = BitVec.ofNat 64 (q + 64 * x.accepted) ∧
            l.queue = q ∧ l.domain = x.domain ∧ l.record = BitVec.ofNat 2048 v ∧ l.recAddr = va ∧
            l.insts = [{ tag := 0, branch := 0, next := [], dropped := false }] ∧
            l.args = (List.range (v / 2 ^ 96 % 2 ^ 16 / 8)).map (fun j => BitVec.ofNat 64 (args / 2 ^ (64 * j))) ∧
            l.faulted = false ∧ l.suspended = false ∧ (t.queue q).accepted = x.accepted + 1) ∧
        (room → v / 2 ^ 440 % 8 ≠ 7 → s.openSet? x.domain (v / 2 ^ 440 % 8) = none →
          (∀ d ∈ s.devWrites, d.chain ≠ some s.nextId) →
          ∃ t, exec i s0 = .next t ∧ (t.queue q).readIndex = x.readIndex + 1 ∧ t.launch? s.nextId = none ∧
            ∀ m, m ≠ s.nextId → t.launch? m = s.launch? m)))

/-- TEAM_DISPATCH and CLUSTER_GROUP_DISPATCH (R114, R153, R154, R156, R158): the next unit of a launch that stands first and
passes the checks at dispatch starts whole on its places, the lines that the dispatch reads being converted (R149), and nothing
else in memory changing: a team for each, with its index, rank, cores and what the record
grants it, and a wave for each of its roles in its quarter, every lane of the launch's width at the entry offset. -/
def dispatchSteps : Prop :=
  ∀ (s : State) (l k u key : Nat) (x m : Launch) (ps : List Place) (inst : Inst), s.launch? l = some x → x.uid = l →
    x.suspended = false → s.isWaiting 1 l = false → s.isServed x = true → s.unitReady x = true →
    s.dispatchChecks x = .go m → s.nextUnit x = some (k, u, key, ps) → x.insts[k]? = some inst →
    let i : Instr := if x.record.toNat / 2 ^ 116 % 8 = 0 then .teamDispatch l else .clusterGroupDispatch l
    ∃ (t : State) (g : Grp) (y : Launch), exec i s = .next t ∧ tget t.grps s.nextId = some g ∧ g.launch = l ∧
      g.status = 0 ∧ g.teams.length = ps.length ∧ t.mem = (s.convertAt (s.dispatchPlaces x)).mem ∧
      (∀ v, v < s.nextId → t.wave? v = s.wave? v ∧ t.team? v = s.team? v) ∧
      t.launch? l = some y ∧ y.insts[k]? = some { inst with next := tset inst.next key (tgetD inst.next key 0 + 1) } ∧
      ∀ (j uid : Nat) (p : Place), ps[j]? = some p → g.teams[j]? = some uid → ∃ tm, t.team? uid = some tm ∧
        tm.launch = l ∧ tm.grp = s.nextId ∧ tm.index = p.index ∧ tm.rank = p.rank ∧ tm.lcore = p.lcore ∧
        tm.pcore = p.pcore ∧ tm.granted = (x.record.toNat / 2 ^ 384 % 2 ^ 32 + 1023) / 1024 * 1024 ∧
        tm.accTiles = x.record.toNat / 2 ^ 240 % 2 ^ 8 ∧ tm.waves = x.waveRoles.length ∧
        ∀ (n r c : Nat), x.waveRoles[n]? = some r → p.quarters[n]? = some c → ∃ w ∈ tvals t.waves,
          w.team = uid ∧ w.launch = l ∧ w.idx = n ∧ w.role = r ∧ w.quarter = c ∧ w.tag = inst.tag ∧ w.run = none ∧
          w.mode = false ∧ w.width = 16 * 2 ^ (x.record.toNat / 2 ^ 112 % 4) ∧
          (∀ lane, lane < w.width → w.vpcOf lane = BitVec.ofNat 32 (x.record.toNat / 2 ^ 64 % 2 ^ 32)) ∧
          ∀ lane, w.width ≤ lane → w.isLive lane = false

/-- LAUNCH_RETIRE and WAVE_RETIRE (R153, R214, R422): a launch without a digest list that holds no work retires and no other
launch does; while it holds work nothing happens, and while a write of its report or signal waits for a page it only stays to be
retired. An untagged wave whose lanes have all exited and whose operations are complete retires; while one is outstanding
nothing happens. -/
def retireSteps : Prop :=
  (∀ (s : State) (l : Nat) (x : Launch), s.launch? l = some x → x.uid = l →
    let waits := ∃ d ∈ s.devWrites, d.chain = some l
    let others := fun (t : State) => ∀ m, m ≠ l → t.launch? m = s.launch? m
    (x.retiring = false → s.holdsWork x = true → exec (.launchRetire l) s = .next s) ∧
    (x.retiring = true → waits → exec (.launchRetire l) s = .next s) ∧
    (x.retiring = true → ¬waits → ∃ t, exec (.launchRetire l) s = .next t ∧ t.launch? l = none ∧ others t) ∧
    (x.retiring = false → s.holdsWork x = false → s.isWaiting 1 l = false → x.record.toNat / 2 ^ 704 % 2 ^ 64 = 0 →
      ∃ t, exec (.launchRetire l) s = .next t ∧ others t ∧
        (t.launch? l = none ∨ ∃ y, t.launch? l = some y ∧ y.retiring = true) ∧
        (x.record.toNat / 2 ^ 768 % 2 ^ 64 = 0 → x.signalAddr = 0 → ¬waits → t.launch? l = none))) ∧
  (∀ (s : State) (w : Nat) (x : Wave), s.wave? w = some x → x.uid = w → x.tag = 0 →
    (s.mayRetire x = false → exec (.waveRetire w) s = .next s) ∧
    (s.mayRetire x = true → ∃ t, exec (.waveRetire w) s = .next t ∧ t.wave? w = none))

end Sys2Proof.Machine

/-- R99, R110 to R114, R123, R153 to R158, R214 and R422: launches are accepted, dispatched and retired, and waves retire, as
the definitions above say. -/
def Obligations.LaunchSteps : Prop := launchSteps ∧ dispatchSteps ∧ retireSteps

namespace Sys2Proof.Machine

/-- The Jig's steps (R120, R121) for a task in a column's share of the pool whose launch is not suspended and goes on
dispatching: the bin lists the tasks of its launch, entry, key, tag and depth in ascending acceptance number. A bin that holds a
full wave gives its first tasks; a partial one gives all it has when its oldest task has waited 2,048 clk, or in deterministic
mode when no wave of the launch is resident; the tasks leave the pool as one wave, with their acceptance numbers, and
otherwise nothing happens. The model's reading (DEDUCED): in deterministic mode a full wave also waits while a task of an
earlier number may still come, and a partial one until nothing of the launch is left that could bring a task and the bin holds
its lowest number (log entry 75); a place in the order that an AMO.CASC lane held and made no task of does not count (log
entry 76). -/
def jigSteps : Prop :=
  ∀ (s : State) (col id : Nat) (t : Task) (l : Launch), s.poolTask? col id = some t → s.launch? t.launch = some l →
    l.suspended = false → l.stopDispatch = false →
    let b := s.bin col t
    let width := 16 * 2 ^ (l.record.toNat / 2 ^ 112 % 4)
    let det := bit l.record.toNat 119
    let waited := s.hostClk l.uid col ≥ minOf 0 (b.map (fun x => x.clk)) + 2048
    let resident := (tvals s.waves).any (fun w => w.launch == l.uid)
    let first := ∃ x ∈ b, ∀ y ∈ s.pool, y.launch = l.uid → x.accept ≤ y.accept
    let real := fun (n : Nat) => n - (l.tickets.filter (fun t => t < n)).length
    let comes := s.earlierTasks l (maxOf ((b.take width).map (fun x => x.accept)))
    let forms := fun (ts : List Task) (out : Host.Outcome State Fault Refusal) =>
      out = .next { s with
        nextId := s.nextId + 1
        pool := s.pool.filter (fun y => !ts.any (fun x => x.id == y.id))
        formed := s.formed ++ [{ id := s.nextId, column := col, tasks := ts.map (fun x => { x with accept := real x.accept }) }] }
    (∀ x, x ∈ b ↔ x ∈ s.pool ∧ x.share = col ∧ x.launch = t.launch ∧ x.entry = t.entry ∧ x.key = t.key ∧ x.tag = t.tag ∧
      x.depth = t.depth) ∧
    b.Pairwise (fun x y => x.accept ≤ y.accept) ∧
    (width ≤ b.length → (det = true → comes = false) → forms (b.take width) (exec (.jigFormWave col id) s)) ∧
    (det = true → comes = true → exec (.jigFormWave col id) s = .next s) ∧
    (b.length < width → exec (.jigFormWave col id) s = .next s) ∧
    (b.length < width → det = false → waited → forms b (exec (.jigTimeout col id) s)) ∧
    (b.length < width → det = false → ¬waited → exec (.jigTimeout col id) s = .next s) ∧
    (b.length < width → det = true → s.isQuiet l = true → first → forms b (exec (.jigDetPartialWave col id) s)) ∧
    (b.length < width → det = true → ¬first → exec (.jigDetPartialWave col id) s = .next s) ∧
    (b.length < width → det = true → resident = true → exec (.jigDetPartialWave col id) s = .next s)

/-- TASK_WAVE_PLACE (R23, R114, R122, R161) of a formed wave whose launch stands first: an entry that the table does not have
discards it; one that it has, where the launch passes the checks at dispatch and the wave fits a place, starts the wave
there, a lane for each task at the entry's offset with the task's record in v0 to v7, the lines that the table and the
dispatch are read from being converted (R149). -/
def taskPlacement : Prop :=
  ∀ (s : State) (f : Nat) (x : Formed) (t : Task) (rest : List Task) (l : Launch),
    s.formed.find? (fun y => y.id == f) = some x → x.tasks = t :: rest → s.launch? t.launch = some l → l.uid = t.launch →
    l.suspended = false → l.stopDispatch = false → s.isWaiting 1 l.uid = false → s.isWaiting 3 l.uid = false →
    s.isServed l = true →
    (s.taskRole l t = .invalid → exec (.taskWavePlace f) s = .next
      { s with formed := s.formed.filter (fun y => y.id != x.id) }) ∧
    (∀ (off role key : Nat) (m : Launch) (p : Place), s.taskRole l t = .entry off role key →
      s.dispatchChecks l = .go m → s.taskPlace m x role = some p →
      ∃ (u : State) (w : Wave), exec (.taskWavePlace f) s = .next u ∧ u.wave? (s.nextId + 2) = some w ∧
        u.formed = s.formed.filter (fun y => y.id != x.id) ∧ u.mem = (s.convertAt (s.dispatchPlaces l ++
          s.tablePlaces l (s.cancelledPages 3 l.uid l.domain) t.entry)).mem ∧ w.launch = l.uid ∧ w.role = role ∧
        w.tag = t.tag ∧ w.depth = t.depth ∧ w.accepts = x.tasks.map (fun y => y.accept) ∧ w.lcore = p.lcore ∧
        w.pcore = p.pcore ∧ w.run = none ∧
        (∀ lane, w.vpcOf lane =
          if lane < w.width ∧ lane < x.tasks.length then BitVec.ofNat 32 off else 0xFFFFFFFF) ∧
        ∀ (lane j : Nat) (y : Task), x.tasks[lane]? = some y → j < 8 → w.elem j lane = (y.record[j]?).getD 0)

/-- A task in the pool as it entered it: what it is, and the share it went to; its number in the pool and its clk are the pool's
own, and its acceptance number is new unless it had one. -/
def entered (s t : State) (x : Task) (numbered : Bool) : Prop :=
  ∃ y, t.pool = s.pool ++ [y] ∧ y.launch = x.launch ∧ y.entry = x.entry ∧ y.key = x.key ∧ y.tag = x.tag ∧
    y.depth = x.depth ∧ y.record = x.record ∧
    ∀ l, s.launch? x.launch = some l → y.accept = if numbered then x.accept else l.nextAccept

/-- CONTINUATION_TO_POOL, TRACEQ_TASK_HANDOFF and CB_RELEASE_TASK_HANDOFF (R119, R334, R387): the oldest task that its source
holds enters the pool when an entry is free for its launch, and stays where it is otherwise. -/
def handoffs : Prop :=
  ∀ (s : State) (source place : Nat) (h : HeldTask) (i : Instr),
    (source = 0 ∧ i = .continuationToPool place) ∨ (source = 1 ∧ i = .traceqTaskHandoff place) ∨
      (source = 2 ∧ i = .cbReleaseTaskHandoff place) →
    s.heldTasks.find? (fun x => x.source == source && x.place == place) = some h → s.dropsTag h.task.tag = false →
    s.isStopped h.task.launch = false →
    (s.poolFree h.task.launch = 0 → exec i s = .next s) ∧
    (s.poolFree h.task.launch ≠ 0 → ∃ t, exec i s = .next t ∧ t.heldTasks = s.heldTasks.erase h ∧
      entered s t h.task (source != 2 && s.isDet h.task.launch) ∧ t.waves = s.waves ∧ t.mem = s.mem)

/-- ENQT_ACCEPT and CBOPEN_WAIT_GRANT (R379, R382): when entries for every valid lane of a waiting ENQT are free together, its
tasks enter the pool in order, its lanes get status 0 and its wait ends; when the group of the CBOPEN that has waited longest
fits, the group opens, the lanes get its handle and the wait ends, and it ends with 0xFFFFFFFD when the region is gone and
with 0xFFFFFFFE when it is smaller than the group. Otherwise nothing happens. -/
def waitingEnds : Prop :=
  (∀ (s : State) (w d : Nat) (lanes : BitVec 64) (x : Wave), s.wave? w = some x → x.uid = w → x.wait = .enqt d lanes →
    x.mode = false → s.dropsTag x.tag = false → s.isStopped x.launch = false →
    let mine := (s.heldTasks.filter (fun h => h.source == 3 && h.place == w)).map (fun h => h.task)
    (∀ y ∈ mine, y.tag = x.tag ∧ y.launch = x.launch) →
    (s.poolFree x.launch < mine.length → exec (.enqtAccept w) s = .next s) ∧
    (mine.length ≤ s.poolFree x.launch → ∃ (t : State) (u : Wave), exec (.enqtAccept w) s = .next t ∧
      t.wave? w = some u ∧ u.wait = .none ∧ (∀ l ∈ lanesOf lanes, x.isLive l = true → u.reg l d = 0) ∧ u.vpc = x.vpc ∧
      t.heldTasks = s.heldTasks.filter (fun h => !(h.source == 3 && h.place == w)) ∧
      ∃ ys, t.pool = s.pool ++ ys ∧ ys.map (fun y => (y.launch, y.entry, y.key, y.tag, y.depth, y.record)) =
        mine.map (fun y => (y.launch, y.entry, y.key, y.tag, y.depth, y.record)))) ∧
  (∀ (s : State) (w d : Nat) (lanes : BitVec 64) (header : BitVec 512) (entries : List (BitVec 512)) (rest : List Nat)
    (x : Wave), s.cbWaiters = w :: rest → s.wave? w = some x → x.uid = w → x.wait = .cbopen d lanes header entries →
    x.mode = false → s.dropsTag x.tag = false →
    let units := groupUnits header entries
    (∀ bad : Word, (s.cbRegion = 0 ∧ bad = 0xFFFFFFFD) ∨ (s.cbRegion ≠ 0 ∧ s.cbRegion < units ∧ bad = 0xFFFFFFFE) →
      ∃ (t : State) (u : Wave), exec (.cbopenWaitGrant w) s = .next t ∧ t.cbWaiters = rest ∧
        t.groups = s.groups ∧ t.wave? w = some u ∧ u.wait = .none ∧ u.vpc = x.vpc ∧
        ∀ l ∈ lanesOf lanes, x.isLive l = true → u.reg l d = bad) ∧
    (s.cbRegion ≠ 0 → units ≤ s.cbRegion → s.cbFits header entries = false →
      exec (.cbopenWaitGrant w) s = .next s) ∧
    (s.cbRegion ≠ 0 → units ≤ s.cbRegion → s.cbFits header entries = true → ∃ (t : State) (u : Wave) (n : Nat) (g : CbGroup),
      exec (.cbopenWaitGrant w) s = .next t ∧ t.cbWaiters = rest ∧ t.groups = tset s.groups n g ∧
      (tget s.groups n = none ∨ n = 0) ∧ g.num = n ∧ g.gen = tgetD s.generations n 0 + 1 ∧ g.header = header ∧
      g.launch = x.launch ∧ g.tokens.map (fun e => e.2.entry) = entries ∧ (∀ e ∈ g.tokens, e.2.st = 1) ∧
      t.wave? w = some u ∧ u.wait = .none ∧ u.vpc = x.vpc ∧
      ∀ l ∈ lanesOf lanes, x.isLive l = true → u.reg l d = BitVec.ofNat 32 (n + g.gen.toNat * 2 ^ 16)))

end Sys2Proof.Machine

/-- R115 to R122, R161, R334, R379, R382 and R387: tasks are formed into waves, placed and handed on, and the waits for pool
entries and combine space end, as the definitions above say. -/
def Obligations.TaskSteps : Prop := jigSteps ∧ taskPlacement ∧ handoffs ∧ waitingEnds

/-! ### The grant of run slots, traps that wait, pre-emption and context (R165, R168 to R171, R185 to R188, R215, R393, R400 to R404) -/

namespace Sys2Proof.Machine

/-- Whether a table of waves is keyed by their numbers. -/
def wavesKeyed (s : State) : Prop := (s.waves.map (fun e => e.1)).Nodup ∧ ∀ e ∈ s.waves, e.1 = e.2.uid

/-- Whether a ready run stands ahead of another of its quarter (R186): one raised after 4,096 clk before one that is not, the
earlier of two raised; otherwise the higher priority, the earlier at equal priority. -/
def standsAhead (s : State) (a b : Wave) : Bool :=
  let raised := fun (v : Wave) => v.raised || decide (v.ready + 4096 ≤ s.clkOf v)
  if raised a || raised b then raised a && (!raised b || decide (a.ready < b.ready))
  else decide (b.prio < a.prio) || (a.prio == b.prio && decide (a.ready < b.ready))

/-- A wave issues next, the lines of the run at a code offset being converted by its fetch (R149, R188). -/
def issuesNext (s : State) (x : Wave) (off : Nat) : State :=
  { s.fetchTouch x off with cur := x.uid }

/-- RUN_GRANT (R185 to R188) for an untagged wave outside deterministic mode: a wave that holds a slot and can issue its next
word is the one that issues next; one between runs, whose run is ready while its quarter has a free slot and no other ready run
of the quarter stands ahead, has its wait ended and issues next; one whose run is not ready stays as it is. -/
def grantSteps : Prop :=
  ∀ (s : State) (w : Nat) (x : Wave), s.wave? w = some x → x.uid = w → x.tag = 0 → s.isDet x.launch = false →
    (∀ r, x.run = some r → s.slotReady x = true → exec (.runGrant w) s = .next (issuesNext s x r.hdr)) ∧
    (x.run ≠ none → s.slotReady x = false → exec (.runGrant w) s = .next s) ∧
    (x.run = none → s.runReady x = false → exec (.runGrant w) s = .next s) ∧
    (x.run = none → s.slotFree x = false → exec (.runGrant w) s = .next s) ∧
    (x.run = none → s.runReady x = true → s.slotFree x = true → (∀ d lanes, x.wait ≠ .kvstat d lanes) →
      (∀ v ∈ tvals s.waves, v.uid ≠ w → v.pcore = x.pcore → v.quarter = x.quarter → s.runReady v = true →
        standsAhead s v x = false) →
      exec (.runGrant w) s = .next (issuesNext (s.setWave { x with wait := .none }) x (x.issueAddr?.getD 0)))

/-- RUN_RAISE, SLEEP_END and TRAP_ENTRY (R186, R187, R215, R393, R395): a run ready for 4,096 clk is raised; a pause ends at the
clk it names; a trap that waits for its wave's flags is entered once they are clear, and in trap mode it is a double fault.
Before that nothing happens. A wave between runs takes its floating-point exception whatever it waits for, a replayable fault
on its next header too (R400). -/
def waveTimers : Prop :=
  ∀ (s : State) (w : Nat) (x : Wave), s.wave? w = some x → x.uid = w → x.tag = 0 →
    (s.runReady x = true → x.raised = false → x.ready + 4096 ≤ s.clkOf x →
      exec (.runRaise w) s = .next (s.setWave { x with raised := true })) ∧
    (s.clkOf x < x.ready + 4096 → exec (.runRaise w) s = .next s) ∧
    (∀ t, x.wait = .sleep t ∨ x.wait = .yield t →
      (t ≤ s.clkOf x → exec (.sleepEnd w) s = .next (s.setWave { x with wait := .none })) ∧
      (s.clkOf x < t → exec (.sleepEnd w) s = .next s)) ∧
    (∀ t, x.trap = some t → x.faultWait = none → s.mayIssue x = true →
      (x.mode = false → (∀ p ∈ x.pend, p.flag = none) → exec (.trapEntry w) s = .next (s.enterTrap x t)) ∧
      (x.mode = false → (∃ p ∈ x.pend, p.flag ≠ none) → exec (.trapEntry w) s = .next s) ∧
      (x.mode = true → exec (.trapEntry w) s = .next (s.doubleFault { x with run := none } t.cause t.info t.offset))) ∧
    (∀ t rest, x.trap = none → x.fpPending = t :: rest → x.run = none → x.mode = false →
      x.live.isEmpty = false → s.mayIssue x = true →
      exec (.trapEntry w) s = .next (s.raiseTrap { x with fpPending := rest } t))

/-- UNIT_SAVE and UNIT_RESTORE (R402 to R404): a resident unit of a suspended launch begins to stop, its waves with it, once the
save pool has room for its blocks, and not before; a stopping unit whose waves have reached their boundaries and whose
operations are complete is saved; a unit released for restore, of a launch that is not suspended, is resident again on a
cluster that has room, its blocks given back, and stays saved while none has. -/
def unitSteps : Prop :=
  ∀ (s : State) (g : Nat) (x : Grp) (l : Launch), tget s.grps g = some x → x.uid = g → s.launch? x.launch = some l →
    wavesKeyed s →
    let sizes := (s.unitTeams g).map (fun t => blockSize t (s.teamWaves t.uid) (if t.isRoot then maxFrags else 0))
    (x.status = 0 → l.suspended = true → s.poolRoom s.heldBlocks sizes g = none → exec (.unitSave g) s = .next s) ∧
    (∀ blocks, x.status = 0 → l.suspended = true → s.poolRoom s.heldBlocks sizes g = some blocks →
      ∃ t, exec (.unitSave g) s = .next t ∧
        tget t.grps g = some { x with
          status := 1
          migrate := false
          blocks := blocks
          drainClk := s.colClk (x.cluster / 4) } ∧
        ∀ w ∈ s.unitWaves g, ∃ b, t.wave? w.uid = some { w with
          stopping := true
          taken := b }) ∧
    (x.status = 1 → s.maySave x = false → exec (.unitSave g) s = .next s) ∧
    (x.status = 1 → s.maySave x = true → ∃ t y, exec (.unitSave g) s = .next t ∧ tget t.grps g = some y ∧
      y.status = if x.migrate then 3 else 2) ∧
    (x.status = 3 → l.suspended = true → exec (.unitRestore g) s = .next s) ∧
    (x.status = 3 → s.dev = .d0 → s.roomFor l x = [] → exec (.unitRestore g) s = .next s) ∧
    (x.status = 3 → s.dev = .d0 → l.suspended = false → s.roomFor l x ≠ [] → ∃ t y, exec (.unitRestore g) s = .next t ∧
      tget t.grps g = some y ∧ y.status = 0 ∧ y.blocks = [] ∧ y.migrate = false)

/-- PREEMPT_SUSPEND and PREEMPT_RESUME (R401): ignored while busy; otherwise PREEMPT takes the launch's number, and the launches
with it are suspended, or suspended no longer, and no other launch is changed. Of a suspended launch a unit already on its way to
another cluster, stopping or saved, is no longer to be restored; of a released one a saved unit may be. -/
def preemptSteps : Prop :=
  ∀ (s : State) (v : DWord) (resume : Bool), s.dev = .d0 →
    let i : Instr := if resume then .preemptResume v else .preemptSuspend v
    (s.regs.preempt.getLsbD 63 = true → exec i s = .next s) ∧
    (s.regs.preempt.getLsbD 63 = false → (s.launches.map (fun e => e.1)).Nodup → (∀ e ∈ s.launches, e.1 = e.2.uid) →
      ∃ t, exec i s = .next t ∧ t.regs.preempt.toNat % 2 ^ 58 = v.toNat % 2 ^ 58 ∧ t.regs.preempt.getLsbD 62 = resume ∧
        (∀ u y, s.launch? u = some y → t.launch? u = some
          (if y.id.toNat % 2 ^ 58 = v.toNat % 2 ^ 58 then { y with suspended := !resume } else y)) ∧
        ((s.grps.map (fun e => e.1)).Nodup → (∀ e ∈ s.grps, e.1 = e.2.uid) →
          ∀ (g : Nat) (x : Grp) (y : Launch), tget s.grps g = some x → s.launch? x.launch = some y →
            y.id.toNat % 2 ^ 58 = v.toNat % 2 ^ 58 →
            (resume = false → x.status ≠ 0 → tget t.grps g = some { x with
              migrate := false
              status := if x.status = 3 then 2 else x.status }) ∧
            (resume = true → x.status = 2 → tget t.grps g = some { x with status := 3 })))

/-- COPY_DRAIN_TIMEOUT (R171): 65,536 clk after the waves of a stopping unit reached their boundaries, no copy that held a
region open is left; before that nothing happens. -/
def drainStep : Prop :=
  ∀ (s : State) (g : Nat) (x : Grp), tget s.grps g = some x → x.uid = g → x.status = 1 → wavesKeyed s →
    (s.unitWaves g).all s.stopped = true →
    (s.colClk (x.cluster / 4) < x.drainClk + 65536 → exec (.copyDrainTimeout g) s = .next s) ∧
    (x.drainClk + 65536 ≤ s.colClk (x.cluster / 4) → ∃ t, exec (.copyDrainTimeout g) s = .next t ∧
      ∀ b ∈ s.heldCopies x, tget t.bulk b.id = none)

end Sys2Proof.Machine

/-- R168 to R171, R185 to R188, R215, R393 and R401 to R404: runs are granted slots, pauses and waiting traps end, and units are
stopped, saved and restored, as the definitions above say. -/
def Obligations.WaveSteps : Prop := grantSteps ∧ waveTimers ∧ unitSteps ∧ preemptSteps ∧ drainStep

/-! ### The completions of queue operations, continuations, copies, rays, combine moves and matrix passes (R52, R119, R264 to R291,
R292 to R317, R322 to R336, R361 to R371, R381 to R389) -/

namespace Sys2Proof.Machine

/-- The numbers of bytes of an entry of n words at an address that lie in its parts (R370). -/
def entryLens (va n : Nat) : List Nat :=
  if va % 128 + 4 * n ≤ 128 then [4 * n] else [128 - va % 128, 4 * n - (128 - va % 128)]

/-- The bytes of an entry whose parts have been translated, as untagged code reads them. -/
def entryBytes (s : State) (va n : Nat) (ys : List Xlat) : List Byte :=
  ((entryLens va n).zip ys).flatMap (fun y => s.readBytes 0 y.2.ver y.2.key y.1)

/-- QUEUE_OP_PERFORM (R370) of one lane that may be performed, on a control block without poison whose fields are valid: a push
to a full queue and a pop or peek of an empty one answer status 1 and 2 with the count; a push otherwise writes its entry and
moves the tail on, a pop returns the entry at the head and moves the head on, a peek returns it and moves nothing; an entry is
read or written in each of its parts, of one line or two; a block whose fields are not valid answers status 3. The lane's
registers get the status and the words, and the operation is gone. -/
def queueOperation : Prop :=
  ∀ (s : State) (w p op : Nat) (x : Wave) (q : Pend) (a : LaneAcc), s.pending? w p = some (x, q) → x.uid = w →
    q.kind = .queueOp op [a] → op ≤ 2 → x.tag = 0 → a.det = false → a.lane < 64 → x.isLive a.lane = true → a.rows.Nodup →
    s.isWaiting 2 w = false → (∀ v ∈ s.versions, s.tagState v.tag.toNat ≠ .committed) →
    s.anyPoison 0 a.ver a.key 32 = false → a.key + 32 ≤ 2 ^ 56 →
    let b := QBlock.of (s.readNat 0 a.ver a.key 32)
    let n := b.esize / 4
    let out := fun (t : State) (vals : List Word) => exec (.queueOpPerform w p) s = .next t ∧ ∃ u, t.wave? w = some u ∧
      u.pend = x.pend.filter (fun y => y.id != q.id) ∧ u.vpc = x.vpc ∧
      ∀ (j r : Nat) (v : Word), a.rows[j]? = some r → vals[j]? = some v → u.elem r a.lane = v
    (b.ok = false → ∃ t, out t [queueStatus 3 b.count] ∧ ∀ k, mget t.mem k = mget s.mem k) ∧
    (b.ok = true → op = 0 → b.count = b.cap → ∃ t, out t [queueStatus 1 b.count] ∧
      ∀ k, (k < a.key + 24 ∨ a.key + 28 ≤ k) → mget t.mem k = mget s.mem k) ∧
    (b.ok = true → op ≠ 0 → b.count = 0 → ∃ t, out t [queueStatus 2 b.count] ∧
      ∀ k, (k < a.key + 24 ∨ a.key + 28 ≤ k) → mget t.mem k = mget s.mem k) ∧
    (∀ ys : List Xlat, b.ok = true → b.count ≠ 0 → op ≠ 0 →
      (entryParts (b.entry b.head) n).map (fun p => s.xlateFor 2 w (s.domainOf x.launch) p .atomic) = ys.map .ok →
      (∀ y ∈ (entryLens (b.entry b.head) n).zip ys, s.anyPoison 0 y.2.ver y.2.key y.1 = false) →
      let words := (List.range n).map (fun i => BitVec.ofNat 32 (ofBytes (entryBytes s (b.entry b.head) n ys) / 2 ^ (32 * i)))
      (op = 2 → ∃ t, out t (queueStatus 0 b.count :: words) ∧ ∀ k, mget t.mem k = mget s.mem k) ∧
      (op = 1 → ∃ t, out t (queueStatus 0 (b.count - 1) :: words) ∧
        t.readNat 0 false (a.key + 16) 4 = (b.head + 1) % 2 ^ 32 ∧
        ∀ k, (k < a.key + 16 ∨ a.key + 20 ≤ k) → mget t.mem k = mget s.mem k)) ∧
    (∀ ys : List Xlat, b.ok = true → op = 0 → b.count ≠ b.cap →
      (entryParts (b.entry b.tail) n).map (fun p => s.xlateFor 2 w (s.domainOf x.launch) p .atomic) = ys.map .ok →
      n ≤ a.data.length →
      let parts := (entryLens (b.entry b.tail) n).zip ys
      let apart := fun (y z : Nat × Nat) => y.1 + y.2 ≤ z.1 ∨ z.1 + z.2 ≤ y.1
      (∀ y ∈ parts, y.2.key + y.1 ≤ 2 ^ 56) →
      ((a.key, 32) :: parts.map (fun y => (y.2.key, y.1))).Pairwise apart →
      ∃ t, out t [queueStatus 0 (b.count + 1)] ∧ t.readNat 0 false (a.key + 20) 4 = (b.tail + 1) % 2 ^ 32 ∧
        parts.flatMap (fun y => t.readBytes 0 false y.2.key y.1) = (a.data.take n).flatMap (fun v => toBytes 4 v.toNat) ∧
        ∀ k, (k < a.key + 20 ∨ a.key + 24 ≤ k) → (∀ y ∈ parts, k < y.2.key ∨ y.2.key + y.1 ≤ k) → mget t.mem k = mget s.mem k)

/-- What one lane of a pending AMO.CASC gets (R368): its old value, low word first, and its status; the operation is gone with
its last lane. -/
def cascGets (x : Wave) (q : Pend) (accs : List LaneAcc) (a : LaneAcc) (old status : Nat) (t : State) : Prop :=
  ∃ u, t.wave? x.uid = some u ∧ u.vpc = x.vpc ∧
    (∀ (j r : Nat), a.rows[j]? = some r → u.elem r a.lane =
      if j < a.size / 4 then BitVec.ofNat 32 (old / 2 ^ (32 * j)) else BitVec.ofNat 32 status) ∧
    (accs = [a] → u.pend = x.pend.filter (fun y => y.id != q.id))

/-- CASC_PERFORM and CASC_REFUSAL (R368, R369) of a lane in its turn, of an untagged wave, on a word without poison outside det
pages: one whose old value is not the expected one gets status 1 and stores nothing; else the new value is stored and, with
a table entry and a depth that are valid, a continuation with the entry's key and one more level of depth joins the slice's
queue and the status is 0. While the slice's 64 entries are taken nothing is performed, and after 65,536 clk the lane gets
its old value and status 2 and stores nothing. -/
def continuations : Prop :=
  ∀ (s : State) (w p lane order : Nat) (x : Wave) (q : Pend) (accs : List LaneAcc) (arr : List (Nat × Nat)) (a : LaneAcc)
    (n0 : Option Nat) (l : Launch), s.pending? w p = some (x, q) → x.uid = w → q.kind = .casc accs arr order n0 →
    q.cascLane? lane = some a → a.key + a.size ≤ 2 ^ 56 →
    a.lane = lane → lane < 64 → x.isLive lane = true → x.tag = 0 → a.det = false → (a.size = 4 ∨ a.size = 8) →
    a.rows.Nodup → a.rows.length = a.size / 4 + 1 → s.launch? x.launch = some l →
    (∀ v ∈ s.versions, s.tagState v.tag.toNat ≠ .committed) → s.anyPoison 0 a.ver a.key a.size = false →
    let slice := homeSlice a.key
    let queue := s.sliceQueue x.launch slice
    let clk := s.hostClk x.launch (slice / 8)
    let n := a.size / 4
    let old := s.readNat 0 a.ver a.key a.size
    let want := ofWords (a.data.take n)
    let new := ofWords ((a.data.drop n).take n)
    let word := ((a.data.drop (2 * n)).headD 0).toNat
    let since := ((arr.find? (fun e => e.1 == lane)).map (fun e => e.2)).getD 0
    (64 ≤ s.queueUsed queue → exec (.cascPerform w p lane) s = .next s) ∧
    (s.queueUsed queue < 64 → s.cascFirst queue order lane = true → s.isWaiting 2 w = false → old ≠ want →
      ∃ t, exec (.cascPerform w p lane) s = .next t ∧ cascGets x q accs a old 1 t ∧ t.heldTasks = s.heldTasks ∧
        ∀ k, mget t.mem k = mget s.mem k) ∧
    (∀ off role key, s.queueUsed queue < 64 → s.cascFirst queue order lane = true → s.isWaiting 2 w = false → old = want →
      s.taskEntry l (s.cancelledPages 2 w l.domain) 0 (word % 2 ^ 16) = .entry off role key → x.depth + 1 ≤ l.record.toNat / 2 ^ 432 % 2 ^ 4 →
      ∃ t k, exec (.cascPerform w p lane) s = .next t ∧ cascGets x q accs a old 0 t ∧
        t.heldTasks = s.heldTasks ++ [{ source := 0, place := queue, task := k }] ∧ k.launch = x.launch ∧
        k.entry = word % 2 ^ 16 ∧ k.key = BitVec.ofNat 16 key ∧ k.tag = 0 ∧ k.depth = x.depth + 1 ∧
        k.accept = (q.kind.reserved lane).getD 0 ∧
        (∀ j, j < a.size → mget t.mem (a.key + j) = BitVec.ofNat 8 (new / 2 ^ (8 * j))) ∧
        ∀ j, (j < a.key ∨ a.key + a.size ≤ j) → mget t.mem j = mget s.mem j) ∧
    (64 ≤ s.queueUsed queue → since + 65536 ≤ clk →
      ∃ t, exec (.cascRefusal w p lane) s = .next t ∧ cascGets x q accs a old 2 t ∧ t.mem = s.mem ∧
        t.heldTasks = s.heldTasks) ∧
    ((s.queueUsed queue < 64 ∨ clk < since + 65536) →
      exec (.cascRefusal w p lane) s = .next s)

/-- BLOCK_STORE_NAME_OP_PERFORM (R288, R290, R291): once every block-store operation that the wave issued earlier is performed,
a KVALLOC, KVFREE or KVSHARE acts on the store and its status goes to the lanes, and a KVMAP's answers go to its lanes; before
that nothing happens. What the store's operations do is stated of the block names. -/
def nameOperations : Prop :=
  ∀ (s : State) (w p : Nat) (x : Wave) (q : Pend), s.pending? w p = some (x, q) →
    let gets := fun (u : Wave) (rows : List (Nat × Nat × Word)) =>
      u.pend = x.pend.filter (fun y => y.id != q.id) ∧ u.vpc = x.vpc ∧ u.k = x.k ∧
      ∀ r l v, (r, l, v) ∈ rows → x.isLive l = true → l < 64 → u.elem r l = v
    (q.isKv = true → s.kvInOrder x q.id s.nextId = false → exec (.blockStoreNameOpPerform w p) s = .next s) ∧
    (∀ op name name2 rows, q.kind = .kvName op name name2 rows → s.kvInOrder x q.id s.nextId = true → rows.Nodup →
      let r := if op = 0 then s.kvAlloc (s.domainOf x.launch) name x.tag
        else if op = 1 then s.kvFree (s.domainOf x.launch) name x.tag
        else s.kvShare (s.domainOf x.launch) name name2 x.tag
      ∃ u, exec (.blockStoreNameOpPerform w p) s = .next (r.1.setWave u) ∧
        gets u (rows.map (fun y => (y.1, y.2, BitVec.ofNat 32 r.2)))) ∧
    (∀ qs, q.kind = .kvMap qs → s.kvInOrder x q.id s.nextId = true → (qs.map (fun y => (y.1, y.2.1))).Nodup →
      ∃ u, exec (.blockStoreNameOpPerform w p) s = .next (s.setWave u) ∧
        gets u (qs.map (fun y => (y.1, y.2.1, s.kvQuery (s.domainOf x.launch) y.2.2 x.tag))))

end Sys2Proof.Machine

/-- R119, R288 to R291 and R368 to R371: queue operations, continuations and block-store operations are performed as the
definitions above say. -/
def Obligations.SharedOperations : Prop := queueOperation ∧ continuations ∧ nameOperations

namespace Sys2Proof.Machine

/-- Whether a bulk operation of some bytes has neither read nor written any of them yet. -/
def Bulk.isFresh (b : Bulk) (reads writes : Nat) : Prop :=
  b.data = Taken.ofLength reads ∧ b.unput = rangeOf 0 writes ∧ b.carried = false

/-- Whether memory and its versions are as every run has them: no line has two COMMITTED versions (R149), and the list of bytes is
in its canonical form. -/
def State.oneCommitted (s : State) : Prop :=
  Memory.wf s.mem = true ∧ ∀ u ∈ s.versions, ∀ v ∈ s.versions, s.tagState u.tag.toNat = .committed →
    s.tagState v.tag.toNat = .committed → u.line = v.line → u = v

/-- Whether memory reads in one state, as untagged code sees it, as it does in another. -/
def readsAlike (s t : State) : Prop :=
  ∀ (ver : Bool) (k : Nat), isOwnedKey k = false → t.readByte 0 ver k = s.readByte 0 ver k

/-- Some stretches of bytes stand in a wave's own scratchpad, each from an offset on and a later one over an earlier, and every
other byte of it is as it was. -/
def scratchHolds (s t : State) (w : Wave) (xs : List (Nat × List (Byte × Bool))) : Prop :=
  ∀ (tm : Team), s.team? w.team = some tm → tm.uid = w.team → tm.granted ≤ 0x1000000 →
    (∀ x ∈ xs, x.1 + x.2.length ≤ tm.granted) →
    ∀ i, i < tm.granted → t.scratchByte w i = xs.foldl (fun v x =>
      if x.1 ≤ i ∧ i < x.1 + x.2.length then ((x.2[i - x.1]?).map (fun y => y.1)).getD 0 else v) (s.scratchByte w i)

/-- Bytes stand in a wave's own scratchpad from an offset on, and every other byte of it is as it was. -/
def inScratch (s t : State) (w : Wave) (base : Nat) (bs : List (Byte × Bool)) : Prop := scratchHolds s t w [(base, bs)]

/-- COPY_ENGINE_COMPLETE and COPY_ENGINE_FAULT (R277, R278, R280, R289, R429) of an operation that waits for no fault and whose
reads the order of its wave's accesses lets it make now: a CPYIN and a KVLD put the bytes read into scratchpad, a CPYGATH the
bytes of each element at its lane's address at its place there, lane after lane; a CPYOUT writes the bytes of scratchpad to
memory, a CPYSCAT those of each element to its lane's address, lane after lane; a KVST puts the bytes of scratchpad into the
block of its name from the offset on, a copy of it that the name alone resolves to where the block is shared or another's, and
no other name's block changes; a copy that is under way moves what it has left; a DIGEST writes the digest of its range; the
operation then leaves the engine and its counter. Memory that is only read stays as it reads (R149). A non-replayable or version
fault leaves what came before it, records the cause with the offset and address, marks the launch faulted, and the operation is
gone. -/
def copyEngine : Prop :=
  ∀ (s : State) (n : Nat) (b : Bulk) (w : Wave), tget s.bulk n = some b → b.id = n → s.wave? b.wave = some w →
    w.uid = b.wave → b.faultWait = none → s.dev = .d0 → s.bulkMayRead b w = true →
    let e := s.bulkEng b w (s.dropsTag b.tag)
    let clean := fun (l : List (Byte × Bool)) => ∀ x ∈ l, x.2 = false
    (∀ t : State, tget (t.endBulk b).bulk n = none) ∧
    (∀ va base len bs, b.kind = .copyIn va base len → b.isFresh len len → s.oneCommitted →
      s.engRead e va len = (bs, none) → clean bs →
      ∃ t, exec (.copyEngineComplete n) s = .next t ∧ tget t.bulk n = none ∧ readsAlike s t ∧ inScratch s t w base bs) ∧
    (∀ elems z bss, b.kind = .gather elems z → b.isFresh (elems.length * z) (elems.length * z) → s.oneCommitted →
      elems.map (fun x => s.engRead e x.1 z) = bss.map (fun bs => (bs, none)) → (∀ bs ∈ bss, clean bs) →
      ∃ t, exec (.copyEngineComplete n) s = .next t ∧ tget t.bulk n = none ∧ readsAlike s t ∧
        scratchHolds s t w ((elems.map (fun x => x.2)).zip bss)) ∧
    (∀ va base len s1, b.kind = .copyOut va base len → b.isFresh len len → clean (s.scratchRange w base len) →
      s.engWrite e va (s.scratchRange w base len) = (s1, none) →
      exec (.copyEngineComplete n) s = .next (s1.endBulk b)) ∧
    (∀ elems z s1, b.kind = .scatter elems z → b.isFresh (elems.length * z) (elems.length * z) →
      (∀ x ∈ elems, clean (s.scratchRange w x.2 z)) →
      elems.foldl (fun (r : State × Option Stop) x =>
        if r.2.isNone then r.1.engWrite e x.1 (s.scratchRange w x.2 z) else r) (s, none) = (s1, none) →
      exec (.copyEngineComplete n) s = .next (s1.endBulk b)) ∧
    (∀ s1, b.kind.isCopy = true → s.runCopy w e b (s.segs b) = (s1, none, false) →
      exec (.copyEngineComplete n) s = .next (s1.endBulk b)) ∧
    (∀ name off base len bs, b.kind = .kvLoad name off base len → b.isFresh len len → s.kvInOrder w b.before b.id = true →
      s.kvRead b name off len = .ok bs → clean bs →
      ∃ t, exec (.copyEngineComplete n) s = .next t ∧ tget t.bulk n = none ∧ t.mem = s.mem ∧ inScratch s t w base bs) ∧
    (∀ name off base len nm blk, b.kind = .kvStore name off base len → b.data = Taken.ofLength len →
      s.kvInOrder w b.before b.id = true → s.kvFind (s.domainOf b.launch) name b.tag = .ok (nm, blk) → off + len ≤ s.kvBlockSize →
      clean (s.scratchRange w base len) → s.kvNames.Nodup → (∀ m ∈ s.kvNames, m.block < s.nextId) →
      (∀ m ∈ s.kvNames, m.domain = nm.domain → m.name = nm.name → m.tag = nm.tag → m = nm) →
      (1 < s.kvRefs nm.block ∨ blk.owner ≠ b.tag → 0 < s.kvFreeBlocks ∧ (nm.tag = b.tag ∨ 0 < s.kvFreeNames)) →
      ∃ t m c, exec (.copyEngineComplete n) s = .next t ∧ tget t.bulk n = none ∧ t.mem = s.mem ∧
        t.kvFind (s.domainOf b.launch) name b.tag = .ok (m, c) ∧
        (∀ i, tgetD c.bytes i 0 =
          if off ≤ i ∧ i < off + len then s.scratchByte w (base + (i - off)) else tgetD blk.bytes i 0) ∧
        ∀ d k g y, s.kvBinding d k g = some y → y ≠ nm →
          t.kvBinding d k g = some y ∧ tget t.kvBlocks y.block = tget s.kvBlocks y.block) ∧
    (∀ name off base len s1, b.kind = .kvStore name off base len → s.kvInOrder w b.before b.id = true →
      s.kvStored b w = (s1, 0, false) → exec (.copyEngineComplete n) s = .next (s1.endBulk b)) ∧
    (∀ va len dst d s1, b.kind = .digest va len dst → b.data = Taken.ofLength len → s.digestRange e va len = .bytes d none →
      (s.engTouch (s.memPlaces e va len)).engWrite e dst (d.map (fun x => (x, false))) = (s1, none) →
      exec (.copyEngineComplete n) s = .next (s1.endBulk b)) ∧
    (∀ s1 k off va, b.kind.isCopy = true →
      s.runCopy w e b (s.segs b) = (s1, some { off := off, va := va, err := .cause k }, false) →
      exec (.copyEngineFault n) s = .next ((s1.bulkFault b w k off va 0).endBulk b))

/-- CPYRING_SLOT_ACQUIRE and CPYRING_SLOT_PUBLISH (R275): the copy that stands first among those that wait for a free slot takes
the free slots at the acquire index; it then puts one slot's bytes, as it has read them, into the slot, publishes it, and is
gone with its last slot. -/
def ringCopies : Prop :=
  ∀ (s : State) (n va ring cnt done : Nat) (slots : List Nat) (b : Bulk), tget s.bulk n = some b → b.id = n →
    b.kind = .ring va ring cnt done slots →
    let r := s.ring b.team ring
    (r.waiters.find? RingWaiter.wantsFree = some (.copy n) → r.at r.acq.toNat = 0 →
      let got := r.takeFree (cnt - done - slots.length)
      exec (.cpyringSlotAcquire n) s = .next (({ s with bulk := tset s.bulk n { b with
        kind := .ring va ring cnt done (slots ++ got.2) } } : State).updateRing b.team ring { got.1 with
          held := got.2 ++ r.held
          waiters := if done + slots.length + got.2.length = cnt then r.waiters.erase (.copy n) else r.waiters })) ∧
    ((r.waiters.find? RingWaiter.wantsFree ≠ some (.copy n) ∨ r.at r.acq.toNat ≠ 0) →
      exec (.cpyringSlotAcquire n) s = .next s) ∧
    (∀ slot rest w s1, slots = slot :: rest → s.wave? b.wave = some w → b.faultWait = none → s.bulkMayRead b w = true →
      s.runCopy w (s.bulkEng b w (s.dropsTag b.tag)) b ((s.segs b).take 1) = (s1, none, false) →
      ∃ s2 : State, exec (.cpyringSlotPublish n) s = .next (s2.updateRing b.team ring
          { (s1.ring b.team ring).put slot 2 with held := (s1.ring b.team ring).held.erase slot }) ∧
        (done + 1 = cnt → s2 = s1.endBulk b) ∧
        (done + 1 ≠ cnt → ∃ y, tget s2.bulk n = some y ∧ y.kind = .ring va ring cnt (done + 1) rest ∧
          s2.teams = s1.teams ∧ s2.mem = s1.mem)) ∧
    (∀ slot rest w s1 bs, slots = slot :: rest → s.wave? b.wave = some w → done < cnt → b.data.got = [] →
      b.unput = rangeOf (done * r.size) ((cnt - done) * r.size) →
      let e := s.bulkEng b w (s.dropsTag b.tag)
      s.oneCommitted → s.engRead e (va + done * 2 ^ r.sizeLog) (2 ^ r.sizeLog) = (bs, none) → (∀ x ∈ bs, x.2 = false) →
      (s.runCopy w e b ((s.segs b).take 1)).1 = s1 → inScratch s s1 w (r.base + slot * 2 ^ r.sizeLog) bs)

/-- RAY_END (R327 to R336) of a ray that waits for no fault and whose reads the order of its wave's accesses lets it make now: a
ray of a TRACE whose other rays have not all ended keeps its result; the only ray of a TRACE gives its result's words to its
lane's rows and is gone; a TRACEQ ray whose hit group's entry and depth are valid hands its task on and is gone. The lines read
are converted (R149), and nothing else in memory changes. -/
def rayEnds : Prop :=
  ∀ (s : State) (r : Nat) (x : Ray), tget s.rays r = some x → x.id = r → x.result = none → x.faultWait = none →
    s.rayMayRead x (s.rayPlaces x) = true →
    let o := (s.rayTrav x).outcome (bit ((x.regs[8]?).getD 0).toNat 0) r
    let s1 := s.engTouch (s.rayPlaces x)
    (∀ h, o = .hit h ∨ o = .miss →
      (∀ eng k y, x.eng = some eng → k ≠ r → tget s.rays k = some y → y.eng = some eng → y.result = none →
        ∃ t, exec (.rayEnd r) s = .next t ∧ tget t.rays r = some { x with result := some o.words } ∧ t.waves = s.waves ∧
          t.mem = s1.mem) ∧
      (∀ eng w, x.eng = some eng → s.rays = [(r, x)] → s.wave? x.wave = some w → w.isLive x.lane = true → x.lane < 64 →
        x.rows.Nodup → ∃ t u, exec (.rayEnd r) s = .next t ∧ tget t.rays r = none ∧ t.mem = s1.mem ∧
          t.wave? x.wave = some u ∧ u.vpc = w.vpc ∧
          ∀ (j row : Nat) (v : Word), x.rows[j]? = some row → o.words[j]? = some v → u.elem row x.lane = v) ∧
      (∀ l off role key, x.eng = none → s.launch? x.launch = some l → x.depth + 1 ≤ l.record.toNat / 2 ^ 432 % 2 ^ 4 →
        let h := 65536 + match o with
          | .hit z => z.group
          | _ => 0
        s1.taskEntry l x.cancelled x.tag h = .entry off role key → s.dropsTag x.tag = false → l.stopDispatch = false →
        s.heldTasks.any (fun z => z.source == 1 && z.place == x.core) = false → s.poolFree x.launch ≠ 0 →
        ∃ t y, exec (.rayEnd r) s = .next t ∧ tget t.rays r = none ∧
          t.mem = (s1.convertAt (s1.tablePlaces l x.cancelled h)).mem ∧ t.pool = s.pool ++ [y] ∧
          y.launch = x.launch ∧ y.tag = x.tag ∧ y.depth = x.depth + 1 ∧ y.record = o.words ++ x.payload))

/-- CB_MOVE_COMPLETE and CB_DEADLINE (R383 to R387) of a move that waits for no fault and may read now what it has left of its
source, which holds no poison: an arrival
at a handle that names no group is counted late, one at an unknown token or expert, or from another tag, or a second one of an
expert, is recorded as a duplicate; any other is folded in its turn and the releases that it brings about follow, the lines read
being converted (R149). The deadline step is applied to a group at its deadline; before it only the releases follow that a
CBCLOSE did not wait for (R388). -/
def combineMoves : Prop :=
  (∀ (s : State) (n : Nat) (m : CbMove) (w : Wave) (bs : List (Byte × Bool)), tget s.moves n = some m → m.id = n →
    s.wave? m.wave = some w → m.faultWait = none →
    s.mayRead w m.before m.id (s.rangePlaces w m.eng_ [m.source] m.data.left) = true →
    s.fetch w m.eng_ m.data m.source 0 m.len = (bs, none) → (∀ y ∈ bs, y.2 = false) →
    let s1 := s.touchRanges w m.eng_ [m.source] [(0, m.len)]
    let ends := fun (t : State) => exec (.cbMoveComplete n) s = .next (t.cbMoveEnd m false)
    (m.data = Taken.ofLength m.len → m.fromScratch = true → bs = s.scratchRange w m.src m.len) ∧
    (m.data = Taken.ofLength m.len → m.fromScratch = false → s.engRead m.eng_ m.src m.len = (bs, none)) ∧
    (s.cbGroup? m.domain m.handle = none → ends (s1.cbLate none m.launch)) ∧
    (∀ g, s.cbGroup? m.domain m.handle = some g →
      (tget g.tokens m.token = none → ends (s1.cbDuplicate m (s1.whoOf w))) ∧
      (∀ t, tget g.tokens m.token = some t → t.st < 3 →
        (entryExperts t.entry.toNat).find? (fun x => x.2 == m.expert) = none → ends (s1.cbDuplicate m (s1.whoOf w))) ∧
      (∀ t j z, tget g.tokens m.token = some t → (entryExperts t.entry.toNat).find? (fun x => x.2 == m.expert) = some (j, z) →
        (3 ≤ t.st ∨ t.subst.getLsbD j = true → ends (s1.cbLate (some g.num) m.launch)) ∧
        (t.st < 3 → t.subst.getLsbD j = false → t.arrived.getLsbD j = true ∨ m.tag ≠ g.tag →
          ends (s1.cbDuplicate m (s1.whoOf w))) ∧
        (t.st < 3 → t.subst.getLsbD j = false → t.arrived.getLsbD j = false → m.tag = g.tag → t.bad = [] →
          ends (State.cbRelease g.num cbFuel (s1.setToken g.num m.token (t.arrive (g.header.toNat / 2 ^ 48 % 4) j
            ((chunks m.esize bs).map (fun b => BitVec.ofNat 32 (ofBytes (b.map (fun x => x.1)))))))))))) ∧
  (∀ (s : State) (n at_ : Nat) (g : CbGroup), tget s.groups n = some g → g.deadline = some at_ →
    (at_ ≤ s.colClk g.column → exec (.cbDeadline n) s = .next (s.cbExpire g)) ∧
    (s.colClk g.column < at_ → exec (.cbDeadline n) s = .next (State.cbRelease n cbFuel s))) ∧
  (∀ (s : State) (n : Nat) (g : CbGroup), tget s.groups n = some g → g.deadline = none →
    exec (.cbDeadline n) s = .next (State.cbRelease n cbFuel s))

end Sys2Proof.Machine

/-- R275 to R280, R289, R327 to R336, R383 to R387 and R429: what the copy engines, the ray engines and the combine buffer have
in flight completes as the definitions above say. -/
def Obligations.EngineSteps : Prop := copyEngine ∧ ringCopies ∧ rayEnds ∧ combineMoves

namespace Sys2Proof.Machine

/-- JOINT_OP_RESERVE and GANG_WATCHDOG (R302, R304, R306): a COMPLETE latch whose cluster's table has a free entry becomes an
entry with its arrivals in member order, the highest priority among its waves and its tiles; the latch is EMPTY and the members'
waits end. A latch that has waited 1,048,576 clk is withdrawn with the gang time-out trap, the gang in its record, and each wave
that had arrived waits no longer, the trap being its own unless every lane of it has exited. Otherwise, and while the unit is
saved, nothing happens. -/
def gangSteps : Prop :=
  ∀ (s : State) (g n : Nat) (x : Grp) (gg : Gang), tget s.grps g = some x → tget x.gangs n = some gg →
    (∀ a ∈ gg.latch, ∃ w, s.wave? a.wave = some w ∧ w.wait = .gang n ∧ w.mode = false) → (gg.latch.map (fun a => a.wave)).Nodup →
    let full := decide ((s.resvOn x.cluster).length ≥ 32)
    ((gg.complete = false ∨ full = true ∨ 2 ≤ x.status) → exec (.jointOpReserve g n) s = .next s) ∧
    (gg.complete = true → full = false → x.status < 2 → ∃ t e arr, exec (.jointOpReserve g n) s = .next t ∧
      t.resv = tset s.resv s.nextId e ∧ e.cluster = x.cluster ∧ e.granted = false ∧ e.raised = false ∧
      arr.Perm gg.latch ∧ arr.Pairwise (fun a b => a.member ≤ b.member) ∧
      e.kind = .joint g n ((arr.map (fun a => a.stream)).headD 0) ((arr.map (fun a => a.op)).headD 0) arr 0 ∧
      e.tiles = arr.map (fun a => (a.team, a.tile)) ∧
      (∃ y, tget t.grps g = some y ∧ ∃ hh, tget y.gangs n = some hh ∧ hh.latch = [] ∧ hh.complete = false ∧
        hh.members = gg.members ∧ hh.reuse = gg.reuse) ∧
      ∀ a ∈ gg.latch, ∀ w, s.wave? a.wave = some w →
        w.prio ≤ e.prio ∧ t.wave? a.wave = some { w with wait := .none }) ∧
    ((gg.latch = [] ∨ gg.complete = true ∨ gg.waited < 1048576 ∨ 2 ≤ x.status) → exec (.gangWatchdog g n) s = .next s) ∧
    (gg.latch ≠ [] → gg.complete = false → 1048576 ≤ gg.waited → x.status < 2 → ∃ t, exec (.gangWatchdog g n) s = .next t ∧
      (∃ y hh, tget t.grps g = some y ∧ tget y.gangs n = some hh ∧ hh.latch = [] ∧ hh.members = gg.members) ∧
      ∀ a ∈ gg.latch, ∀ w, s.wave? a.wave = some w → ∃ u, t.wave? a.wave = some u ∧ u.wait = .none ∧
        (w.live.isEmpty = false → ∃ v, u.trap = some v ∧ v.cause = 13 ∧
          v.lanes = a.run.active ∧ v.info = BitVec.ofNat 64 n ∧ v.offset = a.offset))

/-- MATRIX_GRANT and MATRIX_ENTRY_RAISE (R307, R311): while no entry of the cluster is granted, the one that the arbiter picks
is granted, a joint one with the next slot of its stream, an ACCLD with the low 36 bits of each 8 bytes of scratchpad as its
tile's elements, its tag unchanged (R316, R351), once the order of its wave's accesses lets it read them; an entry ready for
65,536 clk is raised. -/
def arbiterSteps : Prop :=
  ∀ (s : State) (e : Nat) (x : Resv), tget s.resv e = some x →
    let busy := (s.resvOn x.cluster).any (fun y => y.granted)
    ((busy = true ∨ s.arbiterPick x.cluster ≠ some x) → exec (.matrixGrant e) s = .next s) ∧
    (busy = false → s.arbiterPick x.cluster = some x → s.barredWave x.wave = false →
      (∀ g n st op arr k, x.kind = .joint g n st op arr k →
        exec (.matrixGrant e) s = .next { (s.takeSlot g n st).1 with
          resv := tset (s.takeSlot g n st).1.resv e { x with
            granted := true
            kind := .joint g n st op arr (s.takeSlot g n st).2 } }) ∧
      (∀ n f base tag tm w, x.kind = .accld n f base tag → s.team? x.team = some tm → s.wave? x.wave = some w →
        let may := s.mayRead w w.nextPend s.nextId (s.scratchPlaces w 8 base 32768)
        (may = false → exec (.matrixGrant e) s = .next s) ∧
        (may = true → ∃ t u, exec (.matrixGrant e) s = .next t ∧ tget t.resv e = some { x with granted := true } ∧
          t.team? x.team = some u ∧ (tgetD u.tiles n Tile.empty).tag = (tgetD tm.tiles n Tile.empty).tag ∧
          ∀ p, p < 4096 → tgetD (tgetD u.tiles n Tile.empty).elems p 0 =
            BitVec.ofNat 36 (ofBytes (s.scratchBytes w (base + 8 * p) 8)))) ∧
      ((∀ g n st op arr k, x.kind ≠ .joint g n st op arr k) → (∀ n f base tag, x.kind ≠ .accld n f base tag) →
        exec (.matrixGrant e) s = .next { s with resv := tset s.resv e { x with granted := true } })) ∧
    (s.resvReady x = true → s.readySince x + 65536 ≤ s.colClk (x.cluster / 4) →
      exec (.matrixEntryRaise e) s = .next { s with resv := tset s.resv e { x with raised := true } }) ∧
    ((s.resvReady x = false ∨ s.colClk (x.cluster / 4) < s.readySince x + 65536) →
      exec (.matrixEntryRaise e) s = .next s)

/-- MATRIX_PASS_COMPLETE and ACC_OP_COMPLETE (R297, R308, R315 to R317) of a granted entry: the pass of the lowest member left
gives each element of its tile the value of the pass over the fragments, its tag unchanged, and while members are left the entry
goes on with them; ACCZ leaves a tile of zeros with its tag, ACCLD the tile that it read at its grant, ACCST the bytes of the
tile in scratchpad, ACCRD the words of the tile in the lanes' rows; these leave the table. -/
def passSteps : Prop :=
  ∀ (s : State) (e : Nat) (x : Resv), tget s.resv e = some x → x.granted = true →
    (∀ g n st op slot a b rest tm l, x.kind = .joint g n st op (a :: b :: rest) slot → s.team? a.team = some tm →
      s.launch? tm.launch = some l → s.barredWave a.wave = false →
      let sm := s.stream g st
      let width := 16 * 2 ^ (l.record.toNat / 2 ^ 112 % 4)
      let words := fragBytes (pairK (tagFmt a.frag.tag) sm.fmt) (elemCount sm.fmt) / 4
      let tile := tgetD tm.tiles a.tile Tile.empty
      let out := passTile op a.frag width (s.bWords sm slot words) sm.fmt (sext sm.scale.toNat 8) tile
      exec (.matrixPassComplete e) s = .next { (s.setTile a.team a.tile out).engDone a.eng with
        resv := tset s.resv e { x with kind := .joint g n st op (b :: rest) slot } } ∧ out.tag = tile.tag ∧
      ∀ p, p < 4096 → tgetD out.elems p 0 = BitVec.ofNat 36
        (passElem op a.frag width (s.bWords sm slot words) sm.fmt (sext sm.scale.toNat 8) (tgetD tile.elems p 0).toNat
          (p / 64) (p % 64)).1) ∧
    (s.barredWave x.wave = true → (∀ g n st op arr k, x.kind ≠ .joint g n st op arr k) →
      exec (.accOpComplete e) s = .next s) ∧
    (s.barredWave x.wave = false →
    (∀ n tag tm, x.kind = .accz n tag → s.team? x.team = some tm → ∃ t u, exec (.accOpComplete e) s = .next t ∧
      tget t.resv e = none ∧ t.team? x.team = some u ∧ (tgetD u.tiles n Tile.empty).elems = [] ∧
      (tgetD u.tiles n Tile.empty).tag = (tgetD tm.tiles n Tile.empty).tag) ∧
    (∀ n f base tag, x.kind = .accld n f base tag → ∃ t, exec (.accOpComplete e) s = .next t ∧ tget t.resv e = none ∧
      t.teams = s.teams ∧ t.mem = s.mem) ∧
    (∀ n base w tm, x.kind = .accst n base → s.wave? x.wave = some w → s.team? w.team = some tm → tm.uid = w.team →
      base + 32768 ≤ tm.granted → tm.granted ≤ 0x1000000 →
      ∃ t, exec (.accOpComplete e) s = .next t ∧ tget t.resv e = none ∧
        ∀ p, p < 4096 → t.scratchBytes w (base + 8 * p) 8 = toBytes 8 (tgetD (s.tile x.team n).elems p 0).toNat) ∧
    (∀ n chunk tag toF rows w, x.kind = .accrd n chunk tag false toF rows → s.wave? x.wave = some w → w.uid = x.wave →
      (rows.map (fun r => r.1)).Nodup → (∀ r ∈ rows, r.2.Nodup ∧ r.1 < 64 ∧ w.isLive r.1 = true) →
      ∃ t u, exec (.accOpComplete e) s = .next t ∧ tget t.resv e = none ∧ t.wave? x.wave = some u ∧ u.vpc = w.vpc ∧
        ∀ r ∈ rows, ∀ (j row : Nat), r.2[j]? = some row → u.elem row r.1 =
          accValue tag toF (tgetD (s.tile x.team n).elems ((8 * chunk + j) * w.width + r.1) 0)))

end Sys2Proof.Machine

/-- R292 to R317: rendezvous latches, the arbiter and the passes and accumulator operations of a matrix engine go on as the
definitions above say. -/
def Obligations.MatrixSteps : Prop := gangSteps ∧ arbiterSteps ∧ passSteps

/-! ### Walks, the host fault queue, TLB invalidation, line moves and checks (R102, R118, R248 to R261, R409 to R421) -/

namespace Sys2Proof.Machine

/-- PAGE_WALK (R248, R251): a walk of an address below 2^52 that no cached translation serves and that reaches a leaf puts the
leaf of its page into the TLB; nothing is cached of a walk that fails, and nothing else changes. -/
def pageWalks : Prop :=
  ∀ (s : State) (dom va : Nat),
    (∀ e level, va < 2 ^ 52 → s.tlbHit? dom va = none → s.walk dom va = .ok (e, level) →
      let size := (pageSize level (e / 2 ^ 62 % 4)).getD 4096
      exec (.pageWalk dom va) s = .next { s with tlb :=
        { domain := dom
          page := va / size * size / 4096
          pages := size / 4096
          leaf := BitVec.ofNat 64 e
          inUse := true } :: s.tlb }) ∧
    (∀ e, s.walk dom va = .error e → exec (.pageWalk dom va) s = .next s) ∧
    (2 ^ 52 ≤ va → exec (.pageWalk dom va) s = .next s) ∧
    (s.tlbHit? dom va ≠ none → exec (.pageWalk dom va) s = .next s)

/-- FAULT_RECORD_POST (R250): with room in the host fault queue a record not yet posted is written, 32 bytes in host memory at
the write index modulo the queue's size, with an id that no posted and unanswered record holds, and the index moves on; with no
room, or while every id is held, it waits. -/
def faultPosts : Prop :=
  ∀ (s : State) (r : Nat) (x : FaultRec), s.faults.find? (fun y => y.id == r && !y.posted) = some x → x.id = r →
    (∀ v ∈ s.versions, s.tagState v.tag.toNat ≠ .committed) →
    let size := 2 ^ (s.regs.faultq.toNat % 16 + 7)
    let rd := s.regs.faultIdx.toNat / 2 ^ 32
    let wr := s.regs.faultIdx.toNat % 2 ^ 32
    let key := storageKey 2 (s.regs.faultq.toNat / 2 ^ 12 * 4096 + 32 * (wr % size))
    let isFree := fun (i : Nat) => i < 2 ^ 16 ∧ ∀ y ∈ s.faults, y.posted = true → y.ext ≠ i
    let record := fun (i : Nat) => i + x.lcore.toNat * 2 ^ 32 + x.launch.toNat * 2 ^ 64 + x.level % 2 ^ 8 * 2 ^ 144 +
      x.access.toNat * 2 ^ 152 + 1 * 2 ^ 160 + x.domain % 2 ^ 16 * 2 ^ 176 + x.va % 2 ^ 64 * 2 ^ 192
    (size ≤ (wr + 2 ^ 32 - rd) % 2 ^ 32 → exec (.faultRecordPost r) s = .next s) ∧
    ((∀ i, ¬isFree i) → exec (.faultRecordPost r) s = .next s) ∧
    ((wr + 2 ^ 32 - rd) % 2 ^ 32 < size → (∃ i, isFree i) → ∃ t i, exec (.faultRecordPost r) s = .next t ∧ isFree i ∧
      (∀ j, j < 32 → mget t.mem (key + j) = BitVec.ofNat 8 (record i / 2 ^ (8 * j))) ∧
      (∀ k, (k < key ∨ key + 32 ≤ k) → mget t.mem k = mget s.mem k) ∧
      t.regs.faultIdx.toNat = rd * 2 ^ 32 + (wr + 1) % 2 ^ 32 ∧
      t.faults = s.faults.map (fun y => if y.id = r then { x with posted := true, ext := i } else y) ∧
      t.waves = s.waves ∧ t.bulk = s.bulk ∧ t.rays = s.rays ∧ t.waiters = s.waiters)

/-- What waits on record r after the host's answer (R250): it waits no longer, and a cancel adds the page to those it finds
cancelled. -/
def released (r page : Nat) (cancel : Bool) (wait wait' : Option Nat) (old old' : List Nat) : Prop :=
  (wait = some r → wait' = none ∧ old' = if cancel then page :: old else old) ∧ (wait ≠ some r → wait' = wait ∧ old' = old)

/-- FAULT_REPLAY and FAULT_CANCEL (R250): REPLAY takes the id and the action. With a posted record of that id, the record is
gone and every access that waits on it goes on; after a cancel it finds its page cancelled. With none nothing else changes. The
premises on the device's own writes and on the display heads leave out those that wait on the record, which `deviceWrites` and
`headAnswers` state. The model's reading (log entry 44, DEDUCED): a cancel holds for the accesses that waited when it came. -/
def faultAnswers : Prop :=
  ∀ (s : State) (r : Nat) (cancel : Bool), r < 2 ^ 16 →
    let ev : Instr := if cancel then .faultCancel r else .faultReplay r
    let regs := { s.regs with replay := BitVec.ofNat 64 (r + if cancel then 65536 else 0) }
    (s.faults.find? (fun y => y.ext == r && y.posted) = none → exec ev s = .next { s with regs := regs }) ∧
    (∀ x, s.faults.find? (fun y => y.ext == r && y.posted) = some x →
      (∀ d ∈ s.devWrites, d.waits ≠ none ∧ d.waits ≠ some x.id) → (∀ y ∈ s.waiters, y.cls ≠ 5) →
      (∀ y ∈ s.waiters, y.cls = 4 → y.record ≠ x.id ∨ y.cancelled = true) →
      ∃ t, exec ev s = .next t ∧ t.regs = regs ∧ t.mem = s.mem ∧ t.faults = s.faults.filter (fun y => y.id != x.id) ∧
        t.devWrites = s.devWrites ∧
        (∀ k w, tget s.waves k = some w → ∃ u, tget t.waves k = some u ∧
          released x.id x.page cancel w.faultWait u.faultWait w.cancelled u.cancelled ∧ u.vpc = w.vpc ∧ u.rows = w.rows) ∧
        (∀ k w, tget s.bulk k = some w → ∃ u, tget t.bulk k = some u ∧
          released x.id x.page cancel w.faultWait u.faultWait w.cancelled u.cancelled ∧ u.kind = w.kind) ∧
        (∀ k w, tget s.rays k = some w → ∃ u, tget t.rays k = some u ∧
          released x.id x.page cancel w.faultWait u.faultWait w.cancelled u.cancelled ∧ u.result = w.result) ∧
        (∀ k w, tget s.moves k = some w → ∃ u, tget t.moves k = some u ∧
          released x.id x.page cancel w.faultWait u.faultWait w.cancelled u.cancelled) ∧
        (∀ k w, tget s.groups k = some w → ∃ u, tget t.groups k = some u ∧
          released x.id x.page cancel w.faultWait u.faultWait w.cancelled u.cancelled ∧ u.tokens = w.tokens) ∧
        (∀ k w, tget s.packetCopies k = some w → ∃ u, tget t.packetCopies k = some u ∧
          released x.id x.page cancel w.faultWait u.faultWait w.cancelled u.cancelled) ∧
        (cancel = false → t.waiters = s.waiters.filter (fun y => y.record != x.id || y.cancelled)) ∧
        (cancel = true → t.waiters = s.waiters.map (fun y => if y.record = x.id then { y with cancelled := true } else y)))

/-- The device's own writes when the host answers a record (R250, R468): one that waits on the record fails with reason 1 after
a cancel and is made anew after a replay, and one that waits on another record stays. -/
def deviceWrites : Prop :=
  ∀ (s : State) (r : Nat) (cancel : Bool) (d : DevWrite), s.devWrites = [d] → r < 2 ^ 16 →
    ∀ x, s.faults.find? (fun y => y.ext == r && y.posted) = some x → s.waves = [] → s.bulk = [] → s.rays = [] → s.moves = [] →
      s.groups = [] → s.packetCopies = [] → s.waiters = [] →
      let t := { s with
        regs := { s.regs with replay := BitVec.ofNat 64 (r + if cancel then 65536 else 0) }
        faults := s.faults.filter (fun y => y.id != x.id)
        devWrites := [] }
      exec (if cancel then .faultCancel r else .faultReplay r) s = .next (
        if d.waits = some x.id then (if cancel then t.devFail d 1 else t.devWrite d)
        else if d.waits = none then t.devWrite d
        else { t with devWrites := [d] })

/-- A display head whose surface waits on the record that the host answers (R250, R445) reads it again: after a replay as it is
mapped now, after a cancel as a surface that faults. -/
def headAnswers : Prop :=
  ∀ (s : State) (r h page : Nat) (cancel : Bool), r < 2 ^ 16 → h < 4 →
    ∀ x, s.faults.find? (fun y => y.ext == r && y.posted) = some x → s.waves = [] → s.bulk = [] → s.rays = [] → s.moves = [] →
      s.groups = [] → s.packetCopies = [] → s.devWrites = [] →
      let wait : Waiter :=
        { cls := 4
          num := h
          domain := (s.head h).domain
          page := page
          record := x.id
          cancelled := false }
      s.waiters = [wait] →
      let t := { s with
        regs := { s.regs with replay := BitVec.ofNat 64 (r + if cancel then 65536 else 0) }
        faults := s.faults.filter (fun y => y.id != x.id)
        waiters := if cancel then [{ wait with cancelled := true }] else [] }
      exec (if cancel then .faultCancel r else .faultReplay r) s = .next (t.present h (s.head h).current false)

/-- TLBINV_RANGE, TLBINV_DOMAIN, TLBINV_ALL and TLBINV_DONE (R251): a write of TLBINV_CTL sets busy with its fields and is
ignored while busy; once no access that a wave has in flight was translated through the range, no entry of the range is left in
the TLB and busy clears: that these accesses, and no engine's, are the ones it waits for is the model's reading (log entry 44,
DEDUCED). -/
def tlbInvalidations : Prop :=
  (∀ (s : State) (v : DWord),
    let set := fun (scope : Nat) => Host.Outcome.next { s with regs := { s.regs with
      tlbinvCtl := BitVec.ofNat 64 (v.toNat % 2 ^ 48 + scope * 2 ^ 48 + 2 ^ 63) } }
    (s.regs.tlbinvCtl.toNat < 2 ^ 63 → exec (.tlbinvRange v) s = set 0 ∧ exec (.tlbinvDomain v) s = set 1 ∧
      exec (.tlbinvAll v) s = set 2) ∧
    (2 ^ 63 ≤ s.regs.tlbinvCtl.toNat → exec (.tlbinvRange v) s = .next s ∧ exec (.tlbinvDomain v) s = .next s ∧
      exec (.tlbinvAll v) s = .next s)) ∧
  (∀ (s : State),
    let v := s.regs.tlbinvCtl.toNat
    let first := s.regs.tlbinvVa.toNat / 2 ^ 12 % 2 ^ 40
    let hits := fun (dom page pages : Nat) =>
      v / 2 ^ 48 % 4 = 0 ∧ dom = v / 2 ^ 32 % 2 ^ 16 ∧ page < first + v % 2 ^ 32 ∧ first < page + pages ∨
      v / 2 ^ 48 % 4 = 1 ∧ dom = v / 2 ^ 32 % 2 ^ 16 ∨ 2 ≤ v / 2 ^ 48 % 4
    (v < 2 ^ 63 → exec .tlbinvDone s = .next s) ∧
    (2 ^ 63 ≤ v → (∃ w ∈ tvals s.waves, ∃ p ∈ w.pend, ∃ a ∈ p.kind.memAccs, hits (s.domainOf w.launch) (a.addr / 4096) 1) →
      exec .tlbinvDone s = .next s) ∧
    (2 ^ 63 ≤ v → (∀ w ∈ tvals s.waves, ∀ p ∈ w.pend, ∀ a ∈ p.kind.memAccs,
        ¬hits (s.domainOf w.launch) (a.addr / 4096) 1) →
      ∃ t, exec .tlbinvDone s = .next t ∧ t.regs.tlbinvCtl.toNat = v - 2 ^ 63 ∧
        (∀ e, e ∈ t.tlb ↔ e ∈ s.tlb ∧ ¬hits e.domain e.page e.pages) ∧
        t = { s with
          tlb := t.tlb
          regs := { s.regs with tlbinvCtl := t.regs.tlbinvCtl } }))

/-- LINE_MOVE (R253): a line moves to another slice, or back home; a line with a branch version or that a fence watches stays,
and so does every line while a launch in deterministic mode exists (log entry 80: the model's choice, R253 asks it of det
pages). No byte of memory changes. -/
def lineMoves : Prop :=
  ∀ (s : State) (line slice : Nat),
    (slice = homeSlice (line * 128) → exec (.lineMove line slice) s = .next { s with moved := tdel s.moved line }) ∧
    (slice ≠ homeSlice (line * 128) → slice < 128 → (∀ v ∈ s.versions, v.line ≠ line) → s.detLaunch = false →
      (∀ e ∈ s.queues, line ∉ s.watched e.1 e.2) →
      exec (.lineMove line slice) s = .next { s with moved := tset s.moved line slice }) ∧
    (slice ≠ homeSlice (line * 128) → (128 ≤ slice ∨ (∃ v ∈ s.versions, v.line = line) ∨ s.detLaunch = true ∨
        ∃ e ∈ s.queues, line ∈ s.watched e.1 e.2) →
      exec (.lineMove line slice) s = .next s)

/-- An error record (R421): the sequence number moves on; with room in the error queue 64 bytes are written in host memory at
the write index modulo its size and the index moves on; with none the lost count rises, up to its largest value. -/
def errorRecords : Prop :=
  ∀ (s : State) (source reason addr : Nat) (who : Who), (∀ v ∈ s.versions, s.tagState v.tag.toNat ≠ .committed) →
    source < 2 ^ 8 → reason < 2 ^ 8 →
    let size := 2 ^ (s.regs.errq.toNat % 16 + 6)
    let rd := s.regs.errIdx.toNat / 2 ^ 32
    let wr := s.regs.errIdx.toNat % 2 ^ 32
    let key := storageKey 2 (s.regs.errq.toNat / 2 ^ 12 * 4096 + 64 * (wr % size))
    let record := s.errSeq.toNat + source * 2 ^ 48 + reason * 2 ^ 56 + who.wave % 2 ^ 8 * 2 ^ 72 +
      who.lcore % 2 ^ 16 * 2 ^ 80 + who.launch.toNat * 2 ^ 96 + addr % 2 ^ 64 * 2 ^ 160
    let t := s.errorRecord source reason addr who []
    t.errSeq = s.errSeq + 1 ∧ t.waves = s.waves ∧ t.teams = s.teams ∧
    (size ≤ (wr + 2 ^ 32 - rd) % 2 ^ 32 → t.mem = s.mem ∧ t.regs.errIdx = s.regs.errIdx ∧
      t.regs.errLost = satInc s.regs.errLost) ∧
    ((wr + 2 ^ 32 - rd) % 2 ^ 32 < size → t.regs.errLost = s.regs.errLost ∧
      t.regs.errIdx.toNat = rd * 2 ^ 32 + (wr + 1) % 2 ^ 32 ∧
      (∀ j, j < 64 → mget t.mem (key + j) = BitVec.ofNat 8 (record / 2 ^ (8 * j))) ∧
      ∀ k, (k < key ∨ key + 64 ≤ k) → mget t.mem k = mget s.mem k)

/-- How a check's end is recorded (R411, R420): event 0 where the retry passes, 1 where it fails; where a wave's access met it,
the record names that wave, whose sr.errstat takes the source, and counts the error where the retry passed. -/
def checkRecords : Prop :=
  ∀ (s : State) (site w addr : Nat) (pass : Bool), site < 2 ^ 8 →
    (s.wave? w = none → s.checkRecord site w addr pass = s.errorRecord site (if pass then 0 else 1) addr Who.none []) ∧
    (∀ v, s.wave? w = some v → v.uid = w → ∃ t u, s.checkRecord site w addr pass = t ∧ t.wave? w = some u ∧
      t.errSeq = s.errSeq + 1 ∧ u.rows = v.rows ∧ u.vpc = v.vpc ∧ u.errstat.toNat / 2 ^ 8 % 2 ^ 8 = site ∧
      (pass = true → u.errstat.toNat % 2 = 1 ∧
        u.errstat.toNat / 2 ^ 48 = Nat.min (v.errstat.toNat / 2 ^ 48 + 1) 65535) ∧
      (pass = false → u.errstat.toNat / 2 ^ 48 = v.errstat.toNat / 2 ^ 48))

/-- CHECK_RETRY of a wave's registers (R409, R411, R419, R420): x is the wave, y the row (its window's, or a trap window's), z
the lane; 2048 + k is a k register and 4096 + a row that row's tag, whose loss poisons the row (log entry 83: the model's
choice). -/
def registerChecks : Prop :=
  ∀ (s : State) (x y z n : Nat) (v : Wave), s.wave? x = some v → v.uid = x → z < v.width → v.width ≤ 64 →
    (∀ pass, (y < v.allot ∧ y < 2048 ∨ 1024 ≤ y ∧ y < 1056) →
      ∃ t u, exec (.checkRetry ⟨1, n⟩ x y z pass) s = .next t ∧ t.wave? x = some u ∧ u.vpc = v.vpc ∧ u.elem y z = v.elem y z ∧
        u.errstat.toNat / 2 ^ 8 % 2 ^ 8 = 1 ∧
        (pass = true → u.rows = v.rows ∧ u.errstat.toNat % 2 = 1 ∧
          u.errstat.toNat / 2 ^ 48 = Nat.min (v.errstat.toNat / 2 ^ 48 + 1) 65535) ∧
        (pass = false → (u.row y).poison.getLsbD z = true ∧ u.errstat.toNat / 2 % 2 = 1)) ∧
    (2048 ≤ y → y < 2112 → ∃ t u, exec (.checkRetry ⟨1, n⟩ x y z false) s = .next t ∧ t.wave? x = some u ∧
      u.kpoison.getLsbD (y - 2048) = true ∧ u.k = v.k) ∧
    ((4096 ≤ y ∧ y < 4096 + v.allot ∨ 5120 ≤ y ∧ y < 5152) →
      ∃ t u, exec (.checkRetry ⟨1, n⟩ x y z false) s = .next t ∧ t.wave? x = some u ∧ u.errstat.toNat / 2 % 2 = 1 ∧
        ∀ l, l < v.width → (u.row (y - 4096)).poison.getLsbD l = true ∧ u.elem (y - 4096) l = v.elem (y - 4096) l)

/-- The sector of a location is poisoned: of the committed line, or of the version of a branch's tag (R414). -/
def sectorLost (s : State) (key tag : Nat) : State :=
  if tag % 16 = 0 then { s with poison := setPoison s.poison (key / 32) true }
  else { s with versions := s.versions.map (fun v => if v.line = key / 128 ∧ v.tag.toNat = tag % 16 then
    { v with poison := v.poison ||| (1#4 <<< (key % 128 / 32)) } else v) }

/-- CHECK_RETRY of the stores and transfers of memory (R409, R411, R414, R418, R420): a retry that passes leaves a record alone;
one that fails poisons the unit: a scratchpad word, a sector of memory, in the version of a tag where it is a branch's, a
sector of a block of the block store, or the copy of a sector that a buffer holds, which a passing retry fetches anew; of a
transfer, the sector that a store wrote, with bit 3 of its wave's sr.errstat, or what one reader gets of a sector once: a core,
its instruction buffer, an engine, or what the block store sends. How the parameters name the unit, and that a copy or one
transfer is struck and not the memory behind it, is the model's reading (log entry 47, DEDUCED). -/
def memoryChecks : Prop :=
  ∀ (s : State) (x y z n : Nat),
    (∀ tm, tget s.teams x = some tm → y < tm.granted →
      exec (.checkRetry ⟨2, n⟩ x y z true) s = .next (s.checkRecord 2 n y true) ∧
      exec (.checkRetry ⟨2, n⟩ x y z false) s = .next ((s.modTeam x (fun t => { t with
        scratchPoison := setPoison t.scratchPoison (y / 4) true })).checkRecord 2 n y false)) ∧
    (∀ site, (site = 4 ∨ site = 5 ∨ site = 6 ∨ site = 9) →
      exec (.checkRetry ⟨site, n⟩ x y z true) s = .next (s.checkRecord site n x true) ∧
      exec (.checkRetry ⟨site, n⟩ x y 0 false) s = .next ((sectorLost s x y).checkRecord site n x false) ∧
      exec (.checkRetry ⟨site, n⟩ x y 1 false) s = .next ({ s with kvBlocks := tmod s.kvBlocks x (fun b => { b with
        poison := setPoison b.poison (y / 32) true }) }.checkRecord site n x false)) ∧
    (∀ site, (site = 8 ∨ site = 10) →
      (∀ z, z < 2 → exec (.checkRetry ⟨site, n⟩ x y z true) s = .next (s.checkRecord site n x true)) ∧
      exec (.checkRetry ⟨site, n⟩ x y 2 true) s = .next (s.checkRecord site n 0 true) ∧
      exec (.checkRetry ⟨site, n⟩ x y 0 false) s = .next (((sectorLost s x y).modWave n (fun w =>
        { w with errstat := w.errstat ||| 8 })).checkRecord site n x false) ∧
      (let reader := if y < 256 then coreTransfer y else if y < 512 then y else engineTransfer
       exec (.checkRetry ⟨site, n⟩ x y 1 false) s =
        .next ({ s with badCopies := (reader, x / 32) :: s.badCopies }.checkRecord site n x false)) ∧
      exec (.checkRetry ⟨site, n⟩ x y 2 false) s =
        .next ({ s with badCopies := (blockTransfer x, y / 32) :: s.badCopies }.checkRecord site n 0 false)) ∧
    (y < 512 →
      exec (.checkRetry ⟨3, n⟩ x y z true) s = .next ({ s with badCopies := s.badCopies.filter (fun c => c != (y, x / 32)) }.checkRecord
        3 n x true) ∧
      exec (.checkRetry ⟨3, n⟩ x y z false) s = .next ({ s with badCopies := (y, x / 32) :: s.badCopies }.checkRecord 3 n x false))

/-- CHECK_RETRY of a vertical bus and of the remap table (R255 to R261, R412): the read that failed is poisoned where the new
route fails as well: of a location that this bus carries, its own or one of a neighbour's retired bus (R256), or of a block of
the block store on its column; a bus that fails is retired and its lines take the route that R256 gives; a remap entry is
rewritten from its other copy. The parameters of the steps are the model's (log entry 47, DEDUCED). -/
def busChecks : Prop :=
  ∀ (s : State) (x y z n : Nat), x < 16 → y < 8 →
    (s.busServes x y = true →
      exec (.checkRetry ⟨7, n⟩ x y 0 false) s = .next (s.retireBus x y) ∧
      exec (.checkRetry ⟨7, n⟩ x y 0 true) s = .next (s.busTransient x y n) ∧
      (z + 1 < 2 ^ 100 →
        let own := z % 2 ^ 48 / 2 ^ 31
        let routed := fun (c : Nat) => s.busServes c y = false ∧
          (if s.busServes (c ^^^ 1) y then c ^^^ 1 = x else s.busServes (c ^^^ 4) y = true ∧ c ^^^ 4 = x)
        let carries := z / 2 ^ 48 = 1 ∧ z / 2 ^ 10 % 8 = y ∧ (own = x ∨ routed own)
        (carries → exec (.checkRetry ⟨7, n⟩ x y (z + 1) false) s =
          .next ({ s.retireBus x y with poison := setPoison (s.retireBus x y).poison (z / 32) true }.checkRecord 7 n z false)) ∧
        (¬carries → ∀ pass, exec (.checkRetry ⟨7, n⟩ x y (z + 1) pass) s = .next s)) ∧
      (∀ block byte b, byte < 2 ^ 32 → tget s.kvBlocks block = some b →
        let at_ := 2 ^ 100 + block * 2 ^ 32 + byte
        (b.column = x → exec (.checkRetry ⟨7, n⟩ x y at_ false) s = .next ({ s.retireBus x y with
          kvBlocks := tmod (s.retireBus x y).kvBlocks block (fun b => { b with
            poison := setPoison b.poison (byte / 32) true }) }.checkRecord 7 n 0 false)) ∧
        (b.column ≠ x → ∀ pass, exec (.checkRetry ⟨7, n⟩ x y at_ pass) s = .next s)) ∧
      ((s.column x).remap.length = 8 → (s.retireBus x y).remapEntry x y =
        if s.busServes (x ^^^ 1) y then 0xA0 else if s.busServes (x ^^^ 4) y then 0xC0 else 0xE0) ∧
      ((s.column x).remap.length = 8 → s.busServes (x ^^^ 1) y = false → s.busServes (x ^^^ 4) y = false →
        ((s.retireBus x y).column x).offline = true)) ∧
    exec (.checkRetry ⟨14, n⟩ x y z true) s = .next (s.checkRecord 14 n 0 true) ∧
    exec (.checkRetry ⟨14, n⟩ x y 0 false) s =
      .next ((s.setRemap x y (((s.column x).shadow[y]?).getD 0).toNat).errorRecord 14 5 0 Who.none []) ∧
    exec (.checkRetry ⟨14, n⟩ x y 1 false) s =
      .next ((s.setRemap x y (((s.column x).remap[y]?).getD 0).toNat).errorRecord 14 5 0 Who.none []) ∧
    exec (.checkRetry ⟨14, n⟩ x y 2 false) s = .next (s.goOffline x 14)

/-- CHECK_RETRY of queues, tasks, tiles and engine buffers (R103, R109, R118, R409, R421): a lost packet or launch record rejects
the packet with reason 5, a lost counter copy with reason 6, the record naming what of the packet is in hand; a retry that passes
there is recorded with the queue, the slot and that packet. A lost task, in the pool or held at its source, is dropped and its
launch marked faulted; a lost tile element is poisoned and keeps its number; a lost ray buffer poisons the ray's results (log
entry 83), and of a COPY packet 8 bytes of what it reads. A site that R409 does not list changes nothing. How the parameters name
the unit is the model's reading (log entry 47, DEDUCED). -/
def engineChecks : Prop :=
  ∀ (s : State) (x y z n : Nat),
    exec (.checkRetry ⟨0, n⟩ x y z true) s = .next (s.errorRecord 0 0 0 Who.none
      (queueDetail x (s.queue x).readIndex (s.queue x).header [])) ∧
    ((s.queue x).st ≠ .disabled → (s.queue x).st ≠ .error → (s.queue x).pending ≠ 0 →
      exec (.checkRetry ⟨0, n⟩ x 0 z false) s = .next (s.reject x 5 ((s.queue x).slotAddr 0) (s.queue x).header []) ∧
      (∀ v, s.parserRead x (s.queue x).domain ((s.queue x).slotAddr 0) 64 = .ok v → (s.queue x).st = .parse →
        (v % 2 ^ 8 = 1 ∨ (s.queue x).fired = true) →
        exec (.checkRetry ⟨0, n⟩ x 2 z false) s = .next (s.reject x 5 (v / 2 ^ 64 % 2 ^ 64) (some v) [])) ∧
      ∀ v slots, s.parserRead x (s.queue x).domain ((s.queue x).slotAddr 0) 64 = .ok v →
        s.packetSlots x (s.queue x) (List.range ((moreOf v).getD 0 + 1)) = .ok slots → v % 2 ^ 8 = 2 → z < v / 2 ^ 64 % 16 →
        ((s.queue x).st = .parse ∨ (s.queue x).st = .fence) →
        exec (.checkRetry ⟨0, n⟩ x 1 z false) s = .next (s.reject x 6 (fenceEntry slots z).addr (some v) [(8, z)])) ∧
    exec (.checkRetry ⟨11, n⟩ x y z true) s = .next (s.checkRecord 11 n 0 true) ∧
    (∀ k l, s.pool.find? (fun e => e.id == x) = some k → s.launch? k.launch = some l →
      ∃ t, exec (.checkRetry ⟨11, n⟩ x 0 z false) s = .next t ∧ t.pool = s.pool.filter (fun e => e.id != x) ∧
        t.launch? k.launch = some { l with faulted := true }) ∧
    (∀ k l, s.heldTasks[x]? = some k → s.launch? k.task.launch = some l →
      ∃ t, exec (.checkRetry ⟨11, n⟩ x 1 z false) s = .next t ∧ t.heldTasks = s.heldTasks.eraseIdx x ∧
        t.launch? k.task.launch = some { l with faulted := true }) ∧
    (∀ tm, tget s.teams x = some tm → y < tm.accTiles → y < 4096 → z < 4096 →
      exec (.checkRetry ⟨12, n⟩ x y z true) s = .next (s.checkRecord 12 n 0 true) ∧
      ∃ t u, exec (.checkRetry ⟨12, n⟩ x y z false) s = .next t ∧ t.team? x = some u ∧
        z ∈ (tgetD u.tiles y Tile.empty).poison ∧
        (tgetD u.tiles y Tile.empty).elems = (tgetD tm.tiles y Tile.empty).elems) ∧
    exec (.checkRetry ⟨13, n⟩ x y z true) s = .next (s.checkRecord 13 n 0 true) ∧
    (∀ r, tget s.bulk x = none → tget s.moves x = none → tget s.rays x = some r →
      exec (.checkRetry ⟨13, n⟩ x y z false) s =
        .next ({ s with rays := tset s.rays x { r with bad := true } }.checkRecord 13 n 0 false)) ∧
    (∀ c, tget s.bulk x = none → tget s.moves x = none → tget s.rays x = none → tget s.packetCopies x = some c → c.lost = [] →
      exec (.checkRetry ⟨13, n⟩ x y z false) s =
        .next ({ s with packetCopies := tset s.packetCopies x { c with lost := [y / 8] } }.checkRecord 13 n 0 false)) ∧
    ∀ site pass, 14 < site → exec (.checkRetry ⟨site, n⟩ x y z pass) s = .next s

end Sys2Proof.Machine

/-- R248 to R261 and R409 to R421: walks, fault records and their answers, TLB invalidations, line moves and checks act as the
definitions above say. The model's own among their clauses: how CHECK_RETRY names the unit that a check struck, and that of a
buffer's copy or of one transfer nothing else is struck (log entry 47, DEDUCED); what TLBINV_DONE waits for, and what a cancel
leaves (log entry 44, DEDUCED); that no line moves while a deterministic launch exists (log entry 80) and what a lost tag, table
entry or engine's buffer leaves (log entry 83), both DESIGN CHOICE. -/
def Obligations.FaultSteps : Prop :=
  pageWalks ∧ faultPosts ∧ faultAnswers ∧ deviceWrites ∧ headAnswers ∧ tlbInvalidations ∧ lineMoves ∧ errorRecords ∧ checkRecords ∧
  registerChecks ∧ memoryChecks ∧ busChecks ∧ engineChecks

/-! ### Accesses from outside, and the display heads (R138, R149, R437 to R440, R445, R446) -/

namespace Sys2Proof.Machine

/-- HOST_MEM_READ and HOST_MEM_WRITE, and a peer's read and write (R138, R438, R439): in D0 and within a decoder's window, of
lines without a COMMITTED version, a read returns the bytes of memory, with zeros and the poison indication where no data is
found, and changes no byte; the host's read is tracked. A write in decoder 0's window stores its bytes where data is found,
and no other byte; bytes of decoder 1's window that lie in one sector are stored there. Outside the windows nothing happens. Of
a backing area that the device owns (R128) nothing is said of what is read, and that a write changes nothing there is the
model's choice (log entry 77, DESIGN CHOICE). -/
def outsideAccesses : Prop :=
  ∀ (s : State) (dec addr n : Nat) (bytes : List Byte), s.dev = .d0 → bytes.length = n →
    (dec = 0 → addr + n ≤ 2 ^ 48) → (∀ v ∈ s.versions, s.tagState v.tag.toNat ≠ .committed) →
    let key := fun (j : Nat) => storageOf dec (addr + j)
    let within := dec = 0 ∧ addr + n ≤ s.regs.memcap0.toNat ∨ dec = 1 ∧ addr + n ≤ 2 ^ 35
    let reads := fun (t : State) => t.mem = s.mem ∧ t.hostRead.length = n ∧
      (∀ j, j < n → s.noData (key j) = true ∨ s.ownsKey (key j) = false →
        t.hostRead[j]? = some (if s.noData (key j) then 0 else mget s.mem (key j))) ∧
      ((∀ j, j < n → s.ownsKey (key j) = false) → (t.hostReadPoison = true ↔ ∃ j, j < n ∧ (s.noData (key j) = true ∨ key j / 32 ∈ s.poison)))
    (within → (∃ t, exec (.hostMemRead dec addr n) s = .next t ∧ reads t ∧
        ∀ j, j < n → lineOf (key j) ∈ t.hostLines) ∧
      (∃ t, exec (.peerAccess 0 dec addr bytes) s = .next t ∧ reads t ∧ t.hostLines = s.hostLines)) ∧
    (¬within → exec (.hostMemRead dec addr n) s = .next s ∧ exec (.hostMemWrite dec addr bytes) s = .next s ∧
      exec (.peerAccess 0 dec addr bytes) s = .next s ∧ exec (.peerAccess 1 dec addr bytes) s = .next s) ∧
    (∀ i, i = .hostMemWrite dec addr bytes ∨ i = .peerAccess 1 dec addr bytes → within →
      (dec = 0 → (∀ j, j < n → s.noData (key j) = false ∧ s.ownsKey (key j) = false) → ∃ t, exec i s = .next t ∧
        (∀ (j : Nat) (b : Byte), bytes[j]? = some b → mget t.mem (addr + j) = b) ∧
        (∀ k, (k < addr ∨ addr + n ≤ k) → mget t.mem k = mget s.mem k) ∧ t.versions = s.versions) ∧
      (0 < n → addr % 32 + n ≤ 32 → s.noData (key 0) = false → s.ownsKey (key 0) = false →
        exec i s = .next (s.writeBytes (key 0) bytes false)) ∧
      (0 < n → addr % 32 + n ≤ 32 → (s.noData (key 0) = true ∨ s.ownsKey (key 0) = true) → exec i s = .next s))

/-- PEER_ACCESS of an atomic (R364 to R366, R440): on an aligned word of decoder 0's window that holds data without poison and
belongs to no owned backing area (R128), the
old bytes are returned and the word takes the operation's new value, where it has one; no other byte changes. -/
def peerAtomics : Prop :=
  ∀ (s : State) (code fmt addr wide : Nat) (bytes : List Byte), s.dev = .d0 → code < 15 → (wide = 1 ∨ wide = 2) →
    bytes.length = (if code = 11 then 2 else 1) * (4 * wide) → addr % (4 * wide) = 0 →
    addr + 4 * wide ≤ s.regs.memcap0.toNat → addr + 4 * wide ≤ 2 ^ 48 → (∀ v ∈ s.versions, s.tagState v.tag.toNat ≠ .committed) →
    (∀ j, j < 4 * wide → s.noData (storageOf 0 (addr + j)) = false ∧ s.ownsKey (storageOf 0 (addr + j)) = false ∧
      (addr + j) / 32 ∉ s.poison) →
    let old := ofBytes ((List.range (4 * wide)).map (fun j => mget s.mem (addr + j)))
    let data := (List.range (bytes.length / 4)).map (fun i => BitVec.ofNat 32 (ofBytes ((bytes.drop (4 * i)).take 4)))
    ∃ t, exec (.peerAccess (2 + code + 32 * fmt) 0 addr bytes) s = .next t ∧ ofBytes t.hostRead = old ∧
      t.hostReadPoison = false ∧ (∀ k, (k < addr ∨ addr + 4 * wide ≤ k) → mget t.mem k = mget s.mem k) ∧
      (∀ v, (amoNew code fmt (4 * wide) old data).1 = some v →
        ∀ j, j < 4 * wide → mget t.mem (addr + j) = BitVec.ofNat 8 (v / 2 ^ (8 * j))) ∧
      ((amoNew code fmt (4 * wide) old data).1 = none → t.mem = s.mem)

/-- What the done words of flips, each an address and a value, leave of memory where one of them at most has an address (R437,
R468): with none memory stays; the one, where it translates and meets no version conflict, is stored, and every other byte
stays. -/
def doneWords (s t : State) (dom : Nat) (ends : List (Nat × Nat)) : Prop :=
  let writes := ends.filter (fun e => e.1 != 0)
  (writes = [] → t.mem = s.mem) ∧
  ∀ (a v : Nat) (y : Xlat), writes = [(a, v)] → s.translate dom a .write = .ok y →
    (y.ver = true → s.hasOpenSet dom = false) → isOwnedKey y.key = false →
    (∀ j, j < 4 → mget t.mem (y.key + j) = if j = 0 then BitVec.ofNat 8 v else 0) ∧
    ∀ k, (k < y.key ∨ y.key + 4 ≤ k) → mget t.mem k = mget s.mem k

/-- HEAD_ENABLE (R445, R446): in D0, a head that is not enabled becomes so with no flips, at frame 0 from now on; it scans out
the surface at HEADSURF, black when that is 0, unless its refresh or its vtotal is 0 or its height is not below its vtotal. -/
def headEnables : Prop :=
  ∀ (s : State) (h : Nat), h < 4 → s.dev = .d0 → (s.head h).ctl.toNat % 2 = 0 →
    let x := s.head h
    let scans := x.mode.toNat % 2 ^ 16 ≠ 0 ∧ x.mode.toNat / 2 ^ 16 % 2 ^ 16 ≠ 0 ∧
      x.ctl.toNat / 2 ^ 32 % 2 ^ 16 < x.mode.toNat / 2 ^ 16 % 2 ^ 16
    let surface := x.surf.toNat / 2 ^ 12 * 2 ^ 12
    let pages := (x.mode.toNat / 2 ^ 32 * (x.ctl.toNat / 2 ^ 32 % 2 ^ 16) + 4095) / 4096
    ∃ t, exec (.headEnable h) s = .next t ∧ (∀ g, g ≠ h → t.head g = s.head g) ∧
      let y := t.head h
      y.mode = x.mode ∧ y.surf = x.surf ∧ y.dom = x.dom ∧ y.flips = [] ∧ y.frames = 0 ∧ y.enabledAt = s.ns ∧
      y.ctl.toNat / 4 = x.ctl.toNat / 4 ∧
      (¬scans → y.ctl.toNat % 4 = 1 ∧ y.scanning = false ∧ y.black = true) ∧
      (scans → y.ctl.toNat % 4 = 3 ∧ y.scanning = true ∧ y.current = surface ∧ (surface = 0 → y.black = true) ∧
        (surface ≠ 0 → (∀ i, i < pages → ∃ z, s.xlateFor 4 h x.domain (surface + 4096 * i) .read = .ok z) → y.black = false))

/-- HEAD_DISABLE and HEAD_CONFIG_WRITE (R437, R446): in D0 an enabled head stops scanning out and its queue is emptied, the done
words of its flips taking 2, before the tags that it held return to the pool (R129, R150); the fields of a head that is not
enabled take what is written, and those of an enabled one do not change. -/
def headWrites : Prop :=
  ∀ (s : State) (h : Nat), h < 4 → s.dev = .d0 →
    let x := s.head h
    (x.ctl.toNat % 2 = 1 → (∃ t, exec (.headDisable h) s = .next t ∧ (∀ g, g ≠ h → t.head g = s.head g) ∧
        (t.head h).ctl.toNat = x.ctl.toNat / 4 * 4 ∧ (t.head h).scanning = false ∧ (t.head h).flips = [] ∧
        (t.head h).mode = x.mode ∧ (t.head h).surf = x.surf ∧ (t.head h).dom = x.dom ∧
        ((∀ v ∈ s.versions, s.tagState v.tag.toNat ≠ .committed) → ∃ u : State, t = u.freeTags ∧ u.sets = s.sets ∧
          doneWords s u x.domain (x.flips.map (fun f => (f.doneAddr, 2))))) ∧
      ∀ reg v, exec (.headConfigWrite h reg v) s = .next s) ∧
    (x.ctl.toNat % 2 = 0 → exec (.headDisable h) s = .next s ∧ ∀ v : DWord,
      exec (.headConfigWrite h 0 v) s = .next (s.setHead h { x with
        ctl := BitVec.ofNat 64 (v.toNat / 2 ^ 32 * 2 ^ 32 + v.toNat % 2 ^ 8 / 4 * 4) }) ∧
      exec (.headConfigWrite h 1 v) s = .next (s.setHead h { x with mode := v }) ∧
      exec (.headConfigWrite h 2 v) s = .next (s.setHead h { x with
        surf := BitVec.ofNat 64 (v.toNat / 2 ^ 12 * 2 ^ 12) }) ∧
      exec (.headConfigWrite h 3 v) s = .next (s.setHead h { x with dom := BitVec.ofNat 64 (v.toNat % 2 ^ 16) }))

/-- VBLANK (R437, R445): at a blank, which begins E + k × P + A after the head was enabled, rounded to the nearest nanosecond
with ties upwards, entries whose tag is SQUASHED are removed, their done words taking 2; then the front entry, untagged or
COMMITTED, is scanned out and removed and its done word takes 1, while any other front entry blocks the queue; the surface that
is then shown, where it is not 0, being one that translates. The tags that the entries held return to the pool after that
(R129, R150). Before its time nothing happens. -/
def verticalBlanks : Prop :=
  ∀ (s : State) (h : Nat),
    let x := s.head h
    let r := x.mode.toNat % 2 ^ 16 * (x.mode.toNat / 2 ^ 16 % 2 ^ 16)
    let blank := x.enabledAt + (2 * (10 ^ 11 * (x.frames * (x.mode.toNat / 2 ^ 16 % 2 ^ 16) + x.ctl.toNat / 2 ^ 32 % 2 ^ 16)) + r) /
      (2 * r)
    let due := x.scanning = true ∧ blank ≤ s.ns
    let kept := x.flips.filter (fun f => !(f.tag != 0 && s.tagState f.tag.toNat == .squashed))
    (¬due → exec (.vblank h) s = .next s) ∧
    (due → ∃ t, exec (.vblank h) s = .next t ∧ (∀ g, g ≠ h → t.head g = s.head g) ∧ (t.head h).frames = x.frames + 1 ∧
      (t.head h).scanning = true ∧ (t.head h).ctl = x.ctl ∧ (t.head h).mode = x.mode ∧
      (kept = [] → (t.head h).flips = [] ∧ (t.head h).current = x.current) ∧
      (∀ f rest, kept = f :: rest → f.tag ≠ 0 → s.tagState f.tag.toNat ≠ .committed →
        (t.head h).flips = kept ∧ (t.head h).current = x.current) ∧
      (∀ f rest, kept = f :: rest → (f.tag = 0 ∨ s.tagState f.tag.toNat = .committed) →
        (t.head h).flips = rest ∧ (t.head h).current = f.surface) ∧
      (let shown := match kept with
         | [] => x.current
         | f :: _ => if f.tag = 0 ∨ s.tagState f.tag.toNat = .committed then f.surface else x.current
       let pages := (x.mode.toNat / 2 ^ 32 * (x.ctl.toNat / 2 ^ 32 % 2 ^ 16) + 4095) / 4096
       let ends := (x.flips.filter (fun f => f.tag != 0 && s.tagState f.tag.toNat == .squashed)).map (fun f => (f.doneAddr, 2)) ++
         match kept with
         | [] => []
         | f :: _ => if f.tag = 0 ∨ s.tagState f.tag.toNat = .committed then [(f.doneAddr, 1)] else []
       (shown = 0 ∨ ∀ i, i < pages → ∃ z, s.xlateFor 4 h x.domain (shown + 4096 * i) .read = .ok z) →
       (∀ v ∈ s.versions, s.tagState v.tag.toNat ≠ .committed) →
       ∃ u : State, (t = u.freeTags ∨ t = u.freeTags.freeTags) ∧ u.sets = s.sets ∧ doneWords s u x.domain ends))

end Sys2Proof.Machine

/-- R138, R364 to R366, R437 to R440, R445 and R446: the host's and peers' accesses and the display heads act as the definitions
above say. -/
def Obligations.OutsideSteps : Prop := outsideAccesses ∧ peerAtomics ∧ headEnables ∧ headWrites ∧ verticalBlanks

/-! ### Power, reset, boot, measurement and attestation (R442 to R444, R447 to R450) -/

namespace Sys2Proof.Machine

/-- DEVICE_RESET and D3COLD (R256, R442, R450): everything the device holds is as at reset, and host and peer memory keep their
bytes. The model's own counter of free values, its inputs, its open choice of full slices and the part's fuse data go on. D3cold
leaves the device without power; reset leaves the boot ROM running and the buses retired that the fuse data names, whose lines
take the route of R256. Three clauses are the model's: that device memory reads 0 afterwards (log entry 2, DESIGN CHOICE), that
the memory of the host and of peers stays, and that the free values' counter goes on (log entry 49, DEDUCED). -/
def resets : Prop :=
  ∀ (s : State), ∃ mem poison,
    let t := { State.reset with
      mem := mem
      poison := poison
      free := s.free
      inputs := s.inputs
      noRoom := s.noRoom
      fuses := s.fuses }
    exec .d3cold s = .next { t with dev := .d3cold } ∧
    (s.fuses = [] → exec .deviceReset s = .next t) ∧
    ((∀ x ∈ s.fuses, x < 128) → ∃ u, exec .deviceReset s = .next u ∧ u.dev = .boot ∧ u.waves = [] ∧ u.launches = [] ∧
      u.queues = [] ∧ u.fuses = s.fuses ∧
      (∀ c b, c < 16 → b < 8 → u.remapEntry c b =
        if 8 * c + b ∉ s.fuses then 0
        else if 8 * (c ^^^ 1) + b ∉ s.fuses then 0xA0
        else if 8 * (c ^^^ 4) + b ∉ s.fuses then 0xC0 else 0xE0) ∧
      ∀ c b, c < 16 → b < 8 → 8 * c + b ∈ s.fuses → 8 * (c ^^^ 1) + b ∈ s.fuses → 8 * (c ^^^ 4) + b ∈ s.fuses →
        (u.column c).offline = true) ∧
    (∀ k, mget mem k = if k < 2 * 2 ^ 48 then 0 else mget s.mem k) ∧
    ∀ x, x ∈ poison ↔ x ∈ s.poison ∧ 2 * 2 ^ 48 ≤ 32 * x

/-- BOOT_VERIFY (R442, R443): while the ROM runs, M0 is extended with the SHA-256 of the image; BOOTSTAT becomes 2 when the
signature fails that the image carries, against the key whose hash is fused, else 3 when the image's version is below the fused
minimum, else 1, with which M1 and M2 are extended and the device is in D0. Else nothing happens. The step's parameters are the
model's (log entries 50 and 93, DEDUCED): one that does not say what the part finds of the image changes nothing. -/
def boots : Prop :=
  ∀ (s : State) (sigOk : Bool) (version minVersion : Nat) (image display fuses : List Byte),
    let ev : Instr := .bootVerify sigOk version minVersion image display fuses
    let finds := sigOk = Config.signatureOk image Config.keyHash ∧ version = Config.imageVersion image ∧
      minVersion = Config.minVersion
    let ext := fun (i : Nat) (d : List Byte) => shaNat (toBytes 32 (tgetD s.measure i 0).toNat ++ sha256 d)
    ((s.dev ≠ .boot ∨ s.regs.bootstat ≠ 0 ∨ ¬finds) → exec ev s = .next s) ∧
    (s.dev = .boot → s.regs.bootstat = 0 → finds → ∃ t, exec ev s = .next t ∧ t.mem = s.mem ∧ t.queues = s.queues ∧
      tgetD t.measure 0 0 = ext 0 image ∧ (∀ i, 3 ≤ i → tgetD t.measure i 0 = tgetD s.measure i 0) ∧
      (sigOk = false → t.regs.bootstat.toNat = 2 ∧ t.dev = .boot ∧ tgetD t.measure 1 0 = tgetD s.measure 1 0 ∧
        tgetD t.measure 2 0 = tgetD s.measure 2 0) ∧
      (sigOk = true → version < minVersion → t.regs.bootstat.toNat = 3 + version % 2 ^ 32 * 2 ^ 16 ∧ t.dev = .boot ∧
        tgetD t.measure 1 0 = tgetD s.measure 1 0 ∧ tgetD t.measure 2 0 = tgetD s.measure 2 0) ∧
      (sigOk = true → minVersion ≤ version → t.regs.bootstat.toNat = 1 + version % 2 ^ 32 * 2 ^ 16 ∧ t.dev = .d0 ∧
        tgetD t.measure 1 0 = ext 1 display ∧ tgetD t.measure 2 0 = ext 2 fuses))

/-- POWER_ARBITER_TICK, POWER_LIMIT_WRITE and INLET_POWER_REPORT (R447): in D0 each column takes its grant in whole watts and
its clock step where the grants' sum is within min(package limit, board limit − board power), and nothing changes where it is
not; a package limit above 540 W is taken as 540. -/
def powerSteps : Prop :=
  (∀ (s : State) (board : Nat) (grants steps : List Nat), s.dev = .d0 → grants.length = 16 → steps.length = 16 →
    (∀ x ∈ steps, x < 16) →
    let budget := Nat.min (s.regs.power.toNat % 2 ^ 16) (s.regs.power.toNat / 2 ^ 16 % 2 ^ 16 - board)
    (grants.foldl (fun a b => a + b) 0 ≤ budget → ∃ t, exec (.powerArbiterTick board grants steps) s = .next t ∧
      (∀ (c g p : Nat), grants[c]? = some g → steps[c]? = some p → t.column c = { s.column c with
        grant := g
        step := p }) ∧ t = { s with columns := t.columns }) ∧
    (budget < grants.foldl (fun a b => a + b) 0 → exec (.powerArbiterTick board grants steps) s = .next s)) ∧
  (∀ (s : State) (v : DWord), s.dev = .d0 → ∃ t, exec (.powerLimitWrite v) s = .next t ∧
    t.regs.power.toNat = v.toNat / 2 ^ 16 % 2 ^ 16 * 2 ^ 16 + (if v.toNat % 2 ^ 16 ≤ 540 then v.toNat % 2 ^ 16 else 540) ∧
    t = { s with regs := { s.regs with power := t.regs.power } }) ∧
  (∀ (s : State) (v : Nat), exec (.inletPowerReport v) s = .next { s with
    regs := { s.regs with inlet := BitVec.ofNat 64 (v % 2 ^ 16) } })

/-- COLUMN_OVERHEAT, COLUMN_COOL, COLUMN_IDLE, COLUMN_OFF and COLUMN_WAKE (R448, R449) in D0: a column that overheats is closed
and its units are asked to move, and it opens again; after 64 clk without a resident wave or an engine operation it is IDLE,
after 1 ms of that OFF, and a dispatch to it or work wakes it. -/
def columnEvents : Prop :=
  ∀ (s : State) (c : Nat), c < 16 → s.dev = .d0 →
    let x := s.column c
    (x.closed = false → exec (.columnOverheat c) s = .next ((s.modColumn c (fun y => { y with closed := true })).migrateFrom c) ∧
      ((∀ g ∈ tvals s.grps, g.cluster / 4 ≠ c ∨ g.status ≠ 0) →
        exec (.columnOverheat c) s = .next (s.modColumn c (fun y => { y with closed := true }))) ∧
      (∀ g l, (tvals s.grps).filter (fun g => g.cluster / 4 == c && g.status == 0) = [g] → s.launch? g.launch = some l →
        let s1 := s.modColumn c (fun y => { y with closed := true })
        exec (.columnOverheat c) s = .next (if s1.roomFor l g = [] then s1 else s1.stopUnit g true))) ∧
    (x.closed = true → exec (.columnOverheat c) s = .next s) ∧
    exec (.columnCool c) s = .next (s.modColumn c (fun y => { y with closed := false })) ∧
    (x.power = .active → s.columnBusy c = false → x.idleSince + 64 ≤ x.clk →
      exec (.columnIdle c) s = .next (s.modColumn c (fun y => { y with
        power := .idle
        idleSince := s.ns }))) ∧
    ((x.power ≠ .active ∨ s.columnBusy c = true ∨ x.clk < x.idleSince + 64) → exec (.columnIdle c) s = .next s) ∧
    (x.power = .idle → x.waking = false → s.columnBusy c = false → x.idleSince + 1000000 ≤ s.ns →
      exec (.columnOff c) s = .next (s.modColumn c (fun y => { y with power := .off }))) ∧
    ((x.power ≠ .idle ∨ x.waking = true ∨ s.columnBusy c = true ∨ s.ns < x.idleSince + 1000000) → exec (.columnOff c) s = .next s) ∧
    (x.power ≠ .active → x.waking = true ∨ s.columnBusy c = true →
      exec (.columnWake c) s = .next (s.modColumn c (fun y => { y with
        power := .active
        idleSince := x.clk
        waking := false }))) ∧
    ((x.power = .active ∨ x.waking = false ∧ s.columnBusy c = false) → exec (.columnWake c) s = .next s)

/-- D3HOT_ENTRY and D0_RETURN (R450): once every queue is disabled, every launch suspended, every unit saved and every engine
drained, the device is in D3hot and keeps the rest; before that it disables the queues as a write of enable 0 does, one whose
enable bit stands at 1 staying so until software enables it, and suspends the launches. On the return counts resume. -/
def restSteps : Prop :=
  ∀ (s : State),
    let drained := s.bulk = [] ∧ s.rays = [] ∧ s.moves = [] ∧ s.packetCopies = [] ∧ ∀ r ∈ tvals s.resv, r.granted = false
    let quiet := (∀ q ∈ tvals s.queues, q.st = .disabled) ∧ (∀ g ∈ tvals s.grps, 2 ≤ g.status) ∧ drained ∧
      ∀ l ∈ tvals s.launches, l.suspended = true
    (s.dev = .d0 → quiet → exec .d3hotEntry s = .next { s with
      dev := .d3hot
      cur := 0 }) ∧
    (s.dev = .d0 → ¬quiet → (∀ g ∈ tvals s.grps, 2 ≤ g.status) → s.oneCommitted → ∃ t, exec .d3hotEntry s = .next t ∧ t.dev = .d0 ∧
      (∀ q, q < 64 →
        let x := { s.queue q with off := bit (s.qcb q) 128 }
        (x.st = .idle ∨ x.st = .error → t.queue q = { x with
          st := .disabled
          disabling := false }) ∧
        (x.st = .disabled → t.queue q = if x.off then x else s.queue q) ∧
        (x.st ≠ .idle → x.st ≠ .error → x.st ≠ .disabled → t.queue q = { x with disabling := true })) ∧
      ∀ k l, s.launch? k = some l → l.uid = k → t.launch? k = some { l with suspended := true }) ∧
    (s.dev ≠ .d0 → exec .d3hotEntry s = .next s) ∧
    (s.dev = .d3hot → exec .d0Return s = .next { s with dev := .d0 }) ∧ (s.dev ≠ .d3hot → exec .d0Return s = .next s)

/-- MEASUREMENT_EXTEND, EXTEND_DONE, ATTESTATION_REQUEST and ATTESTATION_DONE (R443, R444) in D0: a write of EXTCTL or ATTCTL
sets busy unless either register is busy; an extension makes M4 to M7 the SHA-256 of the register and the digest; a report is
written in host memory as R444 lays it out, with the identity key and signature of the configuration; busy then clears. That
EXTEND_DONE takes the digest as it stands when it is done is the model's reading (log entry 50, DEDUCED). -/
def securitySteps : Prop :=
  ∀ (s : State), s.dev = .d0 →
    let busy := 2 ^ 63 ≤ s.regs.extctl.toNat ∨ 2 ^ 63 ≤ s.regs.attctl.toNat
    let i := s.regs.extctl.toNat % 8
    let message := toBytes 4 1 ++ toBytes 4 8192 ++ toBytes 32 s.regs.nonce.toNat ++ (List.range 32).map Config.identityKey ++
      (List.range 8).flatMap (fun j => toBytes 32 (tgetD s.measure j 0).toNat) ++
      toBytes 4 (s.regs.bootstat.toNat / 2 ^ 16 % 2 ^ 32) ++ toBytes 4 0
    let key := storageKey 2 (s.regs.attctl.toNat / 2 ^ 13 % 2 ^ 39 * 2 ^ 13)
    (∀ v : DWord,
      (busy → exec (.measurementExtend v) s = .next s ∧ exec (.attestationRequest v) s = .next s) ∧
      (v.toNat % 8 < 4 → exec (.measurementExtend v) s = .next s) ∧
      (¬busy → 4 ≤ v.toNat % 8 → exec (.measurementExtend v) s = .next { s with
        regs := { s.regs with extctl := BitVec.ofNat 64 (2 ^ 63 + v.toNat % 8) } }) ∧
      (¬busy → exec (.attestationRequest v) s = .next { s with
        regs := { s.regs with attctl := BitVec.ofNat 64 (2 ^ 63 + v.toNat / 2 ^ 13 % 2 ^ 39 * 2 ^ 13) } })) ∧
    (s.regs.extctl.toNat < 2 ^ 63 → exec .extendDone s = .next s) ∧
    (2 ^ 63 ≤ s.regs.extctl.toNat → ∃ t, exec .extendDone s = .next t ∧ t.regs.extctl.toNat = s.regs.extctl.toNat - 2 ^ 63 ∧
      tgetD t.measure i 0 = shaNat (toBytes 32 (tgetD s.measure i 0).toNat ++ toBytes 32 s.regs.digest.toNat) ∧
      (∀ j, j ≠ i → tgetD t.measure j 0 = tgetD s.measure j 0) ∧ t.mem = s.mem) ∧
    (s.regs.attctl.toNat < 2 ^ 63 → exec .attestationDone s = .next s) ∧
    (2 ^ 63 ≤ s.regs.attctl.toNat → (∀ v ∈ s.versions, s.tagState v.tag.toNat ≠ .committed) →
      message.length = 336 ∧ ∃ t, exec .attestationDone s = .next t ∧
      t.regs.attctl.toNat = s.regs.attctl.toNat - 2 ^ 63 ∧ t.measure = s.measure ∧
      (∀ (j : Nat) (b : Byte), message[j]? = some b → mget t.mem (key + j) = b) ∧
      (∀ j, j < 7856 → mget t.mem (key + 336 + j) = Config.signature message j) ∧
      ∀ k, (k < key ∨ key + 8192 ≤ k) → mget t.mem k = mget s.mem k)

end Sys2Proof.Machine

/-- R442 to R444 and R447 to R450: reset, boot, the power arbiter, the power states, measurement and attestation act as the
definitions above say. The model's own among their clauses: device memory reads 0 after a reset (log entry 2, DESIGN CHOICE),
host and peer memory and the counter of free values stay (log entry 49, DEDUCED), and the parameters of BOOT_VERIFY and the
digest that EXTEND_DONE takes (log entries 50 and 93, DEDUCED). -/
def Obligations.PowerSteps : Prop := resets ∧ boots ∧ powerSteps ∧ columnEvents ∧ restSteps ∧ securitySteps

/-- R88, R243, R246, R250, R254, R263, R404, R421, R440 and R441: in D0 with every queue disabled, QTBASE, DOMTBASE, SRAMCFG,
KVCFG, CTXBASE, CTXSIZE, PARTCFG, PARTQ and PEERMAP take what is written, reserved bits as zero, but for a memory type above 3,
more than 8 combine units, KVCFG without tables and partition mode 3; while a queue is enabled they ignore it. That KVCFG also
ignores a size above 96, and in use a size of 0 or block size 3, is the model's choice (log entry 79). -/
def Obligations.RegisterWrites : Prop :=
  ∀ (s : State) (v : DWord), s.dev = .d0 →
    let n := v.toNat
    let legal := n / 2 ^ 8 % 2 ^ 8 ≤ 96 ∧ (n / 2 ^ 16 % 2 = 1 → 1 ≤ n / 2 ^ 8 % 2 ^ 8 ∧ n % 4 ≠ 3)
    let sets := fun (i : Instr) (r : Regs) => exec i s = .next { s with regs := r }
    let ignores := fun (i : Instr) => exec i s = .next s
    ((∀ q ∈ tvals s.queues, q.st = .disabled) →
      (n % 8 < 4 → sets (.qtbaseWrite v) { s.regs with qtbase := BitVec.ofNat 64 (n / 2 ^ 12 % 2 ^ 36 * 2 ^ 12 + n % 8) }) ∧
      (4 ≤ n % 8 → ignores (.qtbaseWrite v)) ∧
      sets (.domtbaseWrite v) { s.regs with domtbase := v } ∧
      (n % 16 ≤ 8 → sets (.sramcfgWrite v) { s.regs with sramcfg := BitVec.ofNat 64 (n / 2 ^ 8 % 2 * 2 ^ 8 + n % 16) }) ∧
      (8 < n % 16 → ignores (.sramcfgWrite v)) ∧
      (s.regs.sramcfg.toNat / 2 ^ 8 % 2 = 1 → legal → sets (.kvcfgWrite v) { s.regs with
        kvcfg := BitVec.ofNat 64 (n / 2 ^ 8 % 2 ^ 9 * 2 ^ 8 + n % 4) }) ∧
      (s.regs.sramcfg.toNat / 2 ^ 8 % 2 = 0 ∨ ¬legal → ignores (.kvcfgWrite v)) ∧
      sets (.ctxPoolWrite false v) { s.regs with ctxbase := BitVec.ofNat 64 (n / 2 ^ 12 * 2 ^ 12) } ∧
      sets (.ctxPoolWrite true v) { s.regs with ctxsize := v } ∧
      (n % 4 ≠ 3 → sets (.partcfgWrite v) { s.regs with partcfg := BitVec.ofNat 64 (n % 4) }) ∧
      (n % 4 = 3 → ignores (.partcfgWrite v)) ∧
      sets (.partqWrite false v) { s.regs with partqLo := v } ∧ sets (.partqWrite true v) { s.regs with partqHi := v } ∧
      (∀ k, k < 8 → sets (.peermapWrite k v) { s.regs with
        peermap := tset s.regs.peermap k (BitVec.ofNat 64 (n / 2 ^ 63 * 2 ^ 63 + n / 2 ^ 28 % 2 ^ 24 * 2 ^ 28)) }) ∧
      ∀ k, 8 ≤ k → ignores (.peermapWrite k v)) ∧
    ((∃ q ∈ tvals s.queues, q.st ≠ .disabled) → ignores (.qtbaseWrite v) ∧ ignores (.domtbaseWrite v) ∧
      ignores (.sramcfgWrite v) ∧ ignores (.kvcfgWrite v) ∧ ignores (.ctxPoolWrite false v) ∧ ignores (.ctxPoolWrite true v) ∧
      ignores (.partcfgWrite v) ∧ ignores (.partqWrite false v) ∧ ignores (.partqWrite true v) ∧
      ∀ k, ignores (.peermapWrite k v)) ∧
    sets .lostClear { s.regs with errLost := 0 } ∧
    sets (.registerWrite 0x108 v) { s.regs with chkctl := v } ∧
    sets (.registerWrite 0x118 v) { s.regs with tlbinvVa := BitVec.ofNat 64 (n / 2 ^ 12 % 2 ^ 40 * 2 ^ 12) } ∧
    sets (.registerWrite 0x128 v) { s.regs with faultq := BitVec.ofNat 64 (n / 2 ^ 12 * 2 ^ 12 + n % 16) } ∧
    sets (.registerWrite 0x130 v) { s.regs with
      faultIdx := BitVec.ofNat 64 (n / 2 ^ 32 * 2 ^ 32 + s.regs.faultIdx.toNat % 2 ^ 32) } ∧
    sets (.registerWrite 0x200 v) { s.regs with errq := BitVec.ofNat 64 (n / 2 ^ 12 * 2 ^ 12 + n % 16) } ∧
    sets (.registerWrite 0x208 v) { s.regs with
      errIdx := BitVec.ofNat 64 (n / 2 ^ 32 * 2 ^ 32 + s.regs.errIdx.toNat % 2 ^ 32) } ∧
    (∀ off, off ∉ [0x108, 0x118, 0x128, 0x130, 0x200, 0x208, 0x3A0, 0x3A8, 0x3B0, 0x3B8, 0x3C0, 0x3C8, 0x3D0, 0x3D8] →
      ignores (.registerWrite off v)) ∧
    ∀ i, i < 4 → ∃ d e, sets (.registerWrite (0x3A0 + 8 * i) v) { s.regs with digest := d } ∧
      sets (.registerWrite (0x3C0 + 8 * i) v) { s.regs with nonce := e } ∧
      ∀ j, j < 4 → d.toNat / 2 ^ (64 * j) % 2 ^ 64 = (if j = i then n else s.regs.digest.toNat / 2 ^ (64 * j) % 2 ^ 64) ∧
        e.toNat / 2 ^ (64 * j) % 2 ^ 64 = (if j = i then n else s.regs.nonce.toNat / 2 ^ (64 * j) % 2 ^ 64)

/-! ### The machine: reset, decoding, steps, memory -/

/-- R88, R93, R129, R257, R421, R442, R443, R446 to R449: after reset the boot ROM runs, every queue is disabled with both
indices 0, no head is enabled or scans out, every branch tag is FREE, the measurement registers are 0, every column is ACTIVE,
open, with grant and step 0 and no bus retired, the board and package limits are 600 W and 540 W, the management registers are 0
but for the capacity of GDDR 7, the first error record takes number 0, nothing is launched, and memory lists nothing. Three
clauses are the model's choice, no rule of the specification: that memory that nothing has written reads 0 (log entry 2), that
the part's fuse data names no bus to retire (log entry 52), and that a column's grant and clock step are 0 (log entry 54). -/
def Obligations.ResetState : Prop :=
  State.reset.dev = .boot ∧ State.reset.regs.bootstat = 0 ∧
  (∀ q, (State.reset.queue q).st = .disabled ∧ (State.reset.queue q).readIndex = 0 ∧ (State.reset.queue q).writeIndex = 0) ∧
  (∀ h, (State.reset.head h).ctl = 0 ∧ (State.reset.head h).scanning = false ∧ (State.reset.head h).flips = []) ∧
  (∀ t, State.reset.tagState t = .free) ∧ (∀ i, tgetD State.reset.measure i 0 = 0) ∧
  (∀ c, let x := State.reset.column c
    x.power = .active ∧ x.closed = false ∧ x.grant = 0 ∧ x.step = 0 ∧ x.offline = false ∧ ∀ b, State.reset.remapEntry c b = 0) ∧
  State.reset.regs.power.toNat = 600 * 2 ^ 16 + 540 ∧ State.reset.regs.qtbase = 0 ∧ State.reset.regs.domtbase = 0 ∧
  State.reset.regs.sramcfg = 0 ∧ State.reset.regs.kvcfg = 0 ∧ State.reset.regs.partcfg = 0 ∧ State.reset.regs.errIdx = 0 ∧
  State.reset.regs.faultIdx = 0 ∧ State.reset.regs.tlbinvCtl = 0 ∧ State.reset.regs.preempt = 0 ∧
  State.reset.errSeq = 0 ∧ State.reset.everEnabled = false ∧ State.reset.launches = [] ∧ State.reset.waves = [] ∧
  State.reset.pool = [] ∧ State.reset.tlb = [] ∧ ∀ k, mget State.reset.mem k = 0

/-- The model's invariant of memory (no rule of the specification): the cells stand in canonical form, addresses rising and no cell
0. It holds after reset. -/
def Obligations.ResetMemoryForm : Prop := Memory.wf State.reset.mem = true

/-- Every step from a state whose memory is in canonical form leaves it so (the model's own invariant: equal memories are equal
lists). -/
def Obligations.StepKeepsMemoryForm : Prop :=
  ∀ s t : State, Memory.wf s.mem = true → step s = .next t → Memory.wf t.mem = true

/-- No step ends in a fault or a refusal: from every state the machine goes on (derived: every instruction has an effect, and
what the specification calls illegal takes a trap). That a step which finds nothing to do is a next state, and which of the
device's steps is taken, are the model's (log entries 11, DESIGN CHOICE, and 58, DEDUCED). -/
def Obligations.StepGoesOn : Prop := ∀ s : State, ∃ t, step s = .next t

/-- R35, R36: for every instruction word form with every operand that its encoding admits, the decoder reads the encoder's word
as that instruction. -/
def Obligations.EncodeDecode : Prop :=
  ∀ i : Instr, i.hasWord = true → i.wellFormed = true → decode (encode i) = .ok i

/-- R35: a word that decodes is well formed, and is the word of its instruction alone. -/
def Obligations.DecodeEncode : Prop :=
  ∀ (w : Word) (i : Instr), decode w = .ok i → i.hasWord = true ∧ i.wellFormed = true ∧ encode i = w

namespace Sys2Proof.Machine

/-- R35, R53: the first of the four checks that fails decides why a word is illegal: majors 0x00 and 0x1F are reserved, and a
word whose major and function are known is rejected for its reserved bits before its bounded fields. -/
def illegalWordsRule : Prop :=
  (∀ w : Word, (w.toNat / 2 ^ 26 = 0 ∨ w.toNat / 2 ^ 26 = 31) → decode w = .error .reservedMajor) ∧
  (∀ w r, candidate w = .error r → decode w = .error r) ∧
  (∀ w x, candidate w = .ok x → (w &&& x.reserved ≠ 0 ∨ x.instr.reservedOk = false) → decode w = .error .reservedField) ∧
  (∀ w x, candidate w = .ok x → w &&& x.reserved = 0 → x.instr.reservedOk = true → x.instr.boundsOk = false →
    decode w = .error .outOfRange) ∧
  (∀ w r, decode w = .error r → r = .reservedMajor ∨ r = .reservedFn ∨ r = .reservedField ∨ r = .outOfRange) ∧
  Reason.reservedMajor.code = 0 ∧ Reason.reservedFn.code = 1 ∧ Reason.reservedField.code = 2 ∧ Reason.outOfRange.code = 3

end Sys2Proof.Machine

/-- Words written out from the encodings of R36 and R48 decode to what they stand for. -/
def Obligations.DecodeWords : Prop :=
  decode 0x0430A190#32 = .ok (.add 6 10 12 1) ∧ decode 0x24101002#32 = .ok (.cmpi 2 1 0 2) ∧
  decode 0xE4100001#32 = .ok (.brz 2 1) ∧ decode 0xF8005007#32 = .ok (.trap 5) ∧ decode 0xF8000003#32 = .ok .exit ∧
  decode 0xFC8001FF#32 = .ok (.runHeader 4 0 15 15 1) ∧ decode 0xAC00B000#32 = .ok (.fence 2 3) ∧
  decode 0xB4280021#32 = .ok (.racq 5 1) ∧ decode 0xD0108004#32 = .ok (.flipq 2 8) ∧ decode 0xF4400008#32 = .ok (.call 8 8)

/-- R172 to R177, R35: a wave with a run, no trap, no fault to wait for and no floating-point exception to take, whose next four
code bytes translate, have failed no check and decode to a well-formed instruction that need not wait for its wave's earlier
operations, executes it in this step; between runs a header at the wave's issue address is executed likewise. The step adds only
that a wave which did not go on is no longer current. A device step that comes as an input is executed as it is. -/
def Obligations.StepRunsDecoded : Prop :=
  ∀ (s : State) (w : Wave) (l : Launch) (x : Xlat) (i : Instr), s.inputs = [] → s.wave? s.cur = some w → s.launch? w.launch = some l →
    w.trap = none → w.faultWait = none → (w.fpPending = [] ∨ w.mode = true) → decode (BitVec.ofNat 32 (s.readNat w.tag x.ver x.key 4)) = .ok i →
    s.anyPoison w.tag x.ver x.key 4 = false → s.badCopy (256 + w.pcore) x.key 4 = false →
    let runs := step s = (match exec i s with
      | .next t => .next (s.settle t)
      | other => other)
    let at_ := fun (off : Nat) => s.translateFor w.cancelled l.domain (l.record.toNat % 2 ^ 64 + 0x40 + off) .fetch = .ok x
    (∀ r, w.run = some r → at_ w.pc →
      ({ s := s, w := w, r := r } : Ctx).mustWait (BitVec.ofNat 32 (s.readNat w.tag x.ver x.key 4)) = false → runs) ∧
    (∀ addr len wait sf1 sf2 opn, w.run = none → w.issueAddr? = some addr → w.resumeAt? addr = none → addr + 4 ≤ l.codeBytes →
      at_ addr → i = .runHeader len wait sf1 sf2 opn → runs) ∧
    ∀ (s1 : State) (j : Instr) (rest : List Input), s1.inputs = .act j :: rest → j.hasWord = false →
      step s1 = exec j { s1 with inputs := rest }

namespace Sys2Proof.Machine

/-- R53: a word of a run that does not decode, of a wave as above, traps in this step with cause 0 in every active lane, the
word and its reason code in the record. -/
def illegalWordTrapsRule : Prop :=
  ∀ (s : State) (w : Wave) (l : Launch) (x : Xlat) (r : RunCtx) (why : Reason), s.inputs = [] → s.wave? s.cur = some w →
    s.launch? w.launch = some l → w.trap = none → w.faultWait = none → (w.fpPending = [] ∨ w.mode = true) → w.run = some r →
    s.translateFor w.cancelled l.domain (l.record.toNat % 2 ^ 64 + 0x40 + w.pc) .fetch = .ok x → s.anyPoison w.tag x.ver x.key 4 = false → s.badCopy (256 + w.pcore) x.key 4 = false →
    let word : Word := BitVec.ofNat 32 (s.readNat w.tag x.ver x.key 4)
    let c : Ctx :=
      { s := s
        w := w
        r := r }
    decode word = .error why → step s = .next (s.settle (c.trap
      { cause := 0
        lanes := maskOf c.act
        info := BitVec.ofNat 64 (word.toNat + why.code * 2 ^ 32)
        needs := []
        consumed := [] }))

end Sys2Proof.Machine

/-- R35 and R53: which words are illegal, why, and the trap that they take, as the definitions above say. -/
def Obligations.IllegalInstructions : Prop :=
  illegalWordsRule ∧ illegalWordTrapsRule

/-- Memory (R3, R135, R136, R149, R414): with no COMMITTED version left to convert, bytes written to the committed line, outside
a backing area that the device owns, read back and nothing else changes; the poison of a sector written whole is cleared, or set
by poisoned data; and what a branch that is not SQUASHED writes on a versioned page is read by that branch alone. -/
def Obligations.MemoryReadsBack : Prop :=
  ∀ (s : State) (key : Nat) (bytes : List Byte) (pois : Bool), (∀ v ∈ s.versions, s.tagState v.tag.toNat ≠ .committed) →
    key + bytes.length ≤ 2 ^ 56 →
    let t := s.writeBytes key bytes pois
    (∀ (j : Nat) (b : Byte), bytes[j]? = some b → t.readByte 0 false (key + j) = b) ∧
    (∀ k, (k < key ∨ key + bytes.length ≤ k) → t.readByte 0 false k = s.readByte 0 false k) ∧
    (∀ k, key / 32 * 32 = key → bytes.length = 32 → key / 32 = k / 32 → t.poisonedAt 0 false k = pois) ∧
    (∀ k, (k < key / 32 * 32 ∨ key + bytes.length + 31 < k) → t.poisonedAt 0 false k = s.poisonedAt 0 false k) ∧
    t.versions = s.versions ∧ t.waves = s.waves ∧ t.queues = s.queues ∧
    ∀ tag : BitVec 4, tag ≠ 0 → s.tagState tag.toNat ≠ .squashed → key % 128 + bytes.length ≤ 128 →
      let u := s.writeAs tag true key bytes pois
      u.mem = s.mem ∧ (∀ (j : Nat) (b : Byte), bytes[j]? = some b → u.readByte tag true (key + j) = b) ∧
      (∀ k, (k < key ∨ key + bytes.length ≤ k) → u.readByte tag true k = s.readByte tag true k) ∧
      ∀ (other : BitVec 4) ver k, (other ≠ tag ∨ ver = false) → s.tagState tag.toNat ≠ .committed →
        u.readByte other ver k = s.readByte other ver k
end

