-- ==== Sys2Proof/Laws/Memory.lean ====
section
/-!
SUPPORT. Laws of memory: reading after writing, and the canonical form that every memory operation keeps.
-/

namespace Sys2Proof.Machine

/-- The canonical form, as a property: addresses rising and no byte 0. -/
theorem memRising_iff (lo : Option Nat) (m : List Host.Cell) :
    memRising lo m = true ↔
      m.Pairwise (fun a b => a.1 < b.1) ∧ (∀ c ∈ m, c.2 ≠ 0) ∧ (∀ l, lo = some l → ∀ c ∈ m, l < c.1) := by
  induction m generalizing lo with
  | nil => simp [memRising]
  | cons e t ih =>
    obtain ⟨a, b⟩ := e
    simp only [memRising, Bool.and_eq_true, ih, List.pairwise_cons, List.mem_cons, bne_iff_ne, ne_eq]
    constructor
    · rintro ⟨⟨h1, h2⟩, h3, h4, h5⟩
      refine ⟨⟨fun c hc => h5 a rfl c hc, h3⟩, ?_, ?_⟩
      · rintro c (rfl | hc)
        · exact h2
        · exact h4 c hc
      · rintro l rfl c hc
        simp only [decide_eq_true_eq] at h1
        rcases hc with rfl | hc
        · exact h1
        · exact Nat.lt_trans h1 (h5 a rfl c hc)
    · rintro ⟨⟨h1, h2⟩, h3, h4⟩
      refine ⟨⟨?_, h3 (a, b) (Or.inl rfl)⟩, h2, fun c hc => h3 c (Or.inr hc), ?_⟩
      · cases lo with
        | none => rfl
        | some l => simpa using h4 l rfl (a, b) (Or.inl rfl)
      · rintro l hl c hc
        cases hl
        exact h1 c hc

/-- The canonical form of memory. -/
theorem wf_iff (m : List Host.Cell) :
    Memory.wf m = true ↔ m.Pairwise (fun a b => a.1 < b.1) ∧ (∀ c ∈ m, c.2 ≠ 0) := by
  simp [Memory.wf, memRising_iff]

/-- Reading a location that no cell names. -/
theorem mget_absent (m : List Host.Cell) (k : Nat) (h : ∀ c ∈ m, c.1 ≠ k) : mget m k = 0 := by
  induction m with
  | nil => rfl
  | cons e t ih =>
    simp only [mget]
    rw [if_neg (h e (by simp))]
    exact ih (fun c hc => h c (by simp [hc]))

/-- Reading from two lists put together. -/
theorem mget_append (m n : List Host.Cell) (k : Nat) :
    mget (m ++ n) k = if ∃ c ∈ m, c.1 = k then mget m k else mget n k := by
  induction m with
  | nil => simp
  | cons e t ih =>
    simp only [List.cons_append, mget]
    by_cases h : e.1 = k
    · simp [h]
    · rw [if_neg h, if_neg h, ih]
      simp [h]

/-- The addresses of the cells of some bytes. -/
theorem mcells_range (k : Nat) (bs : List Byte) : ∀ c ∈ mcells k bs, k ≤ c.1 ∧ c.1 < k + bs.length ∧ c.2 ≠ 0 := by
  induction bs generalizing k with
  | nil => simp [mcells]
  | cons b t ih =>
    intro c hc
    simp only [mcells] at hc
    split at hc
    · have := ih (k + 1) c hc
      simp only [List.length_cons]
      exact ⟨by omega, by omega, this.2.2⟩
    · rcases List.mem_cons.mp hc with rfl | hc
      · simp only [List.length_cons]
        exact ⟨by omega, by omega, by assumption⟩
      · have := ih (k + 1) c hc
        simp only [List.length_cons]
        exact ⟨by omega, by omega, this.2.2⟩

/-- The cells of some bytes rise. -/
theorem mcells_rising (k : Nat) (bs : List Byte) : (mcells k bs).Pairwise (fun a b => a.1 < b.1) := by
  induction bs generalizing k with
  | nil => simp [mcells]
  | cons b t ih =>
    simp only [mcells]
    split
    · exact ih (k + 1)
    · refine List.pairwise_cons.mpr ⟨fun c hc => ?_, ih (k + 1)⟩
      have := mcells_range (k + 1) t c hc
      show k < c.1
      omega

/-- Reading the cells of some bytes. -/
theorem mget_mcells (k j : Nat) (bs : List Byte) :
    mget (mcells k bs) j = if k ≤ j then (bs[j - k]?).getD 0 else 0 := by
  induction bs generalizing k with
  | nil => simp [mcells, mget]
  | cons b t ih =>
    simp only [mcells]
    by_cases hj : j = k
    · subst hj
      split
      · rename_i h
        rw [ih, if_neg (by omega)]
        simp [h]
      · simp [mget]
    · have : mget (if b = 0 then mcells (k + 1) t else (k, b) :: mcells (k + 1) t) j = mget (mcells (k + 1) t) j := by
        split
        · rfl
        · simp [mget, Ne.symm hj]
      rw [this, ih]
      by_cases h : k ≤ j
      · rw [if_pos (by omega), if_pos h]
        obtain ⟨n, rfl⟩ : ∃ n, j = k + 1 + n := ⟨j - (k + 1), by omega⟩
        simp [show k + 1 + n - k = n + 1 by omega]
      · rw [if_neg (by omega), if_neg h]

/-- Reading a filtered list of cells. -/
theorem mget_filter (m : List Host.Cell) (p : Nat → Bool) (k : Nat) :
    mget (m.filter (fun c => p c.1)) k = if p k then mget m k else 0 := by
  induction m with
  | nil => simp [mget]
  | cons e t ih =>
    simp only [List.filter_cons]
    by_cases he : p e.1
    · rw [if_pos he]
      simp only [mget]
      by_cases h : e.1 = k
      · subst h
        rw [if_pos rfl, if_pos he, if_pos rfl]
      · rw [if_neg h, if_neg h, ih]
    · rw [if_neg he, ih]
      by_cases h : e.1 = k
      · subst h
        rw [if_neg he, if_neg he]
      · simp only [mget, if_neg h]

/-- Reading after writing bytes: the bytes written where they lie, the old byte everywhere else. -/
theorem mget_mputs (m : List Host.Cell) (k j : Nat) (bs : List Byte) :
    mget (mputs m k bs) j = if k ≤ j ∧ j < k + bs.length then (bs[j - k]?).getD 0 else mget m j := by
  have hlow : ∀ c ∈ m.filter (fun c => decide (c.1 < k)), c.1 < k := by
    intro c hc
    simpa using (List.mem_filter.mp hc).2
  have hA : mget (m.filter (fun c => decide (c.1 < k))) j = if decide (j < k) = true then mget m j else 0 :=
    mget_filter m (fun x => decide (x < k)) j
  have hC : mget (m.filter (fun c => decide (k + bs.length ≤ c.1))) j =
      if decide (k + bs.length ≤ j) = true then mget m j else 0 :=
    mget_filter m (fun x => decide (k + bs.length ≤ x)) j
  unfold mputs
  rw [mget_append]
  by_cases h1 : j < k
  · split
    · rw [hA]
      simp [h1, show ¬(k ≤ j) by omega]
    · rename_i hno
      have : mget m j = 0 := by
        have := mget_absent (m.filter (fun c => decide (c.1 < k))) j (fun c hc he => hno ⟨c, hc, he⟩)
        simpa [hA, h1] using this
      rw [mget_append, mget_absent (mcells k bs) j (fun c hc => by have := mcells_range k bs c hc; omega), hC]
      simp [show ¬(k ≤ j) by omega, this]
  · rw [if_neg (by rintro ⟨c, hc, rfl⟩; exact h1 (hlow c hc)), mget_append]
    by_cases h2 : j < k + bs.length
    · rw [if_pos (show k ≤ j ∧ j < k + bs.length by omega)]
      split
      · rw [mget_mcells, if_pos (by omega)]
      · rename_i hno
        have h0 : mget (mcells k bs) j = 0 := mget_absent _ _ (fun c hc he => hno ⟨c, hc, he⟩)
        rw [mget_mcells, if_pos (by omega)] at h0
        rw [hC, h0]
        simp [show ¬(k + bs.length ≤ j) by omega]
    · have hno : ¬∃ c ∈ mcells k bs, c.1 = j := by
        intro ⟨c, hc, he⟩
        have := mcells_range k bs c hc
        omega
      rw [if_neg hno, hC, if_neg (show ¬(k ≤ j ∧ j < k + bs.length) by omega)]
      simp [show k + bs.length ≤ j by omega]

/-- Writing bytes keeps the canonical form. -/
theorem mputs_wf (m : List Host.Cell) (k : Nat) (bs : List Byte) (h : Memory.wf m = true) :
    Memory.wf (mputs m k bs) = true := by
  rw [wf_iff] at h ⊢
  unfold mputs
  refine ⟨?_, ?_⟩
  · rw [List.pairwise_append, List.pairwise_append]
    refine ⟨h.1.filter _, ⟨mcells_rising k bs, h.1.filter _, ?_⟩, ?_⟩
    · intro a ha b hb
      have h1 := mcells_range k bs a ha
      have h2 : k + bs.length ≤ b.1 := by simpa using (List.mem_filter.mp hb).2
      omega
    · intro a ha b hb
      have h1 : a.1 < k := by simpa using (List.mem_filter.mp ha).2
      rcases List.mem_append.mp hb with hb | hb
      · have := mcells_range k bs b hb
        omega
      · have h2 : k + bs.length ≤ b.1 := by simpa using (List.mem_filter.mp hb).2
        omega
  · intro c hc
    rcases List.mem_append.mp hc with hc | hc
    · exact h.2 c (List.mem_filter.mp hc).1
    · rcases List.mem_append.mp hc with hc | hc
      · exact (mcells_range k bs c hc).2.2
      · exact h.2 c (List.mem_filter.mp hc).1

/-- Taking cells away keeps the canonical form. -/
theorem filter_wf (m : List Host.Cell) (p : Host.Cell → Bool) (h : Memory.wf m = true) : Memory.wf (m.filter p) = true := by
  rw [wf_iff] at h ⊢
  exact ⟨h.1.filter _, fun c hc => h.2 c (List.mem_filter.mp hc).1⟩

/-- Two memories in canonical form that read the same everywhere are equal. -/
theorem wf_ext (m n : List Host.Cell) (hm : Memory.wf m = true) (hn : Memory.wf n = true)
    (h : ∀ k, mget m k = mget n k) : m = n := by
  induction m generalizing n with
  | nil =>
    cases n with
    | nil => rfl
    | cons e t =>
      have := ((wf_iff _).mp hn).2 e (by simp)
      exact absurd (by simpa [mget] using (h e.1).symm) this
  | cons e t ih =>
    cases n with
    | nil =>
      have := ((wf_iff _).mp hm).2 e (by simp)
      exact absurd (by simpa [mget] using h e.1) this
    | cons f u =>
      have hm' := (wf_iff _).mp hm
      have hn' := (wf_iff _).mp hn
      have le := List.pairwise_cons.mp hm'.1
      have lf := List.pairwise_cons.mp hn'.1
      have key : e.1 = f.1 := by
        rcases Nat.lt_trichotomy e.1 f.1 with hlt | heq | hgt
        · have := h e.1
          rw [mget_absent (f :: u) e.1] at this
          · exact absurd (by simpa [mget] using this) (hm'.2 e (by simp))
          · intro c hc
            rcases List.mem_cons.mp hc with rfl | hc
            · omega
            · have := lf.1 c hc
              omega
        · exact heq
        · have := h f.1
          rw [mget_absent (e :: t) f.1] at this
          · exact absurd (by simpa [mget] using this.symm) (hn'.2 f (by simp))
          · intro c hc
            rcases List.mem_cons.mp hc with rfl | hc
            · omega
            · have := le.1 c hc
              omega
      have val : e.2 = f.2 := by
        have := h e.1
        simpa [mget, key] using this
      have hef : e = f := Prod.ext key val
      subst hef
      congr 1
      refine ih u ?_ ?_ ?_
      · exact (wf_iff _).mpr ⟨le.2, fun c hc => hm'.2 c (by simp [hc])⟩
      · exact (wf_iff _).mpr ⟨lf.2, fun c hc => hn'.2 c (by simp [hc])⟩
      · intro k
        have := h k
        simp only [mget] at this
        by_cases hk : e.1 = k
        · subst hk
          rw [mget_absent t, mget_absent u]
          · intro c hc
            have := lf.1 c hc
            omega
          · intro c hc
            have := le.1 c hc
            omega
        · simpa [hk] using this

/-- Committing a line's version keeps the canonical form. -/
theorem convert_wf (s : State) (line : Nat) (h : Memory.wf s.mem = true) : Memory.wf (s.convert line).mem = true := by
  unfold State.convert
  split
  · exact h
  · exact mputs_wf _ _ _ h

/-- Committing several lines keeps the canonical form. -/
theorem convert_foldl_wf (ls : List Nat) (s : State) (h : Memory.wf s.mem = true) :
    Memory.wf (ls.foldl State.convert s).mem = true := by
  induction ls generalizing s with
  | nil => exact h
  | cons l t ih => exact ih _ (convert_wf s l h)

/-- A write to the committed content of memory keeps the canonical form. -/
theorem writeBytes_wf (s : State) (key : Nat) (bytes : List Byte) (p : Bool) (h : Memory.wf s.mem = true) :
    Memory.wf (s.writeBytes key bytes p).mem = true := by
  unfold State.writeBytes
  split
  · exact h
  · exact mputs_wf _ _ _ (convert_foldl_wf _ _ h)

/-- Making room for a version moves versions alone. -/
theorem makeRoom_mem {s : State} {line : Nat} {tag : BitVec 4} {r : State × Bool} (h : s.makeRoom line tag = some r) :
    r.1.mem = s.mem := by
  unfold State.makeRoom at h
  split at h
  · cases h
    rfl
  · split at h
    · split at h
      · cases h
        rfl
      · cases h
    · cases h
      rfl

/-- A version that is found or created leaves the committed content of memory. -/
theorem openVersion_mem (s : State) (line : Nat) (tag : BitVec 4) : (s.openVersion line tag).1.mem = s.mem := by
  unfold State.openVersion State.placeVersion
  split
  · rfl
  · cases h : s.makeRoom line tag with
    | none => rfl
    | some r => exact makeRoom_mem h

/-- A write to a version keeps the canonical form. -/
theorem writeVersion_wf (s : State) (tag : BitVec 4) (key : Nat) (bytes : List Byte) (p : Bool)
    (h : Memory.wf s.mem = true) : Memory.wf (s.writeVersion tag key bytes p).mem = true := by
  show Memory.wf ((s.convert (lineOf key)).openVersion (lineOf key) tag).1.mem = true
  rw [openVersion_mem]
  exact convert_wf s _ h

/-- A write by a branch keeps the canonical form. -/
theorem writeAs_wf (s : State) (tag : BitVec 4) (ver : Bool) (key : Nat) (bytes : List Byte) (p : Bool)
    (h : Memory.wf s.mem = true) : Memory.wf (s.writeAs tag ver key bytes p).mem = true := by
  unfold State.writeAs
  split
  · exact writeVersion_wf _ _ _ _ _ h
  · exact writeBytes_wf _ _ _ _ h

/-- Memory after reset is in canonical form. -/
theorem reset_wf : Memory.wf State.reset.mem = true := by decide

end Sys2Proof.Machine
end

