-- ==== Sys2Proof/Laws/Tables.lean ====
section
/-!
SUPPORT. Laws of the finite tables: reading after writing, removing and changing an entry.
-/

namespace Sys2Proof.Machine

variable {α : Type}

/-- Reading the key just set. -/
@[simp] theorem tget_tset_same (t : Tbl α) (k : Nat) (v : α) : tget (tset t k v) k = some v := by
  induction t with
  | nil => simp [tset, tget]
  | cons e t ih =>
    simp only [tset]
    split
    · simp [tget]
    · split
      · simp [tget]
      · simp only [tget]
        rw [if_neg (by omega)]
        exact ih

/-- Reading another key than the one just set. -/
theorem tget_tset_ne (t : Tbl α) {k j : Nat} (v : α) (h : j ≠ k) : tget (tset t k v) j = tget t j := by
  induction t with
  | nil => simp [tset, tget, Ne.symm h]
  | cons e t ih =>
    simp only [tset]
    split
    · simp [tget, Ne.symm h]
    · split
      · rename_i h2
        simp [tget, ← h2, Ne.symm h]
      · simp only [tget, ih]

/-- Reading any key after one is set. -/
theorem tget_tset (t : Tbl α) (k j : Nat) (v : α) : tget (tset t k v) j = if j = k then some v else tget t j := by
  by_cases h : j = k
  · simp [h]
  · simp [h, tget_tset_ne]

/-- Reading with a default the key just set. -/
@[simp] theorem tgetD_tset_same (t : Tbl α) (k : Nat) (v d : α) : tgetD (tset t k v) k d = v := by simp [tgetD]

/-- Reading with a default another key than the one just set. -/
theorem tgetD_tset_ne (t : Tbl α) {k j : Nat} (v d : α) (h : j ≠ k) : tgetD (tset t k v) j d = tgetD t j d := by
  simp [tgetD, tget_tset_ne _ _ h]

/-- Reading the key just removed. -/
@[simp] theorem tget_tdel_same (t : Tbl α) (k : Nat) : tget (tdel t k) k = none := by
  induction t with
  | nil => rfl
  | cons e t ih =>
    simp only [tdel, List.filter_cons]
    split
    · rename_i h
      simp only [tget]
      rw [if_neg (by simpa using h)]
      exact ih
    · exact ih

/-- Reading another key than the one just removed. -/
theorem tget_tdel_ne (t : Tbl α) {k j : Nat} (h : j ≠ k) : tget (tdel t k) j = tget t j := by
  induction t with
  | nil => rfl
  | cons e t ih =>
    simp only [tdel, List.filter_cons]
    split
    · simp only [tget]
      split
      · rfl
      · exact ih
    · rename_i h2
      simp only [bne_iff_ne, ne_eq, Decidable.not_not] at h2
      simp only [tget]
      rw [if_neg (by omega)]
      exact ih

/-- Reading any key after one is changed. -/
theorem tget_tmod (t : Tbl α) (k j : Nat) (f : α → α) :
    tget (tmod t k f) j = if j = k then (tget t k).map f else tget t j := by
  simp only [tmod]
  split
  · rename_i v h
    rw [tget_tset]
    split <;> simp [h]
  · rename_i h
    split
    · rename_i h2
      simp [h2, h]
    · rfl

/-- Whether some value passes a test, after a key was set: the value just set passes, or one from before does. -/
theorem any_tset (t : Tbl α) (k : Nat) (v : α) (p : α → Bool) (h : (tset t k v).any (fun e => p e.2) = true) :
    p v = true ∨ t.any (fun e => p e.2) = true := by
  induction t with
  | nil => simpa [tset] using h
  | cons e t ih =>
    simp only [tset] at h
    split at h
    · simpa using h
    · split at h
      · simp only [List.any_cons, Bool.or_eq_true] at h ⊢
        exact h.elim .inl (fun h => .inr (.inr h))
      · simp only [List.any_cons, Bool.or_eq_true] at h ⊢
        exact h.elim (fun h => .inr (.inl h)) (fun h => (ih h).elim .inl (fun h => .inr (.inr h)))

/-- The value just set passes the test that it passes. -/
theorem any_tset_new (t : Tbl α) (k : Nat) (v : α) (p : α → Bool) (h : p v = true) :
    (tset t k v).any (fun e => p e.2) = true := by
  induction t with
  | nil => simp [tset, h]
  | cons e t ih =>
    simp only [tset]
    split
    · simp [h]
    · split
      · simp [h]
      · simp only [List.any_cons, Bool.or_eq_true]
        exact .inr ih

/-- A key's entry that passes a test is one that passes it. -/
theorem any_of_tgetD (t : Tbl α) (k : Nat) (d : α) (p : α → Bool) (hd : p d = false) (h : p (tgetD t k d) = true) :
    t.any (fun e => p e.2) = true := by
  induction t with
  | nil => simp [tgetD, tget, hd] at h
  | cons e t ih =>
    simp only [tgetD, tget] at h
    simp only [List.any_cons, Bool.or_eq_true]
    split at h
    · exact .inl h
    · exact .inr (ih h)

/-- What passed a test before a key was set passes it after, or was that key's entry. -/
theorem any_tset_old (t : Tbl α) (k : Nat) (v d : α) (p : α → Bool) (h : t.any (fun e => p e.2) = true) :
    (tset t k v).any (fun e => p e.2) = true ∨ p (tgetD t k d) = true := by
  induction t with
  | nil => simp at h
  | cons e t ih =>
    simp only [List.any_cons, Bool.or_eq_true] at h
    simp only [tset, tgetD, tget]
    split
    · simp only [List.any_cons, Bool.or_eq_true]
      exact .inl (.inr h)
    · split
      · rename_i hk
        rw [if_pos hk.symm]
        simp only [List.any_cons, Bool.or_eq_true]
        exact h.elim (fun h => .inr h) (fun h => .inl (.inr h))
      · rename_i hk
        rw [if_neg (Ne.symm hk)]
        simp only [List.any_cons, Bool.or_eq_true]
        exact h.elim (fun h => .inl (.inl h)) (fun h => (ih h).imp .inr id)

end Sys2Proof.Machine
end

