-- ==== Sys2Proof/Laws/Packets.lean ====
section
/-!
SUPPORT. What a packet's step comes to when its queue holds it, and what consuming a packet does.
-/

namespace Sys2Proof.Machine

/-- The slots after the first, read in order. -/
theorem packetSlots_of (s : State) (n : Nat) (q : Queue) (is : List Nat) (vs : List Nat) (hl : vs.length = is.length)
    (h : ∀ (k i v : Nat), is[k]? = some i → vs[k]? = some v → s.parserRead n q.domain (q.slotAddr i) 64 = .ok v) :
    s.packetSlots n q is = .ok vs := by
  induction is generalizing vs with
  | nil => cases vs with
    | nil => rfl
    | cons _ _ => simp at hl
  | cons i t ih =>
    cases vs with
    | nil => simp at hl
    | cons v r =>
      have h0 := h 0 i v rfl rfl
      have h1 := ih r (by simpa using hl) (fun k j u hj hu => h (k + 1) j u (by simpa using hj) (by simpa using hu))
      simp [State.packetSlots, h0, h1]

/-- A queue that has taken up a packet keeps its header and all else. -/
theorem handed_queue (s : State) (q : Nat) (slots : List Nat) :
    (s.handed q slots).queue q = { s.queue q with header := some (slots.headD 0) } := by
  simp [State.handed, State.queue, tgetD_tset_same]

/-- A packet in hand is given to its step. -/
theorem onPacket_inHand {s : State} {q : Nat} {st : QState} {type : Nat} {used : Nat → Nat → Nat} {slots : List Nat}
    (h : s.InHand q st type used slots) (f : State → Queue → List Nat → State) :
    s.onPacket q st type used f = f (s.handed q slots) ((s.handed q slots).queue q) slots := by
  rw [handed_queue]
  generalize hf : f (s.handed q slots) { s.queue q with header := some (slots.headD 0) } slots = out
  obtain ⟨h1, h2, h3, h4, h5, h6, h7, h8, h9⟩ := h
  subst h1
  cases slots with
  | nil => exact absurd rfl h3
  | cons v rest =>
    have hv := h5 0 v rfl
    have hr : s.packetSlots q (s.queue q) ((List.range rest.length).map (· + 1)) = .ok rest := by
      apply packetSlots_of
      · simp
      · intro k i u hi hu
        have : k < rest.length := by
          rcases List.getElem?_eq_some_iff.mp hu with ⟨hk, _⟩
          exact hk
        have hi' : i = k + 1 := by
          rw [List.getElem?_map, List.getElem?_range this] at hi
          simpa using hi.symm
        subst hi'
        exact (h5 (k + 1) u (by simpa using hu)).1
    simp only [List.headD_cons, List.length_cons, Nat.add_sub_cancel] at *
    have hp : (s.queue q).pending ≠ 0 := by omega
    have hq : ¬ (s.queue q).pending > (s.queue q).slots := by omega
    have hb : bits v 7 0 = type := by simpa [bits] using h6
    have hs : ((s.queue q).st == QState.parse && bit v 11 && !(s.queue q).serialDone && s.queueWork q) = false := by
      by_cases hst : (s.queue q).st = .parse
      · by_cases hbit : bit v 11 = true
        · rcases h9 hst hbit with h | h <;> simp [h]
        · simp [hbit]
      · have : ((s.queue q).st == QState.parse) = false := by simpa using hst
        simp [this]
    have hany : ((v :: rest).zipIdx).any (fun x => x.1 &&& used x.2 v != x.1) = false := by
      rw [List.any_eq_false]
      intro x hx
      have := h5 x.2 x.1 (List.mem_zipIdx_iff_getElem?.mp hx)
      simp [this.2]
    have hm : ¬ (s.queue q).pending ≤ rest.length := by omega
    simp only [State.onPacket, h2, hp, hq, hv.1, hb, h7, h8, hs, hr, hany, hm, Option.getD_some, ne_eq, not_true_eq_false,
      decide_false, Bool.or_false, Bool.false_eq_true, if_false, Option.isSome_none]
    exact hf

/-- Nothing of a state changes but memory, its poison and versions, the records of errors and faults, and what waits. -/
structure Outer (s t : State) : Prop where
  queues : t.queues = s.queues
  rest : t.launches = s.launches ∧ t.waves = s.waves ∧ t.teams = s.teams ∧ t.sets = s.sets ∧ t.tagStates = s.tagStates ∧
    t.heads = s.heads ∧ t.packetCopies = s.packetCopies ∧ t.pool = s.pool ∧ t.kvNames = s.kvNames ∧ t.ns = s.ns

/-- A state is as itself. -/
theorem outer_refl (s : State) : Outer s s := ⟨rfl, by simp⟩

/-- Steps of this kind follow one another. -/
theorem outer_trans {s t u : State} (h : Outer s t) (g : Outer t u) : Outer s u := by
  obtain ⟨h0, h1⟩ := h
  obtain ⟨g0, g1⟩ := g
  refine ⟨g0.trans h0, ?_⟩
  simp only [g1, h1, and_self]

/-- A committed version's conversion. -/
theorem outer_convert (s : State) (line : Nat) : Outer s (s.convert line) := by
  unfold State.convert
  split
  · exact outer_refl s
  · exact ⟨rfl, by simp⟩

/-- Conversions of several lines. -/
theorem outer_converts (ls : List Nat) (s : State) : Outer s (ls.foldl State.convert s) := by
  induction ls generalizing s with
  | nil => exact outer_refl s
  | cons l t ih => exact outer_trans (outer_convert s l) (ih (s.convert l))

/-- An access's conversion of the lines that it reaches. -/
theorem outer_convertAt (s : State) (places : List (Nat × Nat × Nat)) : Outer s (s.convertAt places) := by
  unfold State.convertAt
  rw [← List.foldl_map]
  exact outer_converts _ s

/-- A parser's read of some ranges. -/
theorem outer_parserTouch (s : State) (q dom : Nat) (ranges : List (Nat × Nat)) : Outer s (s.parserTouch q dom ranges) :=
  outer_convertAt s _

/-- A write of committed memory. -/
theorem outer_writeBytes (s : State) (key : Nat) (bytes : List Byte) (p : Bool) : Outer s (s.writeBytes key bytes p) := by
  unfold State.writeBytes
  split
  · exact outer_refl s
  · exact outer_trans (outer_converts _ s) ⟨rfl, by simp⟩

/-- An error record. -/
theorem outer_errorRecord (s : State) (a b c : Nat) (w : Who) (d : List (Nat × Nat)) : Outer s (s.errorRecord a b c w d) := by
  simp only [State.errorRecord]
  split
  · exact ⟨rfl, by simp⟩
  · refine outer_trans (t := { s with errSeq := s.errSeq + 1 }) ⟨rfl, by simp⟩ ?_
    exact outer_trans (outer_writeBytes _ _ _ _) ⟨rfl, by simp⟩

/-- A replayable fault, joined or new. -/
theorem outer_waitOn (s : State) (a b c d e : Nat) (x : BitVec 5) (y : DWord) (z : Word) :
    Outer s (s.waitOn a b c d e x y z) := by
  have h : Outer s (s.replayMiss c d e x y z).1 := by
    unfold State.replayMiss
    split
    · exact ⟨rfl, by simp⟩
    · exact ⟨rfl, by simp⟩
  unfold State.waitOn
  simp only
  split
  · exact h
  · exact outer_trans h ⟨rfl, by simp⟩

/-- What a change of one queue leaves as it was. -/
structure OneQueue (s t : State) (n : Nat) : Prop where
  others : ∀ p, p ≠ n → t.queue p = s.queue p
  rest : t.launches = s.launches ∧ t.waves = s.waves ∧ t.teams = s.teams ∧ t.sets = s.sets ∧ t.tagStates = s.tagStates ∧
    t.heads = s.heads ∧ t.packetCopies = s.packetCopies ∧ t.pool = s.pool ∧ t.kvNames = s.kvNames ∧ t.ns = s.ns

/-- Steps outside the queues change no queue. -/
theorem oneQueue_of {s t : State} (h : Outer s t) (n : Nat) : OneQueue s t n :=
  ⟨fun p _ => by simp [State.queue, h.queues], h.rest⟩

/-- Steps on one queue follow one another. -/
theorem oneQueue_trans {s t u : State} {n : Nat} (h : OneQueue s t n) (g : OneQueue t u n) : OneQueue s u n := by
  obtain ⟨h0, h1⟩ := h
  obtain ⟨g0, g1⟩ := g
  refine ⟨fun p hp => (g0 p hp).trans (h0 p hp), ?_⟩
  simp only [g1, h1, and_self]

/-- A queue put back. -/
theorem setQueue_spec (s : State) (n : Nat) (q : Queue) :
    OneQueue s (s.setQueue n q) n ∧ (s.setQueue n q).queue n = q := by
  have h := outer_writeBytes ({ s with queues := tset s.queues n q } : State)
    (({ s with queues := tset s.queues n q } : State).qcbKey n + 32)
    (toBytes 32 (q.readIndex.toNat + q.st.code * 2 ^ 32 + q.status.toNat * 2 ^ 48)) false
  refine ⟨⟨fun p hp => ?_, ?_⟩, ?_⟩
  · unfold State.setQueue State.queue
    rw [h.queues]
    exact tgetD_tset_ne _ _ _ hp
  · exact h.rest
  · unfold State.setQueue State.queue
    rw [h.queues]
    exact tgetD_tset_same _ _ _ _

/-- A queue that takes up a packet is the only one that changes. -/
theorem handed_spec (s : State) (q : Nat) (slots : List Nat) : OneQueue s (s.handed q slots) q :=
  ⟨fun _ hp => tgetD_tset_ne _ _ _ hp,
    (outer_parserTouch s q (s.queue q).domain ((List.range slots.length).map (fun i => ((s.queue q).slotAddr i, 64)))).rest⟩

/-- The waits of a parser forgotten. -/
theorem outer_goneOn (s : State) (c n : Nat) : Outer s (s.goneOn c n) := ⟨rfl, by simp [State.goneOn]⟩

/-- A rejected packet leaves its queue in ERROR at the same slot (R93). -/
theorem reject_spec (s : State) (n r a : Nat) (h : Option Nat) (e : List (Nat × Nat)) :
    OneQueue s (s.reject n r a h e) n ∧ ((s.reject n r a h e).queue n).readIndex = (s.queue n).readIndex ∧
      ((s.reject n r a h e).queue n).st = .error := by
  have h1 := outer_errorRecord s 0 r a Who.none (queueDetail n (s.queue n).readIndex h e)
  let q := (s.queueRecord n r a h e).queue n
  let y : Queue := { (q.withStatus 3) with st := .error, held := 0, commitTag := 0, forkOrder := none, fired := false,
                                           ending := none, fenceSeen := [], header := none, disabling := false }
  have h2 := setQueue_spec (s.queueRecord n r a h e) n y
  have h3 := outer_goneOn ((s.queueRecord n r a h e).setQueue n y) 0 n
  have hq : (s.reject n r a h e).queue n = y := by
    have : (s.reject n r a h e).queue n = ((s.queueRecord n r a h e).setQueue n y).queue n := rfl
    rw [this]; exact h2.2
  refine ⟨oneQueue_trans (oneQueue_of h1 n) (oneQueue_trans h2.1 (oneQueue_of h3 n)), ?_, ?_⟩
  · rw [hq]
    change q.readIndex = _
    have : q = s.queue n := by
      change tgetD _ _ _ = tgetD _ _ _
      rw [show (s.queueRecord n r a h e).queues = s.queues from h1.queues]
    rw [this]
  · rw [hq]

/-- A parser access that stops leaves read_index where it is. -/
theorem parserStop_spec (s : State) (n : Nat) (u : Use) (h : Option Nat) (p : Nat) (e : PErr) :
    OneQueue s (s.parserStop n u h p e) n ∧ ((s.parserStop n u h p e).queue n).readIndex = (s.queue n).readIndex := by
  cases e with
  | miss va level =>
    have := outer_waitOn s 0 n (s.queue n).domain va level (accessBits u false) (BitVec.allOnes 64) 0xFFFFFFFF
    refine ⟨oneQueue_of this n, ?_⟩
    change (tgetD (s.waitOn 0 n (s.queue n).domain va level (accessBits u false) (BitVec.allOnes 64) 0xFFFFFFFF).queues n
      Queue.reset).readIndex = _
    rw [this.queues]
    rfl
  | fault c va => exact ⟨(reject_spec s n 11 va h [(9, c)]).1, (reject_spec s n 11 va h [(9, c)]).2.1⟩
  | poison va => exact ⟨(reject_spec s n p va h []).1, (reject_spec s n p va h []).2.1⟩

/-- Looking at the next packet leaves read_index where it is, and makes an empty queue IDLE or DISABLED (R91, R93). -/
theorem parseHead_spec (s : State) (n : Nat) :
    OneQueue s (s.parseHead n) n ∧ ((s.parseHead n).queue n).readIndex = (s.queue n).readIndex ∧
      ((s.queue n).st = .parse → (s.queue n).pending = 0 →
        ((s.parseHead n).queue n).st = if (s.queue n).disabling then .disabled else .idle) ∧
      ((s.queue n).st ≠ .parse → s.parseHead n = s) := by
  by_cases hst : (s.queue n).st ≠ .parse
  · have : s.parseHead n = s := by simp [State.parseHead, hst]
    rw [this]
    exact ⟨oneQueue_of (outer_refl s) n, rfl, fun h => absurd h hst, fun _ => rfl⟩
  replace hst := Classical.not_not.mp hst
  by_cases hp : (s.queue n).pending = 0
  · have : s.parseHead n = s.setQueue n { s.queue n with
        st := if (s.queue n).disabling then .disabled else .idle, disabling := false } := by
      simp [State.parseHead, hst, hp]
    rw [this]
    have h := setQueue_spec s n { s.queue n with
        st := if (s.queue n).disabling then .disabled else .idle, disabling := false }
    refine ⟨h.1, by rw [h.2], fun _ _ => by rw [h.2], fun h => absurd hst h⟩
  have key : OneQueue s (s.parseHead n) n ∧ ((s.parseHead n).queue n).readIndex = (s.queue n).readIndex := by
    unfold State.parseHead
    simp only [hst, hp, ne_eq, not_true_eq_false, if_false]
    split
    · exact ⟨(reject_spec s n _ _ _ _).1, (reject_spec s n _ _ _ _).2.1⟩
    · split
      · exact parserStop_spec s n _ _ _ _
      · split
        · exact ⟨(reject_spec s n _ _ _ _).1, (reject_spec s n _ _ _ _).2.1⟩
        · have self : OneQueue s s n := oneQueue_of (outer_refl s) n
          have put : ∀ q : Queue, q.readIndex = (s.queue n).readIndex →
              OneQueue s (s.setQueue n q) n ∧ ((s.setQueue n q).queue n).readIndex = (s.queue n).readIndex :=
            fun q hq => ⟨(setQueue_spec s n q).1, by rw [(setQueue_spec s n q).2, hq]⟩
          split
          · split
            · exact put _ rfl
            · exact ⟨self, rfl⟩
          · split
            · exact put _ rfl
            · exact ⟨self, rfl⟩
  exact ⟨key.1, key.2, fun _ h => absurd h hp, fun h => absurd hst h⟩

/-- What consuming a packet does (R92, R93). -/
theorem consume_consumed (s : State) (q n : Nat) (_hn : n < 2 ^ 32) : Consumed s q n (s.consume q n) := by
  let x := s.queue q
  let y : Queue := { x with
    readIndex := x.readIndex + BitVec.ofNat 32 n, serialDone := false, held := 0, commitTag := 0
    forkOrder := none, fired := false, ending := none, fenceSeen := [], header := none, st := if x.disabling then .disabled else .parse, disabling := false }
  let s1 := (s.setQueue q y).goneOn 0 q
  have h1 : OneQueue s s1 q := oneQueue_trans (setQueue_spec s q y).1 (oneQueue_of (outer_goneOn _ 0 q) q)
  have hy : s1.queue q = y := (setQueue_spec s q y).2
  have h2 := parseHead_spec s1 q
  have h3 := oneQueue_trans h1 h2.1
  refine ⟨?_, ?_, h3.others, h3.rest⟩
  · exact h2.2.1.trans (by rw [hy])
  · intro hp
    change ((s1.parseHead q).queue q).st = _
    by_cases hd : x.disabling = true
    · have : (s1.queue q).st ≠ .parse := by rw [hy]; simp [y, hd]
      rw [h2.2.2.2 this, hy]
      simp only [y, x] at hd ⊢
      simp [hd]
    · have hpar : (s1.queue q).st = .parse := by rw [hy]; simp [y, hd]
      have hzero : (s1.queue q).pending = 0 := by
        rw [hy]
        change (x.writeIndex - (x.readIndex + BitVec.ofNat 32 n)).toNat = 0
        have : (x.writeIndex - x.readIndex).toNat = n := hp
        rw [BitVec.toNat_sub] at this
        have a := x.writeIndex.isLt
        have b := x.readIndex.isLt
        rw [BitVec.toNat_sub, BitVec.toNat_add, BitVec.toNat_ofNat]
        omega
      rw [h2.2.2.1 hpar hzero, hy]
      simp [y, x] at hd ⊢
      simp [hd]

end Sys2Proof.Machine
end

