-- ==== Sys2Proof/Laws/PerInstr.lean ====
section
/-!
SUPPORT. Statements made per instruction. DeviceSteps: a step of the device is no instruction word: its encoding is the illegal
word 0, and none of the checks of R35 concerns it.
-/

namespace Sys2Proof.Laws.DeviceSteps

/-- A constructor that is no word form has the illegal word 0 for its encoding and passes every check. -/
def Statement (i : Instr) : Prop := i.hasWord = false → encode i = 0 ∧ i.wellFormed = true

theorem add (d : BitVec 7) (a : BitVec 7) (b : BitVec 7) (kb : BitVec 1) : Statement (.add d a b kb) := fun h => Bool.noConfusion h
theorem sub (d : BitVec 7) (a : BitVec 7) (b : BitVec 7) (kb : BitVec 1) : Statement (.sub d a b kb) := fun h => Bool.noConfusion h
theorem mul (d : BitVec 7) (a : BitVec 7) (b : BitVec 7) (kb : BitVec 1) : Statement (.mul d a b kb) := fun h => Bool.noConfusion h
theorem mulh (d : BitVec 7) (a : BitVec 7) (b : BitVec 7) (kb : BitVec 1) : Statement (.mulh d a b kb) := fun h => Bool.noConfusion h
theorem mulhu (d : BitVec 7) (a : BitVec 7) (b : BitVec 7) (kb : BitVec 1) : Statement (.mulhu d a b kb) := fun h => Bool.noConfusion h
theorem mad (d : BitVec 7) (a : BitVec 7) (b : BitVec 7) (kb : BitVec 1) : Statement (.mad d a b kb) := fun h => Bool.noConfusion h
theorem min (d : BitVec 7) (a : BitVec 7) (b : BitVec 7) (kb : BitVec 1) : Statement (.min d a b kb) := fun h => Bool.noConfusion h
theorem max (d : BitVec 7) (a : BitVec 7) (b : BitVec 7) (kb : BitVec 1) : Statement (.max d a b kb) := fun h => Bool.noConfusion h
theorem minu (d : BitVec 7) (a : BitVec 7) (b : BitVec 7) (kb : BitVec 1) : Statement (.minu d a b kb) := fun h => Bool.noConfusion h
theorem maxu (d : BitVec 7) (a : BitVec 7) (b : BitVec 7) (kb : BitVec 1) : Statement (.maxu d a b kb) := fun h => Bool.noConfusion h
theorem absd (d : BitVec 7) (a : BitVec 7) (b : BitVec 7) (kb : BitVec 1) : Statement (.absd d a b kb) := fun h => Bool.noConfusion h
theorem adds (d : BitVec 7) (a : BitVec 7) (b : BitVec 7) (kb : BitVec 1) : Statement (.adds d a b kb) := fun h => Bool.noConfusion h
theorem subs (d : BitVec 7) (a : BitVec 7) (b : BitVec 7) (kb : BitVec 1) : Statement (.subs d a b kb) := fun h => Bool.noConfusion h
theorem avg (d : BitVec 7) (a : BitVec 7) (b : BitVec 7) (kb : BitVec 1) : Statement (.avg d a b kb) := fun h => Bool.noConfusion h
theorem and (d : BitVec 7) (a : BitVec 7) (b : BitVec 7) (kb : BitVec 1) : Statement (.and d a b kb) := fun h => Bool.noConfusion h
theorem or (d : BitVec 7) (a : BitVec 7) (b : BitVec 7) (kb : BitVec 1) : Statement (.or d a b kb) := fun h => Bool.noConfusion h
theorem xor (d : BitVec 7) (a : BitVec 7) (b : BitVec 7) (kb : BitVec 1) : Statement (.xor d a b kb) := fun h => Bool.noConfusion h
theorem andn (d : BitVec 7) (a : BitVec 7) (b : BitVec 7) (kb : BitVec 1) : Statement (.andn d a b kb) := fun h => Bool.noConfusion h
theorem not (d : BitVec 7) (a : BitVec 7) : Statement (.not d a) := fun h => Bool.noConfusion h
theorem shl (d : BitVec 7) (a : BitVec 7) (b : BitVec 7) (kb : BitVec 1) : Statement (.shl d a b kb) := fun h => Bool.noConfusion h
theorem shr (d : BitVec 7) (a : BitVec 7) (b : BitVec 7) (kb : BitVec 1) : Statement (.shr d a b kb) := fun h => Bool.noConfusion h
theorem sar (d : BitVec 7) (a : BitVec 7) (b : BitVec 7) (kb : BitVec 1) : Statement (.sar d a b kb) := fun h => Bool.noConfusion h
theorem rotl (d : BitVec 7) (a : BitVec 7) (b : BitVec 7) (kb : BitVec 1) : Statement (.rotl d a b kb) := fun h => Bool.noConfusion h
theorem popc (d : BitVec 7) (a : BitVec 7) : Statement (.popc d a) := fun h => Bool.noConfusion h
theorem clz (d : BitVec 7) (a : BitVec 7) : Statement (.clz d a) := fun h => Bool.noConfusion h
theorem brev (d : BitVec 7) (a : BitVec 7) : Statement (.brev d a) := fun h => Bool.noConfusion h
theorem cmpEq (d : BitVec 7) (a : BitVec 7) (b : BitVec 7) (kb : BitVec 1) : Statement (.cmpEq d a b kb) := fun h => Bool.noConfusion h
theorem cmpNe (d : BitVec 7) (a : BitVec 7) (b : BitVec 7) (kb : BitVec 1) : Statement (.cmpNe d a b kb) := fun h => Bool.noConfusion h
theorem cmpLt (d : BitVec 7) (a : BitVec 7) (b : BitVec 7) (kb : BitVec 1) : Statement (.cmpLt d a b kb) := fun h => Bool.noConfusion h
theorem cmpLe (d : BitVec 7) (a : BitVec 7) (b : BitVec 7) (kb : BitVec 1) : Statement (.cmpLe d a b kb) := fun h => Bool.noConfusion h
theorem cmpLtu (d : BitVec 7) (a : BitVec 7) (b : BitVec 7) (kb : BitVec 1) : Statement (.cmpLtu d a b kb) := fun h => Bool.noConfusion h
theorem cmpLeu (d : BitVec 7) (a : BitVec 7) (b : BitVec 7) (kb : BitVec 1) : Statement (.cmpLeu d a b kb) := fun h => Bool.noConfusion h
theorem addi (d : BitVec 7) (a : BitVec 7) (imm : BitVec 12) : Statement (.addi d a imm) := fun h => Bool.noConfusion h
theorem andi (d : BitVec 7) (a : BitVec 7) (imm : BitVec 12) : Statement (.andi d a imm) := fun h => Bool.noConfusion h
theorem ori (d : BitVec 7) (a : BitVec 7) (imm : BitVec 12) : Statement (.ori d a imm) := fun h => Bool.noConfusion h
theorem xori (d : BitVec 7) (a : BitVec 7) (imm : BitVec 12) : Statement (.xori d a imm) := fun h => Bool.noConfusion h
theorem shli (d : BitVec 7) (a : BitVec 7) (n : BitVec 5) : Statement (.shli d a n) := fun h => Bool.noConfusion h
theorem shri (d : BitVec 7) (a : BitVec 7) (n : BitVec 5) : Statement (.shri d a n) := fun h => Bool.noConfusion h
theorem sari (d : BitVec 7) (a : BitVec 7) (n : BitVec 5) : Statement (.sari d a n) := fun h => Bool.noConfusion h
theorem rotli (d : BitVec 7) (a : BitVec 7) (n : BitVec 5) : Statement (.rotli d a n) := fun h => Bool.noConfusion h
theorem cmpi (d : BitVec 7) (a : BitVec 7) (c : BitVec 3) (imm : BitVec 9) : Statement (.cmpi d a c imm) := fun h => Bool.noConfusion h
theorem movi (d : BitVec 7) (imm : BitVec 19) : Statement (.movi d imm) := fun h => Bool.noConfusion h
theorem movhi (d : BitVec 7) (imm : BitVec 19) : Statement (.movhi d imm) := fun h => Bool.noConfusion h
theorem bfx (d : BitVec 7) (a : BitVec 7) (p : BitVec 6) (n : BitVec 6) : Statement (.bfx d a p n) := fun h => Bool.noConfusion h
theorem bfi (d : BitVec 7) (a : BitVec 7) (p : BitVec 6) (n : BitVec 6) : Statement (.bfi d a p n) := fun h => Bool.noConfusion h
theorem add64 (d : BitVec 7) (a : BitVec 7) (b : BitVec 7) (kb : BitVec 1) : Statement (.add64 d a b kb) := fun h => Bool.noConfusion h
theorem sub64 (d : BitVec 7) (a : BitVec 7) (b : BitVec 7) (kb : BitVec 1) : Statement (.sub64 d a b kb) := fun h => Bool.noConfusion h
theorem lea1 (d : BitVec 7) (a : BitVec 7) (b : BitVec 7) (kb : BitVec 1) : Statement (.lea1 d a b kb) := fun h => Bool.noConfusion h
theorem lea2 (d : BitVec 7) (a : BitVec 7) (b : BitVec 7) (kb : BitVec 1) : Statement (.lea2 d a b kb) := fun h => Bool.noConfusion h
theorem lea4 (d : BitVec 7) (a : BitVec 7) (b : BitVec 7) (kb : BitVec 1) : Statement (.lea4 d a b kb) := fun h => Bool.noConfusion h
theorem lea8 (d : BitVec 7) (a : BitVec 7) (b : BitVec 7) (kb : BitVec 1) : Statement (.lea8 d a b kb) := fun h => Bool.noConfusion h
theorem sext (d : BitVec 7) (a : BitVec 7) : Statement (.sext d a) := fun h => Bool.noConfusion h
theorem zext (d : BitVec 7) (a : BitVec 7) : Statement (.zext d a) := fun h => Bool.noConfusion h
theorem sel (d : BitVec 7) (a : BitVec 7) (b : BitVec 7) (kb : BitVec 1) : Statement (.sel d a b kb) := fun h => Bool.noConfusion h
theorem fadd (d : BitVec 7) (a : BitVec 7) (b : BitVec 7) (kb : BitVec 1) : Statement (.fadd d a b kb) := fun h => Bool.noConfusion h
theorem fsub (d : BitVec 7) (a : BitVec 7) (b : BitVec 7) (kb : BitVec 1) : Statement (.fsub d a b kb) := fun h => Bool.noConfusion h
theorem fmul (d : BitVec 7) (a : BitVec 7) (b : BitVec 7) (kb : BitVec 1) : Statement (.fmul d a b kb) := fun h => Bool.noConfusion h
theorem ffma (d : BitVec 7) (a : BitVec 7) (b : BitVec 7) (kb : BitVec 1) : Statement (.ffma d a b kb) := fun h => Bool.noConfusion h
theorem ffms (d : BitVec 7) (a : BitVec 7) (b : BitVec 7) (kb : BitVec 1) : Statement (.ffms d a b kb) := fun h => Bool.noConfusion h
theorem fmin (d : BitVec 7) (a : BitVec 7) (b : BitVec 7) (kb : BitVec 1) : Statement (.fmin d a b kb) := fun h => Bool.noConfusion h
theorem fmax (d : BitVec 7) (a : BitVec 7) (b : BitVec 7) (kb : BitVec 1) : Statement (.fmax d a b kb) := fun h => Bool.noConfusion h
theorem fminnum (d : BitVec 7) (a : BitVec 7) (b : BitVec 7) (kb : BitVec 1) : Statement (.fminnum d a b kb) := fun h => Bool.noConfusion h
theorem fmaxnum (d : BitVec 7) (a : BitVec 7) (b : BitVec 7) (kb : BitVec 1) : Statement (.fmaxnum d a b kb) := fun h => Bool.noConfusion h
theorem fabs (d : BitVec 7) (a : BitVec 7) : Statement (.fabs d a) := fun h => Bool.noConfusion h
theorem fneg (d : BitVec 7) (a : BitVec 7) : Statement (.fneg d a) := fun h => Bool.noConfusion h
theorem fcopysign (d : BitVec 7) (a : BitVec 7) (b : BitVec 7) (kb : BitVec 1) : Statement (.fcopysign d a b kb) := fun h => Bool.noConfusion h
theorem fclass (d : BitVec 7) (a : BitVec 7) : Statement (.fclass d a) := fun h => Bool.noConfusion h
theorem fcmpEq (d : BitVec 7) (a : BitVec 7) (b : BitVec 7) (kb : BitVec 1) : Statement (.fcmpEq d a b kb) := fun h => Bool.noConfusion h
theorem fcmpNe (d : BitVec 7) (a : BitVec 7) (b : BitVec 7) (kb : BitVec 1) : Statement (.fcmpNe d a b kb) := fun h => Bool.noConfusion h
theorem fcmpLt (d : BitVec 7) (a : BitVec 7) (b : BitVec 7) (kb : BitVec 1) : Statement (.fcmpLt d a b kb) := fun h => Bool.noConfusion h
theorem fcmpLe (d : BitVec 7) (a : BitVec 7) (b : BitVec 7) (kb : BitVec 1) : Statement (.fcmpLe d a b kb) := fun h => Bool.noConfusion h
theorem fcmpUnord (d : BitVec 7) (a : BitVec 7) (b : BitVec 7) (kb : BitVec 1) : Statement (.fcmpUnord d a b kb) := fun h => Bool.noConfusion h
theorem fcmpOrd (d : BitVec 7) (a : BitVec 7) (b : BitVec 7) (kb : BitVec 1) : Statement (.fcmpOrd d a b kb) := fun h => Bool.noConfusion h
theorem rcp (d : BitVec 7) (a : BitVec 7) : Statement (.rcp d a) := fun h => Bool.noConfusion h
theorem rsq (d : BitVec 7) (a : BitVec 7) : Statement (.rsq d a) := fun h => Bool.noConfusion h
theorem sqrt (d : BitVec 7) (a : BitVec 7) : Statement (.sqrt d a) := fun h => Bool.noConfusion h
theorem exp2 (d : BitVec 7) (a : BitVec 7) : Statement (.exp2 d a) := fun h => Bool.noConfusion h
theorem log2 (d : BitVec 7) (a : BitVec 7) : Statement (.log2 d a) := fun h => Bool.noConfusion h
theorem sin (d : BitVec 7) (a : BitVec 7) : Statement (.sin d a) := fun h => Bool.noConfusion h
theorem cos (d : BitVec 7) (a : BitVec 7) : Statement (.cos d a) := fun h => Bool.noConfusion h
theorem tanh (d : BitVec 7) (a : BitVec 7) : Statement (.tanh d a) := fun h => Bool.noConfusion h
theorem hadd2 (d : BitVec 7) (a : BitVec 7) (b : BitVec 7) (kb : BitVec 1) : Statement (.hadd2 d a b kb) := fun h => Bool.noConfusion h
theorem hsub2 (d : BitVec 7) (a : BitVec 7) (b : BitVec 7) (kb : BitVec 1) : Statement (.hsub2 d a b kb) := fun h => Bool.noConfusion h
theorem hmul2 (d : BitVec 7) (a : BitVec 7) (b : BitVec 7) (kb : BitVec 1) : Statement (.hmul2 d a b kb) := fun h => Bool.noConfusion h
theorem hfma2 (d : BitVec 7) (a : BitVec 7) (b : BitVec 7) (kb : BitVec 1) : Statement (.hfma2 d a b kb) := fun h => Bool.noConfusion h
theorem hmin2 (d : BitVec 7) (a : BitVec 7) (b : BitVec 7) (kb : BitVec 1) : Statement (.hmin2 d a b kb) := fun h => Bool.noConfusion h
theorem hmax2 (d : BitVec 7) (a : BitVec 7) (b : BitVec 7) (kb : BitVec 1) : Statement (.hmax2 d a b kb) := fun h => Bool.noConfusion h
theorem badd2 (d : BitVec 7) (a : BitVec 7) (b : BitVec 7) (kb : BitVec 1) : Statement (.badd2 d a b kb) := fun h => Bool.noConfusion h
theorem bmul2 (d : BitVec 7) (a : BitVec 7) (b : BitVec 7) (kb : BitVec 1) : Statement (.bmul2 d a b kb) := fun h => Bool.noConfusion h
theorem bfma2 (d : BitVec 7) (a : BitVec 7) (b : BitVec 7) (kb : BitVec 1) : Statement (.bfma2 d a b kb) := fun h => Bool.noConfusion h
theorem cvt (d : BitVec 7) (a : BitVec 7) (f : BitVec 5) (r : BitVec 2) (sv : BitVec 1) (g : BitVec 2) : Statement (.cvt d a f r sv g) := fun h => Bool.noConfusion h
theorem tagset (d : BitVec 7) (a : BitVec 7) : Statement (.tagset d a) := fun h => Bool.noConfusion h
theorem tagget (d : BitVec 7) (a : BitVec 7) : Statement (.tagget d a) := fun h => Bool.noConfusion h
theorem scaleset (d : BitVec 7) (sv : BitVec 8) : Statement (.scaleset d sv) := fun h => Bool.noConfusion h
theorem scaleadd (d : BitVec 7) (sv : BitVec 8) : Statement (.scaleadd d sv) := fun h => Bool.noConfusion h
theorem retag (d : BitVec 7) (f : BitVec 5) : Statement (.retag d f) := fun h => Bool.noConfusion h
theorem shfl (d : BitVec 7) (a : BitVec 7) (b : BitVec 7) : Statement (.shfl d a b) := fun h => Bool.noConfusion h
theorem shflx (d : BitVec 7) (a : BitVec 7) (m : BitVec 7) : Statement (.shflx d a m) := fun h => Bool.noConfusion h
theorem shflup (d : BitVec 7) (a : BitVec 7) (n : BitVec 7) : Statement (.shflup d a n) := fun h => Bool.noConfusion h
theorem shfldn (d : BitVec 7) (a : BitVec 7) (n : BitVec 7) : Statement (.shfldn d a n) := fun h => Bool.noConfusion h
theorem bcast (d : BitVec 7) (a : BitVec 7) (l : BitVec 7) : Statement (.bcast d a l) := fun h => Bool.noConfusion h
theorem vote (d : BitVec 7) (a : BitVec 7) (m : BitVec 7) : Statement (.vote d a m) := fun h => Bool.noConfusion h
theorem redadd (d : BitVec 7) (a : BitVec 7) : Statement (.redadd d a) := fun h => Bool.noConfusion h
theorem redmin (d : BitVec 7) (a : BitVec 7) : Statement (.redmin d a) := fun h => Bool.noConfusion h
theorem redmax (d : BitVec 7) (a : BitVec 7) : Statement (.redmax d a) := fun h => Bool.noConfusion h
theorem redfadd (d : BitVec 7) (a : BitVec 7) : Statement (.redfadd d a) := fun h => Bool.noConfusion h
theorem scanadd (d : BitVec 7) (a : BitVec 7) : Statement (.scanadd d a) := fun h => Bool.noConfusion h
theorem first (d : BitVec 7) (a : BitVec 7) : Statement (.first d a) := fun h => Bool.noConfusion h
theorem expr (d : BitVec 7) (a : BitVec 7) (b : BitVec 7) (n : BitVec 4) : Statement (.expr d a b n) := fun h => Bool.noConfusion h
theorem rand (d : BitVec 7) : Statement (.rand d) := fun h => Bool.noConfusion h
theorem randf (d : BitVec 7) : Statement (.randf d) := fun h => Bool.noConfusion h
theorem kadd (d : BitVec 7) (a : BitVec 7) (b : BitVec 7) : Statement (.kadd d a b) := fun h => Bool.noConfusion h
theorem ksub (d : BitVec 7) (a : BitVec 7) (b : BitVec 7) : Statement (.ksub d a b) := fun h => Bool.noConfusion h
theorem kmul (d : BitVec 7) (a : BitVec 7) (b : BitVec 7) : Statement (.kmul d a b) := fun h => Bool.noConfusion h
theorem kand (d : BitVec 7) (a : BitVec 7) (b : BitVec 7) : Statement (.kand d a b) := fun h => Bool.noConfusion h
theorem kor (d : BitVec 7) (a : BitVec 7) (b : BitVec 7) : Statement (.kor d a b) := fun h => Bool.noConfusion h
theorem kxor (d : BitVec 7) (a : BitVec 7) (b : BitVec 7) : Statement (.kxor d a b) := fun h => Bool.noConfusion h
theorem kshl (d : BitVec 7) (a : BitVec 7) (b : BitVec 7) : Statement (.kshl d a b) := fun h => Bool.noConfusion h
theorem kshr (d : BitVec 7) (a : BitVec 7) (b : BitVec 7) : Statement (.kshr d a b) := fun h => Bool.noConfusion h
theorem ksar (d : BitVec 7) (a : BitVec 7) (b : BitVec 7) : Statement (.ksar d a b) := fun h => Bool.noConfusion h
theorem kmin (d : BitVec 7) (a : BitVec 7) (b : BitVec 7) : Statement (.kmin d a b) := fun h => Bool.noConfusion h
theorem kmax (d : BitVec 7) (a : BitVec 7) (b : BitVec 7) : Statement (.kmax d a b) := fun h => Bool.noConfusion h
theorem kminu (d : BitVec 7) (a : BitVec 7) (b : BitVec 7) : Statement (.kminu d a b) := fun h => Bool.noConfusion h
theorem kmaxu (d : BitVec 7) (a : BitVec 7) (b : BitVec 7) : Statement (.kmaxu d a b) := fun h => Bool.noConfusion h
theorem kcmpeq (d : BitVec 7) (a : BitVec 7) (b : BitVec 7) : Statement (.kcmpeq d a b) := fun h => Bool.noConfusion h
theorem kcmplt (d : BitVec 7) (a : BitVec 7) (b : BitVec 7) : Statement (.kcmplt d a b) := fun h => Bool.noConfusion h
theorem kcmpltu (d : BitVec 7) (a : BitVec 7) (b : BitVec 7) : Statement (.kcmpltu d a b) := fun h => Bool.noConfusion h
theorem kaddi (d : BitVec 7) (a : BitVec 7) (imm : BitVec 12) : Statement (.kaddi d a imm) := fun h => Bool.noConfusion h
theorem kmovi (d : BitVec 7) (imm : BitVec 19) : Statement (.kmovi d imm) := fun h => Bool.noConfusion h
theorem kmovhi (d : BitVec 7) (imm : BitVec 19) : Statement (.kmovhi d imm) := fun h => Bool.noConfusion h
theorem movkv (d : BitVec 7) (a : BitVec 7) : Statement (.movkv d a) := fun h => Bool.noConfusion h
theorem movvk (d : BitVec 7) (a : BitVec 7) : Statement (.movvk d a) := fun h => Bool.noConfusion h
theorem mov (d : BitVec 7) (a : BitVec 7) : Statement (.mov d a) := fun h => Bool.noConfusion h
theorem kmov (d : BitVec 7) (a : BitVec 7) : Statement (.kmov d a) := fun h => Bool.noConfusion h
theorem recipe (a : BitVec 7) (n : BitVec 4) : Statement (.recipe a n) := fun h => Bool.noConfusion h
theorem ld (d : BitVec 7) (a : BitVec 7) (f : BitVec 5) (ord : BitVec 2) (c : BitVec 5) : Statement (.ld d a f ord c) := fun h => Bool.noConfusion h
theorem st (d : BitVec 7) (a : BitVec 7) (f : BitVec 5) (ord : BitVec 2) (c : BitVec 5) : Statement (.st d a f ord c) := fun h => Bool.noConfusion h
theorem lds (d : BitVec 7) (a : BitVec 7) (f : BitVec 5) (n : BitVec 2) (c : BitVec 5) : Statement (.lds d a f n c) := fun h => Bool.noConfusion h
theorem sts (d : BitVec 7) (a : BitVec 7) (f : BitVec 5) (n : BitVec 2) (c : BitVec 5) : Statement (.sts d a f n c) := fun h => Bool.noConfusion h
theorem kld (d : BitVec 7) (a : BitVec 7) (f : BitVec 5) (ord : BitVec 2) (c : BitVec 5) : Statement (.kld d a f ord c) := fun h => Bool.noConfusion h
theorem kst (d : BitVec 7) (a : BitVec 7) (f : BitVec 5) (ord : BitVec 2) (c : BitVec 5) : Statement (.kst d a f ord c) := fun h => Bool.noConfusion h
theorem amoAdd (d : BitVec 7) (a : BitVec 7) (b : BitVec 7) (sv : BitVec 2) (ord : BitVec 1) : Statement (.amoAdd d a b sv ord) := fun h => Bool.noConfusion h
theorem amoMin (d : BitVec 7) (a : BitVec 7) (b : BitVec 7) (sv : BitVec 2) (ord : BitVec 1) : Statement (.amoMin d a b sv ord) := fun h => Bool.noConfusion h
theorem amoMax (d : BitVec 7) (a : BitVec 7) (b : BitVec 7) (sv : BitVec 2) (ord : BitVec 1) : Statement (.amoMax d a b sv ord) := fun h => Bool.noConfusion h
theorem amoXchg (d : BitVec 7) (a : BitVec 7) (b : BitVec 7) (sv : BitVec 2) (ord : BitVec 1) : Statement (.amoXchg d a b sv ord) := fun h => Bool.noConfusion h
theorem amoMinu (d : BitVec 7) (a : BitVec 7) (b : BitVec 7) (sv : BitVec 2) (ord : BitVec 1) : Statement (.amoMinu d a b sv ord) := fun h => Bool.noConfusion h
theorem amoMaxu (d : BitVec 7) (a : BitVec 7) (b : BitVec 7) (sv : BitVec 2) (ord : BitVec 1) : Statement (.amoMaxu d a b sv ord) := fun h => Bool.noConfusion h
theorem amoAnd (d : BitVec 7) (a : BitVec 7) (b : BitVec 7) (sv : BitVec 2) (ord : BitVec 1) : Statement (.amoAnd d a b sv ord) := fun h => Bool.noConfusion h
theorem amoOr (d : BitVec 7) (a : BitVec 7) (b : BitVec 7) (sv : BitVec 2) (ord : BitVec 1) : Statement (.amoOr d a b sv ord) := fun h => Bool.noConfusion h
theorem amoXor (d : BitVec 7) (a : BitVec 7) (b : BitVec 7) (sv : BitVec 2) (ord : BitVec 1) : Statement (.amoXor d a b sv ord) := fun h => Bool.noConfusion h
theorem amoIncw (d : BitVec 7) (a : BitVec 7) (b : BitVec 7) (sv : BitVec 2) (ord : BitVec 1) : Statement (.amoIncw d a b sv ord) := fun h => Bool.noConfusion h
theorem amoDecw (d : BitVec 7) (a : BitVec 7) (b : BitVec 7) (sv : BitVec 2) (ord : BitVec 1) : Statement (.amoDecw d a b sv ord) := fun h => Bool.noConfusion h
theorem amoCas (d : BitVec 7) (a : BitVec 7) (b : BitVec 7) (sv : BitVec 2) (ord : BitVec 1) : Statement (.amoCas d a b sv ord) := fun h => Bool.noConfusion h
theorem amoFadd (d : BitVec 7) (a : BitVec 7) (b : BitVec 7) (sv : BitVec 2) (ord : BitVec 1) : Statement (.amoFadd d a b sv ord) := fun h => Bool.noConfusion h
theorem amoFmin (d : BitVec 7) (a : BitVec 7) (b : BitVec 7) (sv : BitVec 2) (ord : BitVec 1) : Statement (.amoFmin d a b sv ord) := fun h => Bool.noConfusion h
theorem amoFmax (d : BitVec 7) (a : BitVec 7) (b : BitVec 7) (sv : BitVec 2) (ord : BitVec 1) : Statement (.amoFmax d a b sv ord) := fun h => Bool.noConfusion h
theorem amoCasc (d : BitVec 7) (a : BitVec 7) (b : BitVec 7) (sv : BitVec 2) (ord : BitVec 1) : Statement (.amoCasc d a b sv ord) := fun h => Bool.noConfusion h
theorem qpush (d : BitVec 7) (a : BitVec 7) (b : BitVec 7) (sv : BitVec 2) (ord : BitVec 1) : Statement (.qpush d a b sv ord) := fun h => Bool.noConfusion h
theorem qpop (d : BitVec 7) (a : BitVec 7) (sv : BitVec 2) (ord : BitVec 1) : Statement (.qpop d a sv ord) := fun h => Bool.noConfusion h
theorem qpeek (d : BitVec 7) (a : BitVec 7) (sv : BitVec 2) (ord : BitVec 1) : Statement (.qpeek d a sv ord) := fun h => Bool.noConfusion h
theorem fence (sv : BitVec 2) (kb : BitVec 2) : Statement (.fence sv kb) := fun h => Bool.noConfusion h
theorem bara (n : BitVec 7) (c : BitVec 1) (b : BitVec 7) : Statement (.bara n c b) := fun h => Bool.noConfusion h
theorem barw (n : BitVec 7) (c : BitVec 1) (b : BitVec 7) : Statement (.barw n c b) := fun h => Bool.noConfusion h
theorem cbar : Statement .cbar := fun h => Bool.noConfusion h
theorem cpyin (d : BitVec 7) (a : BitVec 7) (t : BitVec 1) : Statement (.cpyin d a t) := fun h => Bool.noConfusion h
theorem cpyout (d : BitVec 7) (a : BitVec 7) (t : BitVec 1) : Statement (.cpyout d a t) := fun h => Bool.noConfusion h
theorem cpygath (d : BitVec 7) (a : BitVec 7) (t : BitVec 1) (z : BitVec 2) : Statement (.cpygath d a t z) := fun h => Bool.noConfusion h
theorem cpyscat (d : BitVec 7) (a : BitVec 7) (t : BitVec 1) (z : BitVec 2) : Statement (.cpyscat d a t z) := fun h => Bool.noConfusion h
theorem cpyring (d : BitVec 7) (a : BitVec 7) (r : BitVec 7) : Statement (.cpyring d a r) := fun h => Bool.noConfusion h
theorem pref (a : BitVec 7) (l : BitVec 1) : Statement (.pref a l) := fun h => Bool.noConfusion h
theorem rinit (a : BitVec 7) (r : BitVec 7) : Statement (.rinit a r) := fun h => Bool.noConfusion h
theorem racq (d : BitVec 7) (r : BitVec 7) : Statement (.racq d r) := fun h => Bool.noConfusion h
theorem rpub (a : BitVec 7) (r : BitVec 7) : Statement (.rpub a r) := fun h => Bool.noConfusion h
theorem rget (d : BitVec 7) (r : BitVec 7) : Statement (.rget d r) := fun h => Bool.noConfusion h
theorem rrel (a : BitVec 7) (r : BitVec 7) : Statement (.rrel a r) := fun h => Bool.noConfusion h
theorem rstat (d : BitVec 7) (r : BitVec 7) : Statement (.rstat d r) := fun h => Bool.noConfusion h
theorem kvalloc (d : BitVec 7) (a : BitVec 7) : Statement (.kvalloc d a) := fun h => Bool.noConfusion h
theorem kvfree (d : BitVec 7) (a : BitVec 7) : Statement (.kvfree d a) := fun h => Bool.noConfusion h
theorem kvshare (d : BitVec 7) (a : BitVec 7) (b : BitVec 7) : Statement (.kvshare d a b) := fun h => Bool.noConfusion h
theorem kvld (d : BitVec 7) (a : BitVec 7) (b : BitVec 7) : Statement (.kvld d a b) := fun h => Bool.noConfusion h
theorem kvst (d : BitVec 7) (a : BitVec 7) (b : BitVec 7) : Statement (.kvst d a b) := fun h => Bool.noConfusion h
theorem kvmap (d : BitVec 7) (a : BitVec 7) : Statement (.kvmap d a) := fun h => Bool.noConfusion h
theorem kvstat (d : BitVec 7) : Statement (.kvstat d) := fun h => Bool.noConfusion h
theorem cbopen (d : BitVec 7) (a : BitVec 7) (w : BitVec 1) : Statement (.cbopen d a w) := fun h => Bool.noConfusion h
theorem cbput (d : BitVec 7) (a : BitVec 7) (sv : BitVec 1) : Statement (.cbput d a sv) := fun h => Bool.noConfusion h
theorem cbclose (a : BitVec 7) : Statement (.cbclose a) := fun h => Bool.noConfusion h
theorem cbstat (d : BitVec 7) (a : BitVec 7) : Statement (.cbstat d a) := fun h => Bool.noConfusion h
theorem enqt (d : BitVec 7) (a : BitVec 7) (b : BitVec 7) : Statement (.enqt d a b) := fun h => Bool.noConfusion h
theorem enqtn (d : BitVec 7) (a : BitVec 7) (b : BitVec 7) : Statement (.enqtn d a b) := fun h => Bool.noConfusion h
theorem trace (d : BitVec 7) (a : BitVec 7) (b : BitVec 7) : Statement (.trace d a b) := fun h => Bool.noConfusion h
theorem traceq (d : BitVec 7) (a : BitVec 7) (b : BitVec 7) : Statement (.traceq d a b) := fun h => Bool.noConfusion h
theorem rquery (d : BitVec 7) (imm : BitVec 7) : Statement (.rquery d imm) := fun h => Bool.noConfusion h
theorem mma (d : BitVec 6) (a : BitVec 7) (g : BitVec 4) (sv : BitVec 3) (r : BitVec 1) : Statement (.mma d a g sv r) := fun h => Bool.noConfusion h
theorem mman (d : BitVec 6) (a : BitVec 7) (g : BitVec 4) (sv : BitVec 3) (r : BitVec 1) : Statement (.mman d a g sv r) := fun h => Bool.noConfusion h
theorem mmas (d : BitVec 6) (a : BitVec 7) (g : BitVec 4) (sv : BitVec 3) (r : BitVec 1) : Statement (.mmas d a g sv r) := fun h => Bool.noConfusion h
theorem gang (d : BitVec 7) (a : BitVec 7) : Statement (.gang d a) := fun h => Bool.noConfusion h
theorem accz (d : BitVec 7) (f : BitVec 5) (sv : BitVec 8) : Statement (.accz d f sv) := fun h => Bool.noConfusion h
theorem accld (d : BitVec 7) (a : BitVec 7) (f : BitVec 5) : Statement (.accld d a f) := fun h => Bool.noConfusion h
theorem accst (d : BitVec 7) (a : BitVec 7) : Statement (.accst d a) := fun h => Bool.noConfusion h
theorem accrd (d : BitVec 7) (a : BitVec 7) (t : BitVec 1) (sv : BitVec 1) (c : BitVec 5) : Statement (.accrd d a t sv c) := fun h => Bool.noConfusion h
theorem strmopen (d : BitVec 7) (a : BitVec 7) : Statement (.strmopen d a) := fun h => Bool.noConfusion h
theorem strmclose (d : BitVec 7) : Statement (.strmclose d) := fun h => Bool.noConfusion h
theorem strmstat (d : BitVec 7) (sv : BitVec 3) : Statement (.strmstat d sv) := fun h => Bool.noConfusion h
theorem brid (d : BitVec 7) : Statement (.brid d) := fun h => Bool.noConfusion h
theorem vstat (d : BitVec 7) : Statement (.vstat d) := fun h => Bool.noConfusion h
theorem commit (d : BitVec 7) (a : BitVec 7) : Statement (.commit d a) := fun h => Bool.noConfusion h
theorem squash (d : BitVec 7) (a : BitVec 7) : Statement (.squash d a) := fun h => Bool.noConfusion h
theorem flipq (d : BitVec 7) (a : BitVec 7) : Statement (.flipq d a) := fun h => Bool.noConfusion h
theorem vdrop (a : BitVec 7) (b : BitVec 7) : Statement (.vdrop a b) := fun h => Bool.noConfusion h
theorem getsr (d : BitVec 7) (a : BitVec 7) : Statement (.getsr d a) := fun h => Bool.noConfusion h
theorem setsr (d : BitVec 7) (a : BitVec 7) : Statement (.setsr d a) := fun h => Bool.noConfusion h
theorem cache (a : BitVec 7) (ord : BitVec 2) : Statement (.cache a ord) := fun h => Bool.noConfusion h
theorem perf (d : BitVec 7) (imm : BitVec 7) : Statement (.perf d imm) := fun h => Bool.noConfusion h
theorem clock (d : BitVec 7) : Statement (.clock d) := fun h => Bool.noConfusion h
theorem digest (a : BitVec 7) : Statement (.digest a) := fun h => Bool.noConfusion h
theorem loopi (c : BitVec 2) (n : BitVec 11) (l : BitVec 8) : Statement (.loopi c n l) := fun h => Bool.noConfusion h
theorem loop (c : BitVec 2) (a : BitVec 7) (l : BitVec 8) : Statement (.loop c a l) := fun h => Bool.noConfusion h
theorem br (off : BitVec 19) : Statement (.br off) := fun h => Bool.noConfusion h
theorem brz (a : BitVec 7) (off : BitVec 19) : Statement (.brz a off) := fun h => Bool.noConfusion h
theorem brnz (a : BitVec 7) (off : BitVec 19) : Statement (.brnz a off) := fun h => Bool.noConfusion h
theorem kbrz (a : BitVec 7) (off : BitVec 19) : Statement (.kbrz a off) := fun h => Bool.noConfusion h
theorem kbrnz (a : BitVec 7) (off : BitVec 19) : Statement (.kbrnz a off) := fun h => Bool.noConfusion h
theorem call (n : BitVec 7) (off : BitVec 19) : Statement (.call n off) := fun h => Bool.noConfusion h
theorem ret : Statement .ret := fun h => Bool.noConfusion h
theorem jmpv (a : BitVec 7) : Statement (.jmpv a) := fun h => Bool.noConfusion h
theorem callv (a : BitVec 7) (n : BitVec 7) : Statement (.callv a n) := fun h => Bool.noConfusion h
theorem exit : Statement .exit := fun h => Bool.noConfusion h
theorem wslide (sv : BitVec 7) : Statement (.wslide sv) := fun h => Bool.noConfusion h
theorem yield : Statement .yield := fun h => Bool.noConfusion h
theorem nop : Statement .nop := fun h => Bool.noConfusion h
theorem trap (n : BitVec 7) : Statement (.trap n) := fun h => Bool.noConfusion h
theorem rft (c : BitVec 1) : Statement (.rft c) := fun h => Bool.noConfusion h
theorem waitf (m : BitVec 7) (m2 : BitVec 5) : Statement (.waitf m m2) := fun h => Bool.noConfusion h
theorem waitc (n : BitVec 7) (c : BitVec 3) : Statement (.waitc n c) := fun h => Bool.noConfusion h
theorem sleep (n : BitVec 14) : Statement (.sleep n) := fun h => Bool.noConfusion h
theorem runHeader (len : BitVec 5) (wait : BitVec 12) (sf1 : BitVec 4) (sf2 : BitVec 4) (opn : BitVec 1) : Statement (.runHeader len wait sf1 sf2 opn) := fun h => Bool.noConfusion h
theorem deviceReset : Statement .deviceReset := fun _ => ⟨rfl, rfl⟩
theorem bootVerify (sigOk : Bool) (version : Nat) (minVersion : Nat) (image : List Byte) (display : List Byte) (fuses : List Byte) : Statement (.bootVerify sigOk version minVersion image display fuses) := fun _ => ⟨rfl, rfl⟩
theorem queueEnable (q : Nat) : Statement (.queueEnable q) := fun _ => ⟨rfl, rfl⟩
theorem queueDisable (q : Nat) : Statement (.queueDisable q) := fun _ => ⟨rfl, rfl⟩
theorem writeIndexUpdate (q : Nat) : Statement (.writeIndexUpdate q) := fun _ => ⟨rfl, rfl⟩
theorem nopPacket (q : Nat) : Statement (.nopPacket q) := fun _ => ⟨rfl, rfl⟩
theorem launch (q : Nat) : Statement (.launch q) := fun _ => ⟨rfl, rfl⟩
theorem launchAccept (q : Nat) : Statement (.launchAccept q) := fun _ => ⟨rfl, rfl⟩
theorem fencePacket (q : Nat) : Statement (.fencePacket q) := fun _ => ⟨rfl, rfl⟩
theorem fenceEvaluation (q : Nat) : Statement (.fenceEvaluation q) := fun _ => ⟨rfl, rfl⟩
theorem signalSet (q : Nat) : Statement (.signalSet q) := fun _ => ⟨rfl, rfl⟩
theorem signalAdd (q : Nat) : Statement (.signalAdd q) := fun _ => ⟨rfl, rfl⟩
theorem signalDec (q : Nat) : Statement (.signalDec q) := fun _ => ⟨rfl, rfl⟩
theorem fork (q : Nat) : Statement (.fork q) := fun _ => ⟨rfl, rfl⟩
theorem forkProceed (q : Nat) : Statement (.forkProceed q) := fun _ => ⟨rfl, rfl⟩
theorem commitPacket (q : Nat) : Statement (.commitPacket q) := fun _ => ⟨rfl, rfl⟩
theorem squashPacket (q : Nat) : Statement (.squashPacket q) := fun _ => ⟨rfl, rfl⟩
theorem flip (q : Nat) : Statement (.flip q) := fun _ => ⟨rfl, rfl⟩
theorem flipQueueAdmit (q : Nat) : Statement (.flipQueueAdmit q) := fun _ => ⟨rfl, rfl⟩
theorem copy (q : Nat) : Statement (.copy q) := fun _ => ⟨rfl, rfl⟩
theorem copyFill (q : Nat) : Statement (.copyFill q) := fun _ => ⟨rfl, rfl⟩
theorem copyStop (c : Nat) : Statement (.copyStop c) := fun _ => ⟨rfl, rfl⟩
theorem copyRetire (c : Nat) : Statement (.copyRetire c) := fun _ => ⟨rfl, rfl⟩
theorem timestamp (q : Nat) : Statement (.timestamp q) := fun _ => ⟨rfl, rfl⟩
theorem deadline (q : Nat) : Statement (.deadline q) := fun _ => ⟨rfl, rfl⟩
theorem deadlineFire (q : Nat) : Statement (.deadlineFire q) := fun _ => ⟨rfl, rfl⟩
theorem serialWaitEnd (q : Nat) : Statement (.serialWaitEnd q) := fun _ => ⟨rfl, rfl⟩
theorem teamDispatch (l : Nat) : Statement (.teamDispatch l) := fun _ => ⟨rfl, rfl⟩
theorem clusterGroupDispatch (l : Nat) : Statement (.clusterGroupDispatch l) := fun _ => ⟨rfl, rfl⟩
theorem jigFormWave (col : Nat) (task : Nat) : Statement (.jigFormWave col task) := fun _ => ⟨rfl, rfl⟩
theorem jigTimeout (col : Nat) (task : Nat) : Statement (.jigTimeout col task) := fun _ => ⟨rfl, rfl⟩
theorem jigDetPartialWave (col : Nat) (task : Nat) : Statement (.jigDetPartialWave col task) := fun _ => ⟨rfl, rfl⟩
theorem taskWavePlace (f : Nat) : Statement (.taskWavePlace f) := fun _ => ⟨rfl, rfl⟩
theorem continuationToPool (slice : Nat) : Statement (.continuationToPool slice) := fun _ => ⟨rfl, rfl⟩
theorem traceqTaskHandoff (core : Nat) : Statement (.traceqTaskHandoff core) := fun _ => ⟨rfl, rfl⟩
theorem cbReleaseTaskHandoff (g : Nat) : Statement (.cbReleaseTaskHandoff g) := fun _ => ⟨rfl, rfl⟩
theorem launchRetire (l : Nat) : Statement (.launchRetire l) := fun _ => ⟨rfl, rfl⟩
theorem runGrant (w : Nat) : Statement (.runGrant w) := fun _ => ⟨rfl, rfl⟩
theorem runRaise (w : Nat) : Statement (.runRaise w) := fun _ => ⟨rfl, rfl⟩
theorem sleepEnd (w : Nat) : Statement (.sleepEnd w) := fun _ => ⟨rfl, rfl⟩
theorem loadReturn (w : Nat) (p : Nat) : Statement (.loadReturn w p) := fun _ => ⟨rfl, rfl⟩
theorem variableLatencyComplete (w : Nat) (p : Nat) : Statement (.variableLatencyComplete w p) := fun _ => ⟨rfl, rfl⟩
theorem storePerform (w : Nat) (p : Nat) : Statement (.storePerform w p) := fun _ => ⟨rfl, rfl⟩
theorem atomicPerform (w : Nat) (p : Nat) : Statement (.atomicPerform w p) := fun _ => ⟨rfl, rfl⟩
theorem queueOpPerform (w : Nat) (p : Nat) : Statement (.queueOpPerform w p) := fun _ => ⟨rfl, rfl⟩
theorem cascPerform (w : Nat) (p : Nat) (lane : Nat) : Statement (.cascPerform w p lane) := fun _ => ⟨rfl, rfl⟩
theorem cascRefusal (w : Nat) (p : Nat) (lane : Nat) : Statement (.cascRefusal w p lane) := fun _ => ⟨rfl, rfl⟩
theorem blockStoreNameOpPerform (w : Nat) (p : Nat) : Statement (.blockStoreNameOpPerform w p) := fun _ => ⟨rfl, rfl⟩
theorem copyEngineComplete (b : Nat) : Statement (.copyEngineComplete b) := fun _ => ⟨rfl, rfl⟩
theorem copyEngineFault (b : Nat) : Statement (.copyEngineFault b) := fun _ => ⟨rfl, rfl⟩
theorem cpyringSlotAcquire (b : Nat) : Statement (.cpyringSlotAcquire b) := fun _ => ⟨rfl, rfl⟩
theorem cpyringSlotPublish (b : Nat) : Statement (.cpyringSlotPublish b) := fun _ => ⟨rfl, rfl⟩
theorem copyDrainTimeout (g : Nat) : Statement (.copyDrainTimeout g) := fun _ => ⟨rfl, rfl⟩
theorem rayEnd (r : Nat) : Statement (.rayEnd r) := fun _ => ⟨rfl, rfl⟩
theorem jointOpReserve (g : Nat) (gang : Nat) : Statement (.jointOpReserve g gang) := fun _ => ⟨rfl, rfl⟩
theorem matrixGrant (e : Nat) : Statement (.matrixGrant e) := fun _ => ⟨rfl, rfl⟩
theorem matrixEntryRaise (e : Nat) : Statement (.matrixEntryRaise e) := fun _ => ⟨rfl, rfl⟩
theorem matrixPassComplete (e : Nat) : Statement (.matrixPassComplete e) := fun _ => ⟨rfl, rfl⟩
theorem accOpComplete (e : Nat) : Statement (.accOpComplete e) := fun _ => ⟨rfl, rfl⟩
theorem gangWatchdog (g : Nat) (gang : Nat) : Statement (.gangWatchdog g gang) := fun _ => ⟨rfl, rfl⟩
theorem cbMoveComplete (m : Nat) : Statement (.cbMoveComplete m) := fun _ => ⟨rfl, rfl⟩
theorem cbDeadline (g : Nat) : Statement (.cbDeadline g) := fun _ => ⟨rfl, rfl⟩
theorem cbopenWaitGrant (w : Nat) : Statement (.cbopenWaitGrant w) := fun _ => ⟨rfl, rfl⟩
theorem enqtAccept (w : Nat) : Statement (.enqtAccept w) := fun _ => ⟨rfl, rfl⟩
theorem commitQuiescent (byQueue : Bool) (n : Nat) : Statement (.commitQuiescent byQueue n) := fun _ => ⟨rfl, rfl⟩
theorem scrub (line : Nat) : Statement (.scrub line) := fun _ => ⟨rfl, rfl⟩
theorem waveRetire (w : Nat) : Statement (.waveRetire w) := fun _ => ⟨rfl, rfl⟩
theorem trapEntry (w : Nat) : Statement (.trapEntry w) := fun _ => ⟨rfl, rfl⟩
theorem unitSave (g : Nat) : Statement (.unitSave g) := fun _ => ⟨rfl, rfl⟩
theorem unitRestore (g : Nat) : Statement (.unitRestore g) := fun _ => ⟨rfl, rfl⟩
theorem pageWalk (dom : Nat) (va : Nat) : Statement (.pageWalk dom va) := fun _ => ⟨rfl, rfl⟩
theorem faultRecordPost (r : Nat) : Statement (.faultRecordPost r) := fun _ => ⟨rfl, rfl⟩
theorem faultReplay (r : Nat) : Statement (.faultReplay r) := fun _ => ⟨rfl, rfl⟩
theorem faultCancel (r : Nat) : Statement (.faultCancel r) := fun _ => ⟨rfl, rfl⟩
theorem tlbinvRange (v : DWord) : Statement (.tlbinvRange v) := fun _ => ⟨rfl, rfl⟩
theorem tlbinvDomain (v : DWord) : Statement (.tlbinvDomain v) := fun _ => ⟨rfl, rfl⟩
theorem tlbinvAll (v : DWord) : Statement (.tlbinvAll v) := fun _ => ⟨rfl, rfl⟩
theorem tlbinvDone : Statement .tlbinvDone := fun _ => ⟨rfl, rfl⟩
theorem lineMove (line : Nat) (slice : Nat) : Statement (.lineMove line slice) := fun _ => ⟨rfl, rfl⟩
theorem checkRetry (site : Nat × Nat) (x : Nat) (y : Nat) (z : Nat) (pass : Bool) : Statement (.checkRetry site x y z pass) := fun _ => ⟨rfl, rfl⟩
theorem hostMemRead (dec : Nat) (addr : Nat) (n : Nat) : Statement (.hostMemRead dec addr n) := fun _ => ⟨rfl, rfl⟩
theorem hostMemWrite (dec : Nat) (addr : Nat) (bytes : List Byte) : Statement (.hostMemWrite dec addr bytes) := fun _ => ⟨rfl, rfl⟩
theorem peerAccess (op : Nat) (mt : Nat) (addr : Nat) (bytes : List Byte) : Statement (.peerAccess op mt addr bytes) := fun _ => ⟨rfl, rfl⟩
theorem headEnable (h : Nat) : Statement (.headEnable h) := fun _ => ⟨rfl, rfl⟩
theorem headDisable (h : Nat) : Statement (.headDisable h) := fun _ => ⟨rfl, rfl⟩
theorem vblank (h : Nat) : Statement (.vblank h) := fun _ => ⟨rfl, rfl⟩
theorem powerArbiterTick (boardPower : Nat) (grants : List Nat) (steps : List Nat) : Statement (.powerArbiterTick boardPower grants steps) := fun _ => ⟨rfl, rfl⟩
theorem columnOverheat (c : Nat) : Statement (.columnOverheat c) := fun _ => ⟨rfl, rfl⟩
theorem columnCool (c : Nat) : Statement (.columnCool c) := fun _ => ⟨rfl, rfl⟩
theorem columnIdle (c : Nat) : Statement (.columnIdle c) := fun _ => ⟨rfl, rfl⟩
theorem columnOff (c : Nat) : Statement (.columnOff c) := fun _ => ⟨rfl, rfl⟩
theorem columnWake (c : Nat) : Statement (.columnWake c) := fun _ => ⟨rfl, rfl⟩
theorem d3hotEntry : Statement .d3hotEntry := fun _ => ⟨rfl, rfl⟩
theorem d0Return : Statement .d0Return := fun _ => ⟨rfl, rfl⟩
theorem d3cold : Statement .d3cold := fun _ => ⟨rfl, rfl⟩
theorem measurementExtend (v : DWord) : Statement (.measurementExtend v) := fun _ => ⟨rfl, rfl⟩
theorem extendDone : Statement .extendDone := fun _ => ⟨rfl, rfl⟩
theorem attestationRequest (v : DWord) : Statement (.attestationRequest v) := fun _ => ⟨rfl, rfl⟩
theorem attestationDone : Statement .attestationDone := fun _ => ⟨rfl, rfl⟩
theorem preemptSuspend (v : DWord) : Statement (.preemptSuspend v) := fun _ => ⟨rfl, rfl⟩
theorem preemptResume (v : DWord) : Statement (.preemptResume v) := fun _ => ⟨rfl, rfl⟩
theorem qtbaseWrite (v : DWord) : Statement (.qtbaseWrite v) := fun _ => ⟨rfl, rfl⟩
theorem domtbaseWrite (v : DWord) : Statement (.domtbaseWrite v) := fun _ => ⟨rfl, rfl⟩
theorem sramcfgWrite (v : DWord) : Statement (.sramcfgWrite v) := fun _ => ⟨rfl, rfl⟩
theorem kvcfgWrite (v : DWord) : Statement (.kvcfgWrite v) := fun _ => ⟨rfl, rfl⟩
theorem ctxPoolWrite (size : Bool) (v : DWord) : Statement (.ctxPoolWrite size v) := fun _ => ⟨rfl, rfl⟩
theorem partcfgWrite (v : DWord) : Statement (.partcfgWrite v) := fun _ => ⟨rfl, rfl⟩
theorem partqWrite (hi : Bool) (v : DWord) : Statement (.partqWrite hi v) := fun _ => ⟨rfl, rfl⟩
theorem peermapWrite (n : Nat) (v : DWord) : Statement (.peermapWrite n v) := fun _ => ⟨rfl, rfl⟩
theorem headConfigWrite (h : Nat) (reg : Nat) (v : DWord) : Statement (.headConfigWrite h reg v) := fun _ => ⟨rfl, rfl⟩
theorem powerLimitWrite (v : DWord) : Statement (.powerLimitWrite v) := fun _ => ⟨rfl, rfl⟩
theorem lostClear : Statement .lostClear := fun _ => ⟨rfl, rfl⟩
theorem registerWrite (off : Nat) (v : DWord) : Statement (.registerWrite off v) := fun _ => ⟨rfl, rfl⟩
theorem inletPowerReport (v : Nat) : Statement (.inletPowerReport v) := fun _ => ⟨rfl, rfl⟩

end Sys2Proof.Laws.DeviceSteps
end

