-- ==== Sys2Proof/Laws/State.lean ====
section
/-!
SUPPORT. What each update of the state's record changes and leaves: one lemma per field and update, all by rfl.
-/

namespace Sys2Proof.Machine

@[simp] theorem State.setWave_mem (s : State) (w : Wave) : (s.setWave w).mem = s.mem := rfl
@[simp] theorem State.setWave_poison (s : State) (w : Wave) : (s.setWave w).poison = s.poison := rfl
@[simp] theorem State.setWave_badCopies (s : State) (w : Wave) : (s.setWave w).badCopies = s.badCopies := rfl
@[simp] theorem State.setWave_versions (s : State) (w : Wave) : (s.setWave w).versions = s.versions := rfl
@[simp] theorem State.setWave_tlb (s : State) (w : Wave) : (s.setWave w).tlb = s.tlb := rfl
@[simp] theorem State.setWave_moved (s : State) (w : Wave) : (s.setWave w).moved = s.moved := rfl
@[simp] theorem State.setWave_hostLines (s : State) (w : Wave) : (s.setWave w).hostLines = s.hostLines := rfl
@[simp] theorem State.setWave_tagStates (s : State) (w : Wave) : (s.setWave w).tagStates = s.tagStates := rfl
@[simp] theorem State.setWave_sets (s : State) (w : Wave) : (s.setWave w).sets = s.sets := rfl
@[simp] theorem State.setWave_queues (s : State) (w : Wave) : (s.setWave w).queues = s.queues := rfl
@[simp] theorem State.setWave_packetCopies (s : State) (w : Wave) : (s.setWave w).packetCopies = s.packetCopies := rfl
@[simp] theorem State.setWave_launches (s : State) (w : Wave) : (s.setWave w).launches = s.launches := rfl
@[simp] theorem State.setWave_grps (s : State) (w : Wave) : (s.setWave w).grps = s.grps := rfl
@[simp] theorem State.setWave_teams (s : State) (w : Wave) : (s.setWave w).teams = s.teams := rfl
@[simp] theorem State.setWave_waves (s : State) (w : Wave) : (s.setWave w).waves = tset s.waves w.uid w := rfl
@[simp] theorem State.setWave_resv (s : State) (w : Wave) : (s.setWave w).resv = s.resv := rfl
@[simp] theorem State.setWave_bulk (s : State) (w : Wave) : (s.setWave w).bulk = s.bulk := rfl
@[simp] theorem State.setWave_eng (s : State) (w : Wave) : (s.setWave w).eng = s.eng := rfl
@[simp] theorem State.setWave_rays (s : State) (w : Wave) : (s.setWave w).rays = s.rays := rfl
@[simp] theorem State.setWave_rayCounts (s : State) (w : Wave) : (s.setWave w).rayCounts = s.rayCounts := rfl
@[simp] theorem State.setWave_pool (s : State) (w : Wave) : (s.setWave w).pool = s.pool := rfl
@[simp] theorem State.setWave_formed (s : State) (w : Wave) : (s.setWave w).formed = s.formed := rfl
@[simp] theorem State.setWave_heldTasks (s : State) (w : Wave) : (s.setWave w).heldTasks = s.heldTasks := rfl
@[simp] theorem State.setWave_faults (s : State) (w : Wave) : (s.setWave w).faults = s.faults := rfl
@[simp] theorem State.setWave_devWrites (s : State) (w : Wave) : (s.setWave w).devWrites = s.devWrites := rfl
@[simp] theorem State.setWave_waiters (s : State) (w : Wave) : (s.setWave w).waiters = s.waiters := rfl
@[simp] theorem State.setWave_kvBlocks (s : State) (w : Wave) : (s.setWave w).kvBlocks = s.kvBlocks := rfl
@[simp] theorem State.setWave_kvNames (s : State) (w : Wave) : (s.setWave w).kvNames = s.kvNames := rfl
@[simp] theorem State.setWave_groups (s : State) (w : Wave) : (s.setWave w).groups = s.groups := rfl
@[simp] theorem State.setWave_generations (s : State) (w : Wave) : (s.setWave w).generations = s.generations := rfl
@[simp] theorem State.setWave_cbWaiters (s : State) (w : Wave) : (s.setWave w).cbWaiters = s.cbWaiters := rfl
@[simp] theorem State.setWave_moves (s : State) (w : Wave) : (s.setWave w).moves = s.moves := rfl
@[simp] theorem State.setWave_heads (s : State) (w : Wave) : (s.setWave w).heads = s.heads := rfl
@[simp] theorem State.setWave_columns (s : State) (w : Wave) : (s.setWave w).columns = s.columns := rfl
@[simp] theorem State.setWave_regs (s : State) (w : Wave) : (s.setWave w).regs = s.regs := rfl
@[simp] theorem State.setWave_measure (s : State) (w : Wave) : (s.setWave w).measure = s.measure := rfl
@[simp] theorem State.setWave_errSeq (s : State) (w : Wave) : (s.setWave w).errSeq = s.errSeq := rfl
@[simp] theorem State.setWave_hostRead (s : State) (w : Wave) : (s.setWave w).hostRead = s.hostRead := rfl
@[simp] theorem State.setWave_hostReadPoison (s : State) (w : Wave) : (s.setWave w).hostReadPoison = s.hostReadPoison := rfl
@[simp] theorem State.setWave_dev (s : State) (w : Wave) : (s.setWave w).dev = s.dev := rfl
@[simp] theorem State.setWave_everEnabled (s : State) (w : Wave) : (s.setWave w).everEnabled = s.everEnabled := rfl
@[simp] theorem State.setWave_ns (s : State) (w : Wave) : (s.setWave w).ns = s.ns := rfl
@[simp] theorem State.setWave_cur (s : State) (w : Wave) : (s.setWave w).cur = s.cur := rfl
@[simp] theorem State.setWave_nextId (s : State) (w : Wave) : (s.setWave w).nextId = s.nextId := rfl
@[simp] theorem State.setWave_free (s : State) (w : Wave) : (s.setWave w).free = s.free := rfl
@[simp] theorem State.setWave_noRoom (s : State) (w : Wave) : (s.setWave w).noRoom = s.noRoom := rfl
@[simp] theorem State.setWave_turns (s : State) (w : Wave) : (s.setWave w).turns = s.turns := rfl
@[simp] theorem State.setWave_fuses (s : State) (w : Wave) : (s.setWave w).fuses = s.fuses := rfl
@[simp] theorem State.setWave_inputs (s : State) (w : Wave) : (s.setWave w).inputs = s.inputs := rfl
@[simp] theorem State.modWave_mem (s : State) (n : Nat) (f : Wave → Wave) : (s.modWave n f).mem = s.mem := rfl
@[simp] theorem State.modWave_poison (s : State) (n : Nat) (f : Wave → Wave) : (s.modWave n f).poison = s.poison := rfl
@[simp] theorem State.modWave_badCopies (s : State) (n : Nat) (f : Wave → Wave) : (s.modWave n f).badCopies = s.badCopies := rfl
@[simp] theorem State.modWave_versions (s : State) (n : Nat) (f : Wave → Wave) : (s.modWave n f).versions = s.versions := rfl
@[simp] theorem State.modWave_tlb (s : State) (n : Nat) (f : Wave → Wave) : (s.modWave n f).tlb = s.tlb := rfl
@[simp] theorem State.modWave_moved (s : State) (n : Nat) (f : Wave → Wave) : (s.modWave n f).moved = s.moved := rfl
@[simp] theorem State.modWave_hostLines (s : State) (n : Nat) (f : Wave → Wave) : (s.modWave n f).hostLines = s.hostLines := rfl
@[simp] theorem State.modWave_tagStates (s : State) (n : Nat) (f : Wave → Wave) : (s.modWave n f).tagStates = s.tagStates := rfl
@[simp] theorem State.modWave_sets (s : State) (n : Nat) (f : Wave → Wave) : (s.modWave n f).sets = s.sets := rfl
@[simp] theorem State.modWave_queues (s : State) (n : Nat) (f : Wave → Wave) : (s.modWave n f).queues = s.queues := rfl
@[simp] theorem State.modWave_packetCopies (s : State) (n : Nat) (f : Wave → Wave) : (s.modWave n f).packetCopies = s.packetCopies := rfl
@[simp] theorem State.modWave_launches (s : State) (n : Nat) (f : Wave → Wave) : (s.modWave n f).launches = s.launches := rfl
@[simp] theorem State.modWave_grps (s : State) (n : Nat) (f : Wave → Wave) : (s.modWave n f).grps = s.grps := rfl
@[simp] theorem State.modWave_teams (s : State) (n : Nat) (f : Wave → Wave) : (s.modWave n f).teams = s.teams := rfl
@[simp] theorem State.modWave_waves (s : State) (n : Nat) (f : Wave → Wave) : (s.modWave n f).waves = tmod s.waves n f := rfl
@[simp] theorem State.modWave_resv (s : State) (n : Nat) (f : Wave → Wave) : (s.modWave n f).resv = s.resv := rfl
@[simp] theorem State.modWave_bulk (s : State) (n : Nat) (f : Wave → Wave) : (s.modWave n f).bulk = s.bulk := rfl
@[simp] theorem State.modWave_eng (s : State) (n : Nat) (f : Wave → Wave) : (s.modWave n f).eng = s.eng := rfl
@[simp] theorem State.modWave_rays (s : State) (n : Nat) (f : Wave → Wave) : (s.modWave n f).rays = s.rays := rfl
@[simp] theorem State.modWave_rayCounts (s : State) (n : Nat) (f : Wave → Wave) : (s.modWave n f).rayCounts = s.rayCounts := rfl
@[simp] theorem State.modWave_pool (s : State) (n : Nat) (f : Wave → Wave) : (s.modWave n f).pool = s.pool := rfl
@[simp] theorem State.modWave_formed (s : State) (n : Nat) (f : Wave → Wave) : (s.modWave n f).formed = s.formed := rfl
@[simp] theorem State.modWave_heldTasks (s : State) (n : Nat) (f : Wave → Wave) : (s.modWave n f).heldTasks = s.heldTasks := rfl
@[simp] theorem State.modWave_faults (s : State) (n : Nat) (f : Wave → Wave) : (s.modWave n f).faults = s.faults := rfl
@[simp] theorem State.modWave_devWrites (s : State) (n : Nat) (f : Wave → Wave) : (s.modWave n f).devWrites = s.devWrites := rfl
@[simp] theorem State.modWave_waiters (s : State) (n : Nat) (f : Wave → Wave) : (s.modWave n f).waiters = s.waiters := rfl
@[simp] theorem State.modWave_kvBlocks (s : State) (n : Nat) (f : Wave → Wave) : (s.modWave n f).kvBlocks = s.kvBlocks := rfl
@[simp] theorem State.modWave_kvNames (s : State) (n : Nat) (f : Wave → Wave) : (s.modWave n f).kvNames = s.kvNames := rfl
@[simp] theorem State.modWave_groups (s : State) (n : Nat) (f : Wave → Wave) : (s.modWave n f).groups = s.groups := rfl
@[simp] theorem State.modWave_generations (s : State) (n : Nat) (f : Wave → Wave) : (s.modWave n f).generations = s.generations := rfl
@[simp] theorem State.modWave_cbWaiters (s : State) (n : Nat) (f : Wave → Wave) : (s.modWave n f).cbWaiters = s.cbWaiters := rfl
@[simp] theorem State.modWave_moves (s : State) (n : Nat) (f : Wave → Wave) : (s.modWave n f).moves = s.moves := rfl
@[simp] theorem State.modWave_heads (s : State) (n : Nat) (f : Wave → Wave) : (s.modWave n f).heads = s.heads := rfl
@[simp] theorem State.modWave_columns (s : State) (n : Nat) (f : Wave → Wave) : (s.modWave n f).columns = s.columns := rfl
@[simp] theorem State.modWave_regs (s : State) (n : Nat) (f : Wave → Wave) : (s.modWave n f).regs = s.regs := rfl
@[simp] theorem State.modWave_measure (s : State) (n : Nat) (f : Wave → Wave) : (s.modWave n f).measure = s.measure := rfl
@[simp] theorem State.modWave_errSeq (s : State) (n : Nat) (f : Wave → Wave) : (s.modWave n f).errSeq = s.errSeq := rfl
@[simp] theorem State.modWave_hostRead (s : State) (n : Nat) (f : Wave → Wave) : (s.modWave n f).hostRead = s.hostRead := rfl
@[simp] theorem State.modWave_hostReadPoison (s : State) (n : Nat) (f : Wave → Wave) : (s.modWave n f).hostReadPoison = s.hostReadPoison := rfl
@[simp] theorem State.modWave_dev (s : State) (n : Nat) (f : Wave → Wave) : (s.modWave n f).dev = s.dev := rfl
@[simp] theorem State.modWave_everEnabled (s : State) (n : Nat) (f : Wave → Wave) : (s.modWave n f).everEnabled = s.everEnabled := rfl
@[simp] theorem State.modWave_ns (s : State) (n : Nat) (f : Wave → Wave) : (s.modWave n f).ns = s.ns := rfl
@[simp] theorem State.modWave_cur (s : State) (n : Nat) (f : Wave → Wave) : (s.modWave n f).cur = s.cur := rfl
@[simp] theorem State.modWave_nextId (s : State) (n : Nat) (f : Wave → Wave) : (s.modWave n f).nextId = s.nextId := rfl
@[simp] theorem State.modWave_free (s : State) (n : Nat) (f : Wave → Wave) : (s.modWave n f).free = s.free := rfl
@[simp] theorem State.modWave_noRoom (s : State) (n : Nat) (f : Wave → Wave) : (s.modWave n f).noRoom = s.noRoom := rfl
@[simp] theorem State.modWave_turns (s : State) (n : Nat) (f : Wave → Wave) : (s.modWave n f).turns = s.turns := rfl
@[simp] theorem State.modWave_fuses (s : State) (n : Nat) (f : Wave → Wave) : (s.modWave n f).fuses = s.fuses := rfl
@[simp] theorem State.modWave_inputs (s : State) (n : Nat) (f : Wave → Wave) : (s.modWave n f).inputs = s.inputs := rfl
@[simp] theorem State.modTeam_mem (s : State) (n : Nat) (f : Team → Team) : (s.modTeam n f).mem = s.mem := rfl
@[simp] theorem State.modTeam_poison (s : State) (n : Nat) (f : Team → Team) : (s.modTeam n f).poison = s.poison := rfl
@[simp] theorem State.modTeam_badCopies (s : State) (n : Nat) (f : Team → Team) : (s.modTeam n f).badCopies = s.badCopies := rfl
@[simp] theorem State.modTeam_versions (s : State) (n : Nat) (f : Team → Team) : (s.modTeam n f).versions = s.versions := rfl
@[simp] theorem State.modTeam_tlb (s : State) (n : Nat) (f : Team → Team) : (s.modTeam n f).tlb = s.tlb := rfl
@[simp] theorem State.modTeam_moved (s : State) (n : Nat) (f : Team → Team) : (s.modTeam n f).moved = s.moved := rfl
@[simp] theorem State.modTeam_hostLines (s : State) (n : Nat) (f : Team → Team) : (s.modTeam n f).hostLines = s.hostLines := rfl
@[simp] theorem State.modTeam_tagStates (s : State) (n : Nat) (f : Team → Team) : (s.modTeam n f).tagStates = s.tagStates := rfl
@[simp] theorem State.modTeam_sets (s : State) (n : Nat) (f : Team → Team) : (s.modTeam n f).sets = s.sets := rfl
@[simp] theorem State.modTeam_queues (s : State) (n : Nat) (f : Team → Team) : (s.modTeam n f).queues = s.queues := rfl
@[simp] theorem State.modTeam_packetCopies (s : State) (n : Nat) (f : Team → Team) : (s.modTeam n f).packetCopies = s.packetCopies := rfl
@[simp] theorem State.modTeam_launches (s : State) (n : Nat) (f : Team → Team) : (s.modTeam n f).launches = s.launches := rfl
@[simp] theorem State.modTeam_grps (s : State) (n : Nat) (f : Team → Team) : (s.modTeam n f).grps = s.grps := rfl
@[simp] theorem State.modTeam_teams (s : State) (n : Nat) (f : Team → Team) : (s.modTeam n f).teams = tmod s.teams n f := rfl
@[simp] theorem State.modTeam_waves (s : State) (n : Nat) (f : Team → Team) : (s.modTeam n f).waves = s.waves := rfl
@[simp] theorem State.modTeam_resv (s : State) (n : Nat) (f : Team → Team) : (s.modTeam n f).resv = s.resv := rfl
@[simp] theorem State.modTeam_bulk (s : State) (n : Nat) (f : Team → Team) : (s.modTeam n f).bulk = s.bulk := rfl
@[simp] theorem State.modTeam_eng (s : State) (n : Nat) (f : Team → Team) : (s.modTeam n f).eng = s.eng := rfl
@[simp] theorem State.modTeam_rays (s : State) (n : Nat) (f : Team → Team) : (s.modTeam n f).rays = s.rays := rfl
@[simp] theorem State.modTeam_rayCounts (s : State) (n : Nat) (f : Team → Team) : (s.modTeam n f).rayCounts = s.rayCounts := rfl
@[simp] theorem State.modTeam_pool (s : State) (n : Nat) (f : Team → Team) : (s.modTeam n f).pool = s.pool := rfl
@[simp] theorem State.modTeam_formed (s : State) (n : Nat) (f : Team → Team) : (s.modTeam n f).formed = s.formed := rfl
@[simp] theorem State.modTeam_heldTasks (s : State) (n : Nat) (f : Team → Team) : (s.modTeam n f).heldTasks = s.heldTasks := rfl
@[simp] theorem State.modTeam_faults (s : State) (n : Nat) (f : Team → Team) : (s.modTeam n f).faults = s.faults := rfl
@[simp] theorem State.modTeam_devWrites (s : State) (n : Nat) (f : Team → Team) : (s.modTeam n f).devWrites = s.devWrites := rfl
@[simp] theorem State.modTeam_waiters (s : State) (n : Nat) (f : Team → Team) : (s.modTeam n f).waiters = s.waiters := rfl
@[simp] theorem State.modTeam_kvBlocks (s : State) (n : Nat) (f : Team → Team) : (s.modTeam n f).kvBlocks = s.kvBlocks := rfl
@[simp] theorem State.modTeam_kvNames (s : State) (n : Nat) (f : Team → Team) : (s.modTeam n f).kvNames = s.kvNames := rfl
@[simp] theorem State.modTeam_groups (s : State) (n : Nat) (f : Team → Team) : (s.modTeam n f).groups = s.groups := rfl
@[simp] theorem State.modTeam_generations (s : State) (n : Nat) (f : Team → Team) : (s.modTeam n f).generations = s.generations := rfl
@[simp] theorem State.modTeam_cbWaiters (s : State) (n : Nat) (f : Team → Team) : (s.modTeam n f).cbWaiters = s.cbWaiters := rfl
@[simp] theorem State.modTeam_moves (s : State) (n : Nat) (f : Team → Team) : (s.modTeam n f).moves = s.moves := rfl
@[simp] theorem State.modTeam_heads (s : State) (n : Nat) (f : Team → Team) : (s.modTeam n f).heads = s.heads := rfl
@[simp] theorem State.modTeam_columns (s : State) (n : Nat) (f : Team → Team) : (s.modTeam n f).columns = s.columns := rfl
@[simp] theorem State.modTeam_regs (s : State) (n : Nat) (f : Team → Team) : (s.modTeam n f).regs = s.regs := rfl
@[simp] theorem State.modTeam_measure (s : State) (n : Nat) (f : Team → Team) : (s.modTeam n f).measure = s.measure := rfl
@[simp] theorem State.modTeam_errSeq (s : State) (n : Nat) (f : Team → Team) : (s.modTeam n f).errSeq = s.errSeq := rfl
@[simp] theorem State.modTeam_hostRead (s : State) (n : Nat) (f : Team → Team) : (s.modTeam n f).hostRead = s.hostRead := rfl
@[simp] theorem State.modTeam_hostReadPoison (s : State) (n : Nat) (f : Team → Team) : (s.modTeam n f).hostReadPoison = s.hostReadPoison := rfl
@[simp] theorem State.modTeam_dev (s : State) (n : Nat) (f : Team → Team) : (s.modTeam n f).dev = s.dev := rfl
@[simp] theorem State.modTeam_everEnabled (s : State) (n : Nat) (f : Team → Team) : (s.modTeam n f).everEnabled = s.everEnabled := rfl
@[simp] theorem State.modTeam_ns (s : State) (n : Nat) (f : Team → Team) : (s.modTeam n f).ns = s.ns := rfl
@[simp] theorem State.modTeam_cur (s : State) (n : Nat) (f : Team → Team) : (s.modTeam n f).cur = s.cur := rfl
@[simp] theorem State.modTeam_nextId (s : State) (n : Nat) (f : Team → Team) : (s.modTeam n f).nextId = s.nextId := rfl
@[simp] theorem State.modTeam_free (s : State) (n : Nat) (f : Team → Team) : (s.modTeam n f).free = s.free := rfl
@[simp] theorem State.modTeam_noRoom (s : State) (n : Nat) (f : Team → Team) : (s.modTeam n f).noRoom = s.noRoom := rfl
@[simp] theorem State.modTeam_turns (s : State) (n : Nat) (f : Team → Team) : (s.modTeam n f).turns = s.turns := rfl
@[simp] theorem State.modTeam_fuses (s : State) (n : Nat) (f : Team → Team) : (s.modTeam n f).fuses = s.fuses := rfl
@[simp] theorem State.modTeam_inputs (s : State) (n : Nat) (f : Team → Team) : (s.modTeam n f).inputs = s.inputs := rfl
@[simp] theorem State.modGrp_mem (s : State) (n : Nat) (f : Grp → Grp) : (s.modGrp n f).mem = s.mem := rfl
@[simp] theorem State.modGrp_poison (s : State) (n : Nat) (f : Grp → Grp) : (s.modGrp n f).poison = s.poison := rfl
@[simp] theorem State.modGrp_badCopies (s : State) (n : Nat) (f : Grp → Grp) : (s.modGrp n f).badCopies = s.badCopies := rfl
@[simp] theorem State.modGrp_versions (s : State) (n : Nat) (f : Grp → Grp) : (s.modGrp n f).versions = s.versions := rfl
@[simp] theorem State.modGrp_tlb (s : State) (n : Nat) (f : Grp → Grp) : (s.modGrp n f).tlb = s.tlb := rfl
@[simp] theorem State.modGrp_moved (s : State) (n : Nat) (f : Grp → Grp) : (s.modGrp n f).moved = s.moved := rfl
@[simp] theorem State.modGrp_hostLines (s : State) (n : Nat) (f : Grp → Grp) : (s.modGrp n f).hostLines = s.hostLines := rfl
@[simp] theorem State.modGrp_tagStates (s : State) (n : Nat) (f : Grp → Grp) : (s.modGrp n f).tagStates = s.tagStates := rfl
@[simp] theorem State.modGrp_sets (s : State) (n : Nat) (f : Grp → Grp) : (s.modGrp n f).sets = s.sets := rfl
@[simp] theorem State.modGrp_queues (s : State) (n : Nat) (f : Grp → Grp) : (s.modGrp n f).queues = s.queues := rfl
@[simp] theorem State.modGrp_packetCopies (s : State) (n : Nat) (f : Grp → Grp) : (s.modGrp n f).packetCopies = s.packetCopies := rfl
@[simp] theorem State.modGrp_launches (s : State) (n : Nat) (f : Grp → Grp) : (s.modGrp n f).launches = s.launches := rfl
@[simp] theorem State.modGrp_grps (s : State) (n : Nat) (f : Grp → Grp) : (s.modGrp n f).grps = tmod s.grps n f := rfl
@[simp] theorem State.modGrp_teams (s : State) (n : Nat) (f : Grp → Grp) : (s.modGrp n f).teams = s.teams := rfl
@[simp] theorem State.modGrp_waves (s : State) (n : Nat) (f : Grp → Grp) : (s.modGrp n f).waves = s.waves := rfl
@[simp] theorem State.modGrp_resv (s : State) (n : Nat) (f : Grp → Grp) : (s.modGrp n f).resv = s.resv := rfl
@[simp] theorem State.modGrp_bulk (s : State) (n : Nat) (f : Grp → Grp) : (s.modGrp n f).bulk = s.bulk := rfl
@[simp] theorem State.modGrp_eng (s : State) (n : Nat) (f : Grp → Grp) : (s.modGrp n f).eng = s.eng := rfl
@[simp] theorem State.modGrp_rays (s : State) (n : Nat) (f : Grp → Grp) : (s.modGrp n f).rays = s.rays := rfl
@[simp] theorem State.modGrp_rayCounts (s : State) (n : Nat) (f : Grp → Grp) : (s.modGrp n f).rayCounts = s.rayCounts := rfl
@[simp] theorem State.modGrp_pool (s : State) (n : Nat) (f : Grp → Grp) : (s.modGrp n f).pool = s.pool := rfl
@[simp] theorem State.modGrp_formed (s : State) (n : Nat) (f : Grp → Grp) : (s.modGrp n f).formed = s.formed := rfl
@[simp] theorem State.modGrp_heldTasks (s : State) (n : Nat) (f : Grp → Grp) : (s.modGrp n f).heldTasks = s.heldTasks := rfl
@[simp] theorem State.modGrp_faults (s : State) (n : Nat) (f : Grp → Grp) : (s.modGrp n f).faults = s.faults := rfl
@[simp] theorem State.modGrp_devWrites (s : State) (n : Nat) (f : Grp → Grp) : (s.modGrp n f).devWrites = s.devWrites := rfl
@[simp] theorem State.modGrp_waiters (s : State) (n : Nat) (f : Grp → Grp) : (s.modGrp n f).waiters = s.waiters := rfl
@[simp] theorem State.modGrp_kvBlocks (s : State) (n : Nat) (f : Grp → Grp) : (s.modGrp n f).kvBlocks = s.kvBlocks := rfl
@[simp] theorem State.modGrp_kvNames (s : State) (n : Nat) (f : Grp → Grp) : (s.modGrp n f).kvNames = s.kvNames := rfl
@[simp] theorem State.modGrp_groups (s : State) (n : Nat) (f : Grp → Grp) : (s.modGrp n f).groups = s.groups := rfl
@[simp] theorem State.modGrp_generations (s : State) (n : Nat) (f : Grp → Grp) : (s.modGrp n f).generations = s.generations := rfl
@[simp] theorem State.modGrp_cbWaiters (s : State) (n : Nat) (f : Grp → Grp) : (s.modGrp n f).cbWaiters = s.cbWaiters := rfl
@[simp] theorem State.modGrp_moves (s : State) (n : Nat) (f : Grp → Grp) : (s.modGrp n f).moves = s.moves := rfl
@[simp] theorem State.modGrp_heads (s : State) (n : Nat) (f : Grp → Grp) : (s.modGrp n f).heads = s.heads := rfl
@[simp] theorem State.modGrp_columns (s : State) (n : Nat) (f : Grp → Grp) : (s.modGrp n f).columns = s.columns := rfl
@[simp] theorem State.modGrp_regs (s : State) (n : Nat) (f : Grp → Grp) : (s.modGrp n f).regs = s.regs := rfl
@[simp] theorem State.modGrp_measure (s : State) (n : Nat) (f : Grp → Grp) : (s.modGrp n f).measure = s.measure := rfl
@[simp] theorem State.modGrp_errSeq (s : State) (n : Nat) (f : Grp → Grp) : (s.modGrp n f).errSeq = s.errSeq := rfl
@[simp] theorem State.modGrp_hostRead (s : State) (n : Nat) (f : Grp → Grp) : (s.modGrp n f).hostRead = s.hostRead := rfl
@[simp] theorem State.modGrp_hostReadPoison (s : State) (n : Nat) (f : Grp → Grp) : (s.modGrp n f).hostReadPoison = s.hostReadPoison := rfl
@[simp] theorem State.modGrp_dev (s : State) (n : Nat) (f : Grp → Grp) : (s.modGrp n f).dev = s.dev := rfl
@[simp] theorem State.modGrp_everEnabled (s : State) (n : Nat) (f : Grp → Grp) : (s.modGrp n f).everEnabled = s.everEnabled := rfl
@[simp] theorem State.modGrp_ns (s : State) (n : Nat) (f : Grp → Grp) : (s.modGrp n f).ns = s.ns := rfl
@[simp] theorem State.modGrp_cur (s : State) (n : Nat) (f : Grp → Grp) : (s.modGrp n f).cur = s.cur := rfl
@[simp] theorem State.modGrp_nextId (s : State) (n : Nat) (f : Grp → Grp) : (s.modGrp n f).nextId = s.nextId := rfl
@[simp] theorem State.modGrp_free (s : State) (n : Nat) (f : Grp → Grp) : (s.modGrp n f).free = s.free := rfl
@[simp] theorem State.modGrp_noRoom (s : State) (n : Nat) (f : Grp → Grp) : (s.modGrp n f).noRoom = s.noRoom := rfl
@[simp] theorem State.modGrp_turns (s : State) (n : Nat) (f : Grp → Grp) : (s.modGrp n f).turns = s.turns := rfl
@[simp] theorem State.modGrp_fuses (s : State) (n : Nat) (f : Grp → Grp) : (s.modGrp n f).fuses = s.fuses := rfl
@[simp] theorem State.modGrp_inputs (s : State) (n : Nat) (f : Grp → Grp) : (s.modGrp n f).inputs = s.inputs := rfl
@[simp] theorem State.modLaunch_mem (s : State) (n : Nat) (f : Launch → Launch) : (s.modLaunch n f).mem = s.mem := rfl
@[simp] theorem State.modLaunch_poison (s : State) (n : Nat) (f : Launch → Launch) : (s.modLaunch n f).poison = s.poison := rfl
@[simp] theorem State.modLaunch_badCopies (s : State) (n : Nat) (f : Launch → Launch) : (s.modLaunch n f).badCopies = s.badCopies := rfl
@[simp] theorem State.modLaunch_versions (s : State) (n : Nat) (f : Launch → Launch) : (s.modLaunch n f).versions = s.versions := rfl
@[simp] theorem State.modLaunch_tlb (s : State) (n : Nat) (f : Launch → Launch) : (s.modLaunch n f).tlb = s.tlb := rfl
@[simp] theorem State.modLaunch_moved (s : State) (n : Nat) (f : Launch → Launch) : (s.modLaunch n f).moved = s.moved := rfl
@[simp] theorem State.modLaunch_hostLines (s : State) (n : Nat) (f : Launch → Launch) : (s.modLaunch n f).hostLines = s.hostLines := rfl
@[simp] theorem State.modLaunch_tagStates (s : State) (n : Nat) (f : Launch → Launch) : (s.modLaunch n f).tagStates = s.tagStates := rfl
@[simp] theorem State.modLaunch_sets (s : State) (n : Nat) (f : Launch → Launch) : (s.modLaunch n f).sets = s.sets := rfl
@[simp] theorem State.modLaunch_queues (s : State) (n : Nat) (f : Launch → Launch) : (s.modLaunch n f).queues = s.queues := rfl
@[simp] theorem State.modLaunch_packetCopies (s : State) (n : Nat) (f : Launch → Launch) : (s.modLaunch n f).packetCopies = s.packetCopies := rfl
@[simp] theorem State.modLaunch_launches (s : State) (n : Nat) (f : Launch → Launch) : (s.modLaunch n f).launches = tmod s.launches n f := rfl
@[simp] theorem State.modLaunch_grps (s : State) (n : Nat) (f : Launch → Launch) : (s.modLaunch n f).grps = s.grps := rfl
@[simp] theorem State.modLaunch_teams (s : State) (n : Nat) (f : Launch → Launch) : (s.modLaunch n f).teams = s.teams := rfl
@[simp] theorem State.modLaunch_waves (s : State) (n : Nat) (f : Launch → Launch) : (s.modLaunch n f).waves = s.waves := rfl
@[simp] theorem State.modLaunch_resv (s : State) (n : Nat) (f : Launch → Launch) : (s.modLaunch n f).resv = s.resv := rfl
@[simp] theorem State.modLaunch_bulk (s : State) (n : Nat) (f : Launch → Launch) : (s.modLaunch n f).bulk = s.bulk := rfl
@[simp] theorem State.modLaunch_eng (s : State) (n : Nat) (f : Launch → Launch) : (s.modLaunch n f).eng = s.eng := rfl
@[simp] theorem State.modLaunch_rays (s : State) (n : Nat) (f : Launch → Launch) : (s.modLaunch n f).rays = s.rays := rfl
@[simp] theorem State.modLaunch_rayCounts (s : State) (n : Nat) (f : Launch → Launch) : (s.modLaunch n f).rayCounts = s.rayCounts := rfl
@[simp] theorem State.modLaunch_pool (s : State) (n : Nat) (f : Launch → Launch) : (s.modLaunch n f).pool = s.pool := rfl
@[simp] theorem State.modLaunch_formed (s : State) (n : Nat) (f : Launch → Launch) : (s.modLaunch n f).formed = s.formed := rfl
@[simp] theorem State.modLaunch_heldTasks (s : State) (n : Nat) (f : Launch → Launch) : (s.modLaunch n f).heldTasks = s.heldTasks := rfl
@[simp] theorem State.modLaunch_faults (s : State) (n : Nat) (f : Launch → Launch) : (s.modLaunch n f).faults = s.faults := rfl
@[simp] theorem State.modLaunch_devWrites (s : State) (n : Nat) (f : Launch → Launch) : (s.modLaunch n f).devWrites = s.devWrites := rfl
@[simp] theorem State.modLaunch_waiters (s : State) (n : Nat) (f : Launch → Launch) : (s.modLaunch n f).waiters = s.waiters := rfl
@[simp] theorem State.modLaunch_kvBlocks (s : State) (n : Nat) (f : Launch → Launch) : (s.modLaunch n f).kvBlocks = s.kvBlocks := rfl
@[simp] theorem State.modLaunch_kvNames (s : State) (n : Nat) (f : Launch → Launch) : (s.modLaunch n f).kvNames = s.kvNames := rfl
@[simp] theorem State.modLaunch_groups (s : State) (n : Nat) (f : Launch → Launch) : (s.modLaunch n f).groups = s.groups := rfl
@[simp] theorem State.modLaunch_generations (s : State) (n : Nat) (f : Launch → Launch) : (s.modLaunch n f).generations = s.generations := rfl
@[simp] theorem State.modLaunch_cbWaiters (s : State) (n : Nat) (f : Launch → Launch) : (s.modLaunch n f).cbWaiters = s.cbWaiters := rfl
@[simp] theorem State.modLaunch_moves (s : State) (n : Nat) (f : Launch → Launch) : (s.modLaunch n f).moves = s.moves := rfl
@[simp] theorem State.modLaunch_heads (s : State) (n : Nat) (f : Launch → Launch) : (s.modLaunch n f).heads = s.heads := rfl
@[simp] theorem State.modLaunch_columns (s : State) (n : Nat) (f : Launch → Launch) : (s.modLaunch n f).columns = s.columns := rfl
@[simp] theorem State.modLaunch_regs (s : State) (n : Nat) (f : Launch → Launch) : (s.modLaunch n f).regs = s.regs := rfl
@[simp] theorem State.modLaunch_measure (s : State) (n : Nat) (f : Launch → Launch) : (s.modLaunch n f).measure = s.measure := rfl
@[simp] theorem State.modLaunch_errSeq (s : State) (n : Nat) (f : Launch → Launch) : (s.modLaunch n f).errSeq = s.errSeq := rfl
@[simp] theorem State.modLaunch_hostRead (s : State) (n : Nat) (f : Launch → Launch) : (s.modLaunch n f).hostRead = s.hostRead := rfl
@[simp] theorem State.modLaunch_hostReadPoison (s : State) (n : Nat) (f : Launch → Launch) : (s.modLaunch n f).hostReadPoison = s.hostReadPoison := rfl
@[simp] theorem State.modLaunch_dev (s : State) (n : Nat) (f : Launch → Launch) : (s.modLaunch n f).dev = s.dev := rfl
@[simp] theorem State.modLaunch_everEnabled (s : State) (n : Nat) (f : Launch → Launch) : (s.modLaunch n f).everEnabled = s.everEnabled := rfl
@[simp] theorem State.modLaunch_ns (s : State) (n : Nat) (f : Launch → Launch) : (s.modLaunch n f).ns = s.ns := rfl
@[simp] theorem State.modLaunch_cur (s : State) (n : Nat) (f : Launch → Launch) : (s.modLaunch n f).cur = s.cur := rfl
@[simp] theorem State.modLaunch_nextId (s : State) (n : Nat) (f : Launch → Launch) : (s.modLaunch n f).nextId = s.nextId := rfl
@[simp] theorem State.modLaunch_free (s : State) (n : Nat) (f : Launch → Launch) : (s.modLaunch n f).free = s.free := rfl
@[simp] theorem State.modLaunch_noRoom (s : State) (n : Nat) (f : Launch → Launch) : (s.modLaunch n f).noRoom = s.noRoom := rfl
@[simp] theorem State.modLaunch_turns (s : State) (n : Nat) (f : Launch → Launch) : (s.modLaunch n f).turns = s.turns := rfl
@[simp] theorem State.modLaunch_fuses (s : State) (n : Nat) (f : Launch → Launch) : (s.modLaunch n f).fuses = s.fuses := rfl
@[simp] theorem State.modLaunch_inputs (s : State) (n : Nat) (f : Launch → Launch) : (s.modLaunch n f).inputs = s.inputs := rfl
@[simp] theorem State.modRegs_mem (s : State) (f : Regs → Regs) : (s.modRegs f).mem = s.mem := rfl
@[simp] theorem State.modRegs_poison (s : State) (f : Regs → Regs) : (s.modRegs f).poison = s.poison := rfl
@[simp] theorem State.modRegs_badCopies (s : State) (f : Regs → Regs) : (s.modRegs f).badCopies = s.badCopies := rfl
@[simp] theorem State.modRegs_versions (s : State) (f : Regs → Regs) : (s.modRegs f).versions = s.versions := rfl
@[simp] theorem State.modRegs_tlb (s : State) (f : Regs → Regs) : (s.modRegs f).tlb = s.tlb := rfl
@[simp] theorem State.modRegs_moved (s : State) (f : Regs → Regs) : (s.modRegs f).moved = s.moved := rfl
@[simp] theorem State.modRegs_hostLines (s : State) (f : Regs → Regs) : (s.modRegs f).hostLines = s.hostLines := rfl
@[simp] theorem State.modRegs_tagStates (s : State) (f : Regs → Regs) : (s.modRegs f).tagStates = s.tagStates := rfl
@[simp] theorem State.modRegs_sets (s : State) (f : Regs → Regs) : (s.modRegs f).sets = s.sets := rfl
@[simp] theorem State.modRegs_queues (s : State) (f : Regs → Regs) : (s.modRegs f).queues = s.queues := rfl
@[simp] theorem State.modRegs_packetCopies (s : State) (f : Regs → Regs) : (s.modRegs f).packetCopies = s.packetCopies := rfl
@[simp] theorem State.modRegs_launches (s : State) (f : Regs → Regs) : (s.modRegs f).launches = s.launches := rfl
@[simp] theorem State.modRegs_grps (s : State) (f : Regs → Regs) : (s.modRegs f).grps = s.grps := rfl
@[simp] theorem State.modRegs_teams (s : State) (f : Regs → Regs) : (s.modRegs f).teams = s.teams := rfl
@[simp] theorem State.modRegs_waves (s : State) (f : Regs → Regs) : (s.modRegs f).waves = s.waves := rfl
@[simp] theorem State.modRegs_resv (s : State) (f : Regs → Regs) : (s.modRegs f).resv = s.resv := rfl
@[simp] theorem State.modRegs_bulk (s : State) (f : Regs → Regs) : (s.modRegs f).bulk = s.bulk := rfl
@[simp] theorem State.modRegs_eng (s : State) (f : Regs → Regs) : (s.modRegs f).eng = s.eng := rfl
@[simp] theorem State.modRegs_rays (s : State) (f : Regs → Regs) : (s.modRegs f).rays = s.rays := rfl
@[simp] theorem State.modRegs_rayCounts (s : State) (f : Regs → Regs) : (s.modRegs f).rayCounts = s.rayCounts := rfl
@[simp] theorem State.modRegs_pool (s : State) (f : Regs → Regs) : (s.modRegs f).pool = s.pool := rfl
@[simp] theorem State.modRegs_formed (s : State) (f : Regs → Regs) : (s.modRegs f).formed = s.formed := rfl
@[simp] theorem State.modRegs_heldTasks (s : State) (f : Regs → Regs) : (s.modRegs f).heldTasks = s.heldTasks := rfl
@[simp] theorem State.modRegs_faults (s : State) (f : Regs → Regs) : (s.modRegs f).faults = s.faults := rfl
@[simp] theorem State.modRegs_devWrites (s : State) (f : Regs → Regs) : (s.modRegs f).devWrites = s.devWrites := rfl
@[simp] theorem State.modRegs_waiters (s : State) (f : Regs → Regs) : (s.modRegs f).waiters = s.waiters := rfl
@[simp] theorem State.modRegs_kvBlocks (s : State) (f : Regs → Regs) : (s.modRegs f).kvBlocks = s.kvBlocks := rfl
@[simp] theorem State.modRegs_kvNames (s : State) (f : Regs → Regs) : (s.modRegs f).kvNames = s.kvNames := rfl
@[simp] theorem State.modRegs_groups (s : State) (f : Regs → Regs) : (s.modRegs f).groups = s.groups := rfl
@[simp] theorem State.modRegs_generations (s : State) (f : Regs → Regs) : (s.modRegs f).generations = s.generations := rfl
@[simp] theorem State.modRegs_cbWaiters (s : State) (f : Regs → Regs) : (s.modRegs f).cbWaiters = s.cbWaiters := rfl
@[simp] theorem State.modRegs_moves (s : State) (f : Regs → Regs) : (s.modRegs f).moves = s.moves := rfl
@[simp] theorem State.modRegs_heads (s : State) (f : Regs → Regs) : (s.modRegs f).heads = s.heads := rfl
@[simp] theorem State.modRegs_columns (s : State) (f : Regs → Regs) : (s.modRegs f).columns = s.columns := rfl
@[simp] theorem State.modRegs_regs (s : State) (f : Regs → Regs) : (s.modRegs f).regs = f s.regs := rfl
@[simp] theorem State.modRegs_measure (s : State) (f : Regs → Regs) : (s.modRegs f).measure = s.measure := rfl
@[simp] theorem State.modRegs_errSeq (s : State) (f : Regs → Regs) : (s.modRegs f).errSeq = s.errSeq := rfl
@[simp] theorem State.modRegs_hostRead (s : State) (f : Regs → Regs) : (s.modRegs f).hostRead = s.hostRead := rfl
@[simp] theorem State.modRegs_hostReadPoison (s : State) (f : Regs → Regs) : (s.modRegs f).hostReadPoison = s.hostReadPoison := rfl
@[simp] theorem State.modRegs_dev (s : State) (f : Regs → Regs) : (s.modRegs f).dev = s.dev := rfl
@[simp] theorem State.modRegs_everEnabled (s : State) (f : Regs → Regs) : (s.modRegs f).everEnabled = s.everEnabled := rfl
@[simp] theorem State.modRegs_ns (s : State) (f : Regs → Regs) : (s.modRegs f).ns = s.ns := rfl
@[simp] theorem State.modRegs_cur (s : State) (f : Regs → Regs) : (s.modRegs f).cur = s.cur := rfl
@[simp] theorem State.modRegs_nextId (s : State) (f : Regs → Regs) : (s.modRegs f).nextId = s.nextId := rfl
@[simp] theorem State.modRegs_free (s : State) (f : Regs → Regs) : (s.modRegs f).free = s.free := rfl
@[simp] theorem State.modRegs_noRoom (s : State) (f : Regs → Regs) : (s.modRegs f).noRoom = s.noRoom := rfl
@[simp] theorem State.modRegs_turns (s : State) (f : Regs → Regs) : (s.modRegs f).turns = s.turns := rfl
@[simp] theorem State.modRegs_fuses (s : State) (f : Regs → Regs) : (s.modRegs f).fuses = s.fuses := rfl
@[simp] theorem State.modRegs_inputs (s : State) (f : Regs → Regs) : (s.modRegs f).inputs = s.inputs := rfl
@[simp] theorem State.modColumn_mem (s : State) (n : Nat) (f : Column → Column) : (s.modColumn n f).mem = s.mem := rfl
@[simp] theorem State.modColumn_poison (s : State) (n : Nat) (f : Column → Column) : (s.modColumn n f).poison = s.poison := rfl
@[simp] theorem State.modColumn_badCopies (s : State) (n : Nat) (f : Column → Column) : (s.modColumn n f).badCopies = s.badCopies := rfl
@[simp] theorem State.modColumn_versions (s : State) (n : Nat) (f : Column → Column) : (s.modColumn n f).versions = s.versions := rfl
@[simp] theorem State.modColumn_tlb (s : State) (n : Nat) (f : Column → Column) : (s.modColumn n f).tlb = s.tlb := rfl
@[simp] theorem State.modColumn_moved (s : State) (n : Nat) (f : Column → Column) : (s.modColumn n f).moved = s.moved := rfl
@[simp] theorem State.modColumn_hostLines (s : State) (n : Nat) (f : Column → Column) : (s.modColumn n f).hostLines = s.hostLines := rfl
@[simp] theorem State.modColumn_tagStates (s : State) (n : Nat) (f : Column → Column) : (s.modColumn n f).tagStates = s.tagStates := rfl
@[simp] theorem State.modColumn_sets (s : State) (n : Nat) (f : Column → Column) : (s.modColumn n f).sets = s.sets := rfl
@[simp] theorem State.modColumn_queues (s : State) (n : Nat) (f : Column → Column) : (s.modColumn n f).queues = s.queues := rfl
@[simp] theorem State.modColumn_packetCopies (s : State) (n : Nat) (f : Column → Column) : (s.modColumn n f).packetCopies = s.packetCopies := rfl
@[simp] theorem State.modColumn_launches (s : State) (n : Nat) (f : Column → Column) : (s.modColumn n f).launches = s.launches := rfl
@[simp] theorem State.modColumn_grps (s : State) (n : Nat) (f : Column → Column) : (s.modColumn n f).grps = s.grps := rfl
@[simp] theorem State.modColumn_teams (s : State) (n : Nat) (f : Column → Column) : (s.modColumn n f).teams = s.teams := rfl
@[simp] theorem State.modColumn_waves (s : State) (n : Nat) (f : Column → Column) : (s.modColumn n f).waves = s.waves := rfl
@[simp] theorem State.modColumn_resv (s : State) (n : Nat) (f : Column → Column) : (s.modColumn n f).resv = s.resv := rfl
@[simp] theorem State.modColumn_bulk (s : State) (n : Nat) (f : Column → Column) : (s.modColumn n f).bulk = s.bulk := rfl
@[simp] theorem State.modColumn_eng (s : State) (n : Nat) (f : Column → Column) : (s.modColumn n f).eng = s.eng := rfl
@[simp] theorem State.modColumn_rays (s : State) (n : Nat) (f : Column → Column) : (s.modColumn n f).rays = s.rays := rfl
@[simp] theorem State.modColumn_rayCounts (s : State) (n : Nat) (f : Column → Column) : (s.modColumn n f).rayCounts = s.rayCounts := rfl
@[simp] theorem State.modColumn_pool (s : State) (n : Nat) (f : Column → Column) : (s.modColumn n f).pool = s.pool := rfl
@[simp] theorem State.modColumn_formed (s : State) (n : Nat) (f : Column → Column) : (s.modColumn n f).formed = s.formed := rfl
@[simp] theorem State.modColumn_heldTasks (s : State) (n : Nat) (f : Column → Column) : (s.modColumn n f).heldTasks = s.heldTasks := rfl
@[simp] theorem State.modColumn_faults (s : State) (n : Nat) (f : Column → Column) : (s.modColumn n f).faults = s.faults := rfl
@[simp] theorem State.modColumn_devWrites (s : State) (n : Nat) (f : Column → Column) : (s.modColumn n f).devWrites = s.devWrites := rfl
@[simp] theorem State.modColumn_waiters (s : State) (n : Nat) (f : Column → Column) : (s.modColumn n f).waiters = s.waiters := rfl
@[simp] theorem State.modColumn_kvBlocks (s : State) (n : Nat) (f : Column → Column) : (s.modColumn n f).kvBlocks = s.kvBlocks := rfl
@[simp] theorem State.modColumn_kvNames (s : State) (n : Nat) (f : Column → Column) : (s.modColumn n f).kvNames = s.kvNames := rfl
@[simp] theorem State.modColumn_groups (s : State) (n : Nat) (f : Column → Column) : (s.modColumn n f).groups = s.groups := rfl
@[simp] theorem State.modColumn_generations (s : State) (n : Nat) (f : Column → Column) : (s.modColumn n f).generations = s.generations := rfl
@[simp] theorem State.modColumn_cbWaiters (s : State) (n : Nat) (f : Column → Column) : (s.modColumn n f).cbWaiters = s.cbWaiters := rfl
@[simp] theorem State.modColumn_moves (s : State) (n : Nat) (f : Column → Column) : (s.modColumn n f).moves = s.moves := rfl
@[simp] theorem State.modColumn_heads (s : State) (n : Nat) (f : Column → Column) : (s.modColumn n f).heads = s.heads := rfl
@[simp] theorem State.modColumn_columns (s : State) (n : Nat) (f : Column → Column) : (s.modColumn n f).columns = tset s.columns n (f (s.column n)) := rfl
@[simp] theorem State.modColumn_regs (s : State) (n : Nat) (f : Column → Column) : (s.modColumn n f).regs = s.regs := rfl
@[simp] theorem State.modColumn_measure (s : State) (n : Nat) (f : Column → Column) : (s.modColumn n f).measure = s.measure := rfl
@[simp] theorem State.modColumn_errSeq (s : State) (n : Nat) (f : Column → Column) : (s.modColumn n f).errSeq = s.errSeq := rfl
@[simp] theorem State.modColumn_hostRead (s : State) (n : Nat) (f : Column → Column) : (s.modColumn n f).hostRead = s.hostRead := rfl
@[simp] theorem State.modColumn_hostReadPoison (s : State) (n : Nat) (f : Column → Column) : (s.modColumn n f).hostReadPoison = s.hostReadPoison := rfl
@[simp] theorem State.modColumn_dev (s : State) (n : Nat) (f : Column → Column) : (s.modColumn n f).dev = s.dev := rfl
@[simp] theorem State.modColumn_everEnabled (s : State) (n : Nat) (f : Column → Column) : (s.modColumn n f).everEnabled = s.everEnabled := rfl
@[simp] theorem State.modColumn_ns (s : State) (n : Nat) (f : Column → Column) : (s.modColumn n f).ns = s.ns := rfl
@[simp] theorem State.modColumn_cur (s : State) (n : Nat) (f : Column → Column) : (s.modColumn n f).cur = s.cur := rfl
@[simp] theorem State.modColumn_nextId (s : State) (n : Nat) (f : Column → Column) : (s.modColumn n f).nextId = s.nextId := rfl
@[simp] theorem State.modColumn_free (s : State) (n : Nat) (f : Column → Column) : (s.modColumn n f).free = s.free := rfl
@[simp] theorem State.modColumn_noRoom (s : State) (n : Nat) (f : Column → Column) : (s.modColumn n f).noRoom = s.noRoom := rfl
@[simp] theorem State.modColumn_turns (s : State) (n : Nat) (f : Column → Column) : (s.modColumn n f).turns = s.turns := rfl
@[simp] theorem State.modColumn_fuses (s : State) (n : Nat) (f : Column → Column) : (s.modColumn n f).fuses = s.fuses := rfl
@[simp] theorem State.modColumn_inputs (s : State) (n : Nat) (f : Column → Column) : (s.modColumn n f).inputs = s.inputs := rfl
@[simp] theorem State.setHead_mem (s : State) (n : Nat) (x : Head) : (s.setHead n x).mem = s.mem := rfl
@[simp] theorem State.setHead_poison (s : State) (n : Nat) (x : Head) : (s.setHead n x).poison = s.poison := rfl
@[simp] theorem State.setHead_badCopies (s : State) (n : Nat) (x : Head) : (s.setHead n x).badCopies = s.badCopies := rfl
@[simp] theorem State.setHead_versions (s : State) (n : Nat) (x : Head) : (s.setHead n x).versions = s.versions := rfl
@[simp] theorem State.setHead_tlb (s : State) (n : Nat) (x : Head) : (s.setHead n x).tlb = s.tlb := rfl
@[simp] theorem State.setHead_moved (s : State) (n : Nat) (x : Head) : (s.setHead n x).moved = s.moved := rfl
@[simp] theorem State.setHead_hostLines (s : State) (n : Nat) (x : Head) : (s.setHead n x).hostLines = s.hostLines := rfl
@[simp] theorem State.setHead_tagStates (s : State) (n : Nat) (x : Head) : (s.setHead n x).tagStates = s.tagStates := rfl
@[simp] theorem State.setHead_sets (s : State) (n : Nat) (x : Head) : (s.setHead n x).sets = s.sets := rfl
@[simp] theorem State.setHead_queues (s : State) (n : Nat) (x : Head) : (s.setHead n x).queues = s.queues := rfl
@[simp] theorem State.setHead_packetCopies (s : State) (n : Nat) (x : Head) : (s.setHead n x).packetCopies = s.packetCopies := rfl
@[simp] theorem State.setHead_launches (s : State) (n : Nat) (x : Head) : (s.setHead n x).launches = s.launches := rfl
@[simp] theorem State.setHead_grps (s : State) (n : Nat) (x : Head) : (s.setHead n x).grps = s.grps := rfl
@[simp] theorem State.setHead_teams (s : State) (n : Nat) (x : Head) : (s.setHead n x).teams = s.teams := rfl
@[simp] theorem State.setHead_waves (s : State) (n : Nat) (x : Head) : (s.setHead n x).waves = s.waves := rfl
@[simp] theorem State.setHead_resv (s : State) (n : Nat) (x : Head) : (s.setHead n x).resv = s.resv := rfl
@[simp] theorem State.setHead_bulk (s : State) (n : Nat) (x : Head) : (s.setHead n x).bulk = s.bulk := rfl
@[simp] theorem State.setHead_eng (s : State) (n : Nat) (x : Head) : (s.setHead n x).eng = s.eng := rfl
@[simp] theorem State.setHead_rays (s : State) (n : Nat) (x : Head) : (s.setHead n x).rays = s.rays := rfl
@[simp] theorem State.setHead_rayCounts (s : State) (n : Nat) (x : Head) : (s.setHead n x).rayCounts = s.rayCounts := rfl
@[simp] theorem State.setHead_pool (s : State) (n : Nat) (x : Head) : (s.setHead n x).pool = s.pool := rfl
@[simp] theorem State.setHead_formed (s : State) (n : Nat) (x : Head) : (s.setHead n x).formed = s.formed := rfl
@[simp] theorem State.setHead_heldTasks (s : State) (n : Nat) (x : Head) : (s.setHead n x).heldTasks = s.heldTasks := rfl
@[simp] theorem State.setHead_faults (s : State) (n : Nat) (x : Head) : (s.setHead n x).faults = s.faults := rfl
@[simp] theorem State.setHead_devWrites (s : State) (n : Nat) (x : Head) : (s.setHead n x).devWrites = s.devWrites := rfl
@[simp] theorem State.setHead_waiters (s : State) (n : Nat) (x : Head) : (s.setHead n x).waiters = s.waiters := rfl
@[simp] theorem State.setHead_kvBlocks (s : State) (n : Nat) (x : Head) : (s.setHead n x).kvBlocks = s.kvBlocks := rfl
@[simp] theorem State.setHead_kvNames (s : State) (n : Nat) (x : Head) : (s.setHead n x).kvNames = s.kvNames := rfl
@[simp] theorem State.setHead_groups (s : State) (n : Nat) (x : Head) : (s.setHead n x).groups = s.groups := rfl
@[simp] theorem State.setHead_generations (s : State) (n : Nat) (x : Head) : (s.setHead n x).generations = s.generations := rfl
@[simp] theorem State.setHead_cbWaiters (s : State) (n : Nat) (x : Head) : (s.setHead n x).cbWaiters = s.cbWaiters := rfl
@[simp] theorem State.setHead_moves (s : State) (n : Nat) (x : Head) : (s.setHead n x).moves = s.moves := rfl
@[simp] theorem State.setHead_heads (s : State) (n : Nat) (x : Head) : (s.setHead n x).heads = tset s.heads n x := rfl
@[simp] theorem State.setHead_columns (s : State) (n : Nat) (x : Head) : (s.setHead n x).columns = s.columns := rfl
@[simp] theorem State.setHead_regs (s : State) (n : Nat) (x : Head) : (s.setHead n x).regs = s.regs := rfl
@[simp] theorem State.setHead_measure (s : State) (n : Nat) (x : Head) : (s.setHead n x).measure = s.measure := rfl
@[simp] theorem State.setHead_errSeq (s : State) (n : Nat) (x : Head) : (s.setHead n x).errSeq = s.errSeq := rfl
@[simp] theorem State.setHead_hostRead (s : State) (n : Nat) (x : Head) : (s.setHead n x).hostRead = s.hostRead := rfl
@[simp] theorem State.setHead_hostReadPoison (s : State) (n : Nat) (x : Head) : (s.setHead n x).hostReadPoison = s.hostReadPoison := rfl
@[simp] theorem State.setHead_dev (s : State) (n : Nat) (x : Head) : (s.setHead n x).dev = s.dev := rfl
@[simp] theorem State.setHead_everEnabled (s : State) (n : Nat) (x : Head) : (s.setHead n x).everEnabled = s.everEnabled := rfl
@[simp] theorem State.setHead_ns (s : State) (n : Nat) (x : Head) : (s.setHead n x).ns = s.ns := rfl
@[simp] theorem State.setHead_cur (s : State) (n : Nat) (x : Head) : (s.setHead n x).cur = s.cur := rfl
@[simp] theorem State.setHead_nextId (s : State) (n : Nat) (x : Head) : (s.setHead n x).nextId = s.nextId := rfl
@[simp] theorem State.setHead_free (s : State) (n : Nat) (x : Head) : (s.setHead n x).free = s.free := rfl
@[simp] theorem State.setHead_noRoom (s : State) (n : Nat) (x : Head) : (s.setHead n x).noRoom = s.noRoom := rfl
@[simp] theorem State.setHead_turns (s : State) (n : Nat) (x : Head) : (s.setHead n x).turns = s.turns := rfl
@[simp] theorem State.setHead_fuses (s : State) (n : Nat) (x : Head) : (s.setHead n x).fuses = s.fuses := rfl
@[simp] theorem State.setHead_inputs (s : State) (n : Nat) (x : Head) : (s.setHead n x).inputs = s.inputs := rfl
@[simp] theorem State.recall_mem (s : State) (n : Nat) : (s.recall n).mem = s.mem := rfl
@[simp] theorem State.recall_poison (s : State) (n : Nat) : (s.recall n).poison = s.poison := rfl
@[simp] theorem State.recall_badCopies (s : State) (n : Nat) : (s.recall n).badCopies = s.badCopies := rfl
@[simp] theorem State.recall_versions (s : State) (n : Nat) : (s.recall n).versions = s.versions := rfl
@[simp] theorem State.recall_tlb (s : State) (n : Nat) : (s.recall n).tlb = s.tlb := rfl
@[simp] theorem State.recall_moved (s : State) (n : Nat) : (s.recall n).moved = tdel s.moved (lineOf n) := rfl
@[simp] theorem State.recall_hostLines (s : State) (n : Nat) : (s.recall n).hostLines = s.hostLines := rfl
@[simp] theorem State.recall_tagStates (s : State) (n : Nat) : (s.recall n).tagStates = s.tagStates := rfl
@[simp] theorem State.recall_sets (s : State) (n : Nat) : (s.recall n).sets = s.sets := rfl
@[simp] theorem State.recall_queues (s : State) (n : Nat) : (s.recall n).queues = s.queues := rfl
@[simp] theorem State.recall_packetCopies (s : State) (n : Nat) : (s.recall n).packetCopies = s.packetCopies := rfl
@[simp] theorem State.recall_launches (s : State) (n : Nat) : (s.recall n).launches = s.launches := rfl
@[simp] theorem State.recall_grps (s : State) (n : Nat) : (s.recall n).grps = s.grps := rfl
@[simp] theorem State.recall_teams (s : State) (n : Nat) : (s.recall n).teams = s.teams := rfl
@[simp] theorem State.recall_waves (s : State) (n : Nat) : (s.recall n).waves = s.waves := rfl
@[simp] theorem State.recall_resv (s : State) (n : Nat) : (s.recall n).resv = s.resv := rfl
@[simp] theorem State.recall_bulk (s : State) (n : Nat) : (s.recall n).bulk = s.bulk := rfl
@[simp] theorem State.recall_eng (s : State) (n : Nat) : (s.recall n).eng = s.eng := rfl
@[simp] theorem State.recall_rays (s : State) (n : Nat) : (s.recall n).rays = s.rays := rfl
@[simp] theorem State.recall_rayCounts (s : State) (n : Nat) : (s.recall n).rayCounts = s.rayCounts := rfl
@[simp] theorem State.recall_pool (s : State) (n : Nat) : (s.recall n).pool = s.pool := rfl
@[simp] theorem State.recall_formed (s : State) (n : Nat) : (s.recall n).formed = s.formed := rfl
@[simp] theorem State.recall_heldTasks (s : State) (n : Nat) : (s.recall n).heldTasks = s.heldTasks := rfl
@[simp] theorem State.recall_faults (s : State) (n : Nat) : (s.recall n).faults = s.faults := rfl
@[simp] theorem State.recall_devWrites (s : State) (n : Nat) : (s.recall n).devWrites = s.devWrites := rfl
@[simp] theorem State.recall_waiters (s : State) (n : Nat) : (s.recall n).waiters = s.waiters := rfl
@[simp] theorem State.recall_kvBlocks (s : State) (n : Nat) : (s.recall n).kvBlocks = s.kvBlocks := rfl
@[simp] theorem State.recall_kvNames (s : State) (n : Nat) : (s.recall n).kvNames = s.kvNames := rfl
@[simp] theorem State.recall_groups (s : State) (n : Nat) : (s.recall n).groups = s.groups := rfl
@[simp] theorem State.recall_generations (s : State) (n : Nat) : (s.recall n).generations = s.generations := rfl
@[simp] theorem State.recall_cbWaiters (s : State) (n : Nat) : (s.recall n).cbWaiters = s.cbWaiters := rfl
@[simp] theorem State.recall_moves (s : State) (n : Nat) : (s.recall n).moves = s.moves := rfl
@[simp] theorem State.recall_heads (s : State) (n : Nat) : (s.recall n).heads = s.heads := rfl
@[simp] theorem State.recall_columns (s : State) (n : Nat) : (s.recall n).columns = s.columns := rfl
@[simp] theorem State.recall_regs (s : State) (n : Nat) : (s.recall n).regs = s.regs := rfl
@[simp] theorem State.recall_measure (s : State) (n : Nat) : (s.recall n).measure = s.measure := rfl
@[simp] theorem State.recall_errSeq (s : State) (n : Nat) : (s.recall n).errSeq = s.errSeq := rfl
@[simp] theorem State.recall_hostRead (s : State) (n : Nat) : (s.recall n).hostRead = s.hostRead := rfl
@[simp] theorem State.recall_hostReadPoison (s : State) (n : Nat) : (s.recall n).hostReadPoison = s.hostReadPoison := rfl
@[simp] theorem State.recall_dev (s : State) (n : Nat) : (s.recall n).dev = s.dev := rfl
@[simp] theorem State.recall_everEnabled (s : State) (n : Nat) : (s.recall n).everEnabled = s.everEnabled := rfl
@[simp] theorem State.recall_ns (s : State) (n : Nat) : (s.recall n).ns = s.ns := rfl
@[simp] theorem State.recall_cur (s : State) (n : Nat) : (s.recall n).cur = s.cur := rfl
@[simp] theorem State.recall_nextId (s : State) (n : Nat) : (s.recall n).nextId = s.nextId := rfl
@[simp] theorem State.recall_free (s : State) (n : Nat) : (s.recall n).free = s.free := rfl
@[simp] theorem State.recall_noRoom (s : State) (n : Nat) : (s.recall n).noRoom = s.noRoom := rfl
@[simp] theorem State.recall_turns (s : State) (n : Nat) : (s.recall n).turns = s.turns := rfl
@[simp] theorem State.recall_fuses (s : State) (n : Nat) : (s.recall n).fuses = s.fuses := rfl
@[simp] theorem State.recall_inputs (s : State) (n : Nat) : (s.recall n).inputs = s.inputs := rfl
@[simp] theorem State.goneOn_mem (s : State) (c n : Nat) : (s.goneOn c n).mem = s.mem := rfl
@[simp] theorem State.goneOn_poison (s : State) (c n : Nat) : (s.goneOn c n).poison = s.poison := rfl
@[simp] theorem State.goneOn_badCopies (s : State) (c n : Nat) : (s.goneOn c n).badCopies = s.badCopies := rfl
@[simp] theorem State.goneOn_versions (s : State) (c n : Nat) : (s.goneOn c n).versions = s.versions := rfl
@[simp] theorem State.goneOn_tlb (s : State) (c n : Nat) : (s.goneOn c n).tlb = s.tlb := rfl
@[simp] theorem State.goneOn_moved (s : State) (c n : Nat) : (s.goneOn c n).moved = s.moved := rfl
@[simp] theorem State.goneOn_hostLines (s : State) (c n : Nat) : (s.goneOn c n).hostLines = s.hostLines := rfl
@[simp] theorem State.goneOn_tagStates (s : State) (c n : Nat) : (s.goneOn c n).tagStates = s.tagStates := rfl
@[simp] theorem State.goneOn_sets (s : State) (c n : Nat) : (s.goneOn c n).sets = s.sets := rfl
@[simp] theorem State.goneOn_queues (s : State) (c n : Nat) : (s.goneOn c n).queues = s.queues := rfl
@[simp] theorem State.goneOn_packetCopies (s : State) (c n : Nat) : (s.goneOn c n).packetCopies = s.packetCopies := rfl
@[simp] theorem State.goneOn_launches (s : State) (c n : Nat) : (s.goneOn c n).launches = s.launches := rfl
@[simp] theorem State.goneOn_grps (s : State) (c n : Nat) : (s.goneOn c n).grps = s.grps := rfl
@[simp] theorem State.goneOn_teams (s : State) (c n : Nat) : (s.goneOn c n).teams = s.teams := rfl
@[simp] theorem State.goneOn_waves (s : State) (c n : Nat) : (s.goneOn c n).waves = s.waves := rfl
@[simp] theorem State.goneOn_resv (s : State) (c n : Nat) : (s.goneOn c n).resv = s.resv := rfl
@[simp] theorem State.goneOn_bulk (s : State) (c n : Nat) : (s.goneOn c n).bulk = s.bulk := rfl
@[simp] theorem State.goneOn_eng (s : State) (c n : Nat) : (s.goneOn c n).eng = s.eng := rfl
@[simp] theorem State.goneOn_rays (s : State) (c n : Nat) : (s.goneOn c n).rays = s.rays := rfl
@[simp] theorem State.goneOn_rayCounts (s : State) (c n : Nat) : (s.goneOn c n).rayCounts = s.rayCounts := rfl
@[simp] theorem State.goneOn_pool (s : State) (c n : Nat) : (s.goneOn c n).pool = s.pool := rfl
@[simp] theorem State.goneOn_formed (s : State) (c n : Nat) : (s.goneOn c n).formed = s.formed := rfl
@[simp] theorem State.goneOn_heldTasks (s : State) (c n : Nat) : (s.goneOn c n).heldTasks = s.heldTasks := rfl
@[simp] theorem State.goneOn_faults (s : State) (c n : Nat) : (s.goneOn c n).faults = s.faults := rfl
@[simp] theorem State.goneOn_devWrites (s : State) (c n : Nat) : (s.goneOn c n).devWrites = s.devWrites := rfl
@[simp] theorem State.goneOn_waiters (s : State) (c n : Nat) : (s.goneOn c n).waiters = s.waiters.filter (fun x => !(x.cls == c && x.num == n)) := rfl
@[simp] theorem State.goneOn_kvBlocks (s : State) (c n : Nat) : (s.goneOn c n).kvBlocks = s.kvBlocks := rfl
@[simp] theorem State.goneOn_kvNames (s : State) (c n : Nat) : (s.goneOn c n).kvNames = s.kvNames := rfl
@[simp] theorem State.goneOn_groups (s : State) (c n : Nat) : (s.goneOn c n).groups = s.groups := rfl
@[simp] theorem State.goneOn_generations (s : State) (c n : Nat) : (s.goneOn c n).generations = s.generations := rfl
@[simp] theorem State.goneOn_cbWaiters (s : State) (c n : Nat) : (s.goneOn c n).cbWaiters = s.cbWaiters := rfl
@[simp] theorem State.goneOn_moves (s : State) (c n : Nat) : (s.goneOn c n).moves = s.moves := rfl
@[simp] theorem State.goneOn_heads (s : State) (c n : Nat) : (s.goneOn c n).heads = s.heads := rfl
@[simp] theorem State.goneOn_columns (s : State) (c n : Nat) : (s.goneOn c n).columns = s.columns := rfl
@[simp] theorem State.goneOn_regs (s : State) (c n : Nat) : (s.goneOn c n).regs = s.regs := rfl
@[simp] theorem State.goneOn_measure (s : State) (c n : Nat) : (s.goneOn c n).measure = s.measure := rfl
@[simp] theorem State.goneOn_errSeq (s : State) (c n : Nat) : (s.goneOn c n).errSeq = s.errSeq := rfl
@[simp] theorem State.goneOn_hostRead (s : State) (c n : Nat) : (s.goneOn c n).hostRead = s.hostRead := rfl
@[simp] theorem State.goneOn_hostReadPoison (s : State) (c n : Nat) : (s.goneOn c n).hostReadPoison = s.hostReadPoison := rfl
@[simp] theorem State.goneOn_dev (s : State) (c n : Nat) : (s.goneOn c n).dev = s.dev := rfl
@[simp] theorem State.goneOn_everEnabled (s : State) (c n : Nat) : (s.goneOn c n).everEnabled = s.everEnabled := rfl
@[simp] theorem State.goneOn_ns (s : State) (c n : Nat) : (s.goneOn c n).ns = s.ns := rfl
@[simp] theorem State.goneOn_cur (s : State) (c n : Nat) : (s.goneOn c n).cur = s.cur := rfl
@[simp] theorem State.goneOn_nextId (s : State) (c n : Nat) : (s.goneOn c n).nextId = s.nextId := rfl
@[simp] theorem State.goneOn_free (s : State) (c n : Nat) : (s.goneOn c n).free = s.free := rfl
@[simp] theorem State.goneOn_noRoom (s : State) (c n : Nat) : (s.goneOn c n).noRoom = s.noRoom := rfl
@[simp] theorem State.goneOn_turns (s : State) (c n : Nat) : (s.goneOn c n).turns = s.turns := rfl
@[simp] theorem State.goneOn_fuses (s : State) (c n : Nat) : (s.goneOn c n).fuses = s.fuses := rfl
@[simp] theorem State.goneOn_inputs (s : State) (c n : Nat) : (s.goneOn c n).inputs = s.inputs := rfl
@[simp] theorem State.engCancel_mem (s : State) (n : Nat) : (s.engCancel n).mem = s.mem := rfl
@[simp] theorem State.engCancel_poison (s : State) (n : Nat) : (s.engCancel n).poison = s.poison := rfl
@[simp] theorem State.engCancel_badCopies (s : State) (n : Nat) : (s.engCancel n).badCopies = s.badCopies := rfl
@[simp] theorem State.engCancel_versions (s : State) (n : Nat) : (s.engCancel n).versions = s.versions := rfl
@[simp] theorem State.engCancel_tlb (s : State) (n : Nat) : (s.engCancel n).tlb = s.tlb := rfl
@[simp] theorem State.engCancel_moved (s : State) (n : Nat) : (s.engCancel n).moved = s.moved := rfl
@[simp] theorem State.engCancel_hostLines (s : State) (n : Nat) : (s.engCancel n).hostLines = s.hostLines := rfl
@[simp] theorem State.engCancel_tagStates (s : State) (n : Nat) : (s.engCancel n).tagStates = s.tagStates := rfl
@[simp] theorem State.engCancel_sets (s : State) (n : Nat) : (s.engCancel n).sets = s.sets := rfl
@[simp] theorem State.engCancel_queues (s : State) (n : Nat) : (s.engCancel n).queues = s.queues := rfl
@[simp] theorem State.engCancel_packetCopies (s : State) (n : Nat) : (s.engCancel n).packetCopies = s.packetCopies := rfl
@[simp] theorem State.engCancel_launches (s : State) (n : Nat) : (s.engCancel n).launches = s.launches := rfl
@[simp] theorem State.engCancel_grps (s : State) (n : Nat) : (s.engCancel n).grps = s.grps := rfl
@[simp] theorem State.engCancel_teams (s : State) (n : Nat) : (s.engCancel n).teams = s.teams := rfl
@[simp] theorem State.engCancel_waves (s : State) (n : Nat) : (s.engCancel n).waves = s.waves := rfl
@[simp] theorem State.engCancel_resv (s : State) (n : Nat) : (s.engCancel n).resv = s.resv := rfl
@[simp] theorem State.engCancel_bulk (s : State) (n : Nat) : (s.engCancel n).bulk = s.bulk := rfl
@[simp] theorem State.engCancel_eng (s : State) (n : Nat) : (s.engCancel n).eng = s.eng.filter (fun e => e.id != n) := rfl
@[simp] theorem State.engCancel_rays (s : State) (n : Nat) : (s.engCancel n).rays = s.rays := rfl
@[simp] theorem State.engCancel_rayCounts (s : State) (n : Nat) : (s.engCancel n).rayCounts = s.rayCounts := rfl
@[simp] theorem State.engCancel_pool (s : State) (n : Nat) : (s.engCancel n).pool = s.pool := rfl
@[simp] theorem State.engCancel_formed (s : State) (n : Nat) : (s.engCancel n).formed = s.formed := rfl
@[simp] theorem State.engCancel_heldTasks (s : State) (n : Nat) : (s.engCancel n).heldTasks = s.heldTasks := rfl
@[simp] theorem State.engCancel_faults (s : State) (n : Nat) : (s.engCancel n).faults = s.faults := rfl
@[simp] theorem State.engCancel_devWrites (s : State) (n : Nat) : (s.engCancel n).devWrites = s.devWrites := rfl
@[simp] theorem State.engCancel_waiters (s : State) (n : Nat) : (s.engCancel n).waiters = s.waiters := rfl
@[simp] theorem State.engCancel_kvBlocks (s : State) (n : Nat) : (s.engCancel n).kvBlocks = s.kvBlocks := rfl
@[simp] theorem State.engCancel_kvNames (s : State) (n : Nat) : (s.engCancel n).kvNames = s.kvNames := rfl
@[simp] theorem State.engCancel_groups (s : State) (n : Nat) : (s.engCancel n).groups = s.groups := rfl
@[simp] theorem State.engCancel_generations (s : State) (n : Nat) : (s.engCancel n).generations = s.generations := rfl
@[simp] theorem State.engCancel_cbWaiters (s : State) (n : Nat) : (s.engCancel n).cbWaiters = s.cbWaiters := rfl
@[simp] theorem State.engCancel_moves (s : State) (n : Nat) : (s.engCancel n).moves = s.moves := rfl
@[simp] theorem State.engCancel_heads (s : State) (n : Nat) : (s.engCancel n).heads = s.heads := rfl
@[simp] theorem State.engCancel_columns (s : State) (n : Nat) : (s.engCancel n).columns = s.columns := rfl
@[simp] theorem State.engCancel_regs (s : State) (n : Nat) : (s.engCancel n).regs = s.regs := rfl
@[simp] theorem State.engCancel_measure (s : State) (n : Nat) : (s.engCancel n).measure = s.measure := rfl
@[simp] theorem State.engCancel_errSeq (s : State) (n : Nat) : (s.engCancel n).errSeq = s.errSeq := rfl
@[simp] theorem State.engCancel_hostRead (s : State) (n : Nat) : (s.engCancel n).hostRead = s.hostRead := rfl
@[simp] theorem State.engCancel_hostReadPoison (s : State) (n : Nat) : (s.engCancel n).hostReadPoison = s.hostReadPoison := rfl
@[simp] theorem State.engCancel_dev (s : State) (n : Nat) : (s.engCancel n).dev = s.dev := rfl
@[simp] theorem State.engCancel_everEnabled (s : State) (n : Nat) : (s.engCancel n).everEnabled = s.everEnabled := rfl
@[simp] theorem State.engCancel_ns (s : State) (n : Nat) : (s.engCancel n).ns = s.ns := rfl
@[simp] theorem State.engCancel_cur (s : State) (n : Nat) : (s.engCancel n).cur = s.cur := rfl
@[simp] theorem State.engCancel_nextId (s : State) (n : Nat) : (s.engCancel n).nextId = s.nextId := rfl
@[simp] theorem State.engCancel_free (s : State) (n : Nat) : (s.engCancel n).free = s.free := rfl
@[simp] theorem State.engCancel_noRoom (s : State) (n : Nat) : (s.engCancel n).noRoom = s.noRoom := rfl
@[simp] theorem State.engCancel_turns (s : State) (n : Nat) : (s.engCancel n).turns = s.turns := rfl
@[simp] theorem State.engCancel_fuses (s : State) (n : Nat) : (s.engCancel n).fuses = s.fuses := rfl
@[simp] theorem State.engCancel_inputs (s : State) (n : Nat) : (s.engCancel n).inputs = s.inputs := rfl
@[simp] theorem State.release_mem (s : State) : (s.release).mem = s.mem := rfl
@[simp] theorem State.release_poison (s : State) : (s.release).poison = s.poison := rfl
@[simp] theorem State.release_badCopies (s : State) : (s.release).badCopies = s.badCopies := rfl
@[simp] theorem State.release_versions (s : State) : (s.release).versions = s.versions := rfl
@[simp] theorem State.release_tlb (s : State) : (s.release).tlb = s.tlb := rfl
@[simp] theorem State.release_moved (s : State) : (s.release).moved = s.moved := rfl
@[simp] theorem State.release_hostLines (s : State) : (s.release).hostLines = s.hostLines := rfl
@[simp] theorem State.release_tagStates (s : State) : (s.release).tagStates = s.tagStates := rfl
@[simp] theorem State.release_sets (s : State) : (s.release).sets = s.sets := rfl
@[simp] theorem State.release_queues (s : State) : (s.release).queues = s.queues := rfl
@[simp] theorem State.release_packetCopies (s : State) : (s.release).packetCopies = s.packetCopies := rfl
@[simp] theorem State.release_launches (s : State) : (s.release).launches = s.launches := rfl
@[simp] theorem State.release_grps (s : State) : (s.release).grps = s.grps := rfl
@[simp] theorem State.release_teams (s : State) : (s.release).teams = s.teams := rfl
@[simp] theorem State.release_waves (s : State) : (s.release).waves = s.waves := rfl
@[simp] theorem State.release_resv (s : State) : (s.release).resv = s.resv := rfl
@[simp] theorem State.release_bulk (s : State) : (s.release).bulk = s.bulk := rfl
@[simp] theorem State.release_eng (s : State) : (s.release).eng = s.eng := rfl
@[simp] theorem State.release_rays (s : State) : (s.release).rays = s.rays := rfl
@[simp] theorem State.release_rayCounts (s : State) : (s.release).rayCounts = s.rayCounts := rfl
@[simp] theorem State.release_pool (s : State) : (s.release).pool = s.pool := rfl
@[simp] theorem State.release_formed (s : State) : (s.release).formed = s.formed := rfl
@[simp] theorem State.release_heldTasks (s : State) : (s.release).heldTasks = s.heldTasks := rfl
@[simp] theorem State.release_faults (s : State) : (s.release).faults = s.faults := rfl
@[simp] theorem State.release_devWrites (s : State) : (s.release).devWrites = s.devWrites := rfl
@[simp] theorem State.release_waiters (s : State) : (s.release).waiters = s.waiters := rfl
@[simp] theorem State.release_kvBlocks (s : State) : (s.release).kvBlocks = s.kvBlocks := rfl
@[simp] theorem State.release_kvNames (s : State) : (s.release).kvNames = s.kvNames := rfl
@[simp] theorem State.release_groups (s : State) : (s.release).groups = s.groups := rfl
@[simp] theorem State.release_generations (s : State) : (s.release).generations = s.generations := rfl
@[simp] theorem State.release_cbWaiters (s : State) : (s.release).cbWaiters = s.cbWaiters := rfl
@[simp] theorem State.release_moves (s : State) : (s.release).moves = s.moves := rfl
@[simp] theorem State.release_heads (s : State) : (s.release).heads = s.heads := rfl
@[simp] theorem State.release_columns (s : State) : (s.release).columns = s.columns := rfl
@[simp] theorem State.release_regs (s : State) : (s.release).regs = s.regs := rfl
@[simp] theorem State.release_measure (s : State) : (s.release).measure = s.measure := rfl
@[simp] theorem State.release_errSeq (s : State) : (s.release).errSeq = s.errSeq := rfl
@[simp] theorem State.release_hostRead (s : State) : (s.release).hostRead = s.hostRead := rfl
@[simp] theorem State.release_hostReadPoison (s : State) : (s.release).hostReadPoison = s.hostReadPoison := rfl
@[simp] theorem State.release_dev (s : State) : (s.release).dev = s.dev := rfl
@[simp] theorem State.release_everEnabled (s : State) : (s.release).everEnabled = s.everEnabled := rfl
@[simp] theorem State.release_ns (s : State) : (s.release).ns = s.ns := rfl
@[simp] theorem State.release_cur (s : State) : (s.release).cur = 0 := rfl
@[simp] theorem State.release_nextId (s : State) : (s.release).nextId = s.nextId := rfl
@[simp] theorem State.release_free (s : State) : (s.release).free = s.free := rfl
@[simp] theorem State.release_noRoom (s : State) : (s.release).noRoom = s.noRoom := rfl
@[simp] theorem State.release_turns (s : State) : (s.release).turns = s.turns := rfl
@[simp] theorem State.release_fuses (s : State) : (s.release).fuses = s.fuses := rfl
@[simp] theorem State.release_inputs (s : State) : (s.release).inputs = s.inputs := rfl

/-- The wave that was put back is the one found. -/
@[simp] theorem State.wave?_setWave (s : State) (w : Wave) : (s.setWave w).wave? w.uid = some w := by
  simp [State.wave?, State.setWave]

end Sys2Proof.Machine
end

