-- ==== Sys2Proof/Laws/Writes.lean ====
section
/-!
SUPPORT. Laws of issue and of register writes: what a plain instruction, one of class S2 and a uniform one do, once each.
-/

namespace Sys2Proof.Machine

/-- Two writes name different elements. -/
def apart (x y : RegW) : Prop := ¬(x.row = y.row ∧ x.lane = y.lane)

/-- The writes of one instruction: no element twice, lanes of a wave. -/
structure Sound (ws : List RegW) : Prop where
  apart : ws.Pairwise apart
  lanes : ∀ x ∈ ws, x.lane < 64

/-- An instruction issued by a wave answers what its meaning answers. -/
theorem issue_next {s : State} {c : Ctx} {f : Ctx → Except Raise State} {t : State} (h : s.ctx? = some c)
    (ht : f c = .ok t) : s.issue f = .next t := by
  simp [State.issue, h, ht]

/-- An instruction that raises takes its trap. -/
theorem issue_raise {s : State} {c : Ctx} {f : Ctx → Except Raise State} {e : Raise} (h : s.ctx? = some c)
    (he : f c = .error e) : s.issue f = .next (c.trap e) := by
  simp [State.issue, h, he]

/-- The context's state is the state that issues. -/
theorem ctx_state {s : State} {c : Ctx} (h : s.ctx? = some c) : c.s = s := by
  unfold State.ctx? at h
  split at h
  · cases h
  · split at h
    · cases h
    · cases h
      rfl

/-- A row after a row is set. -/
theorem row_tset (w : Wave) (r j : Nat) (x : Row) :
    Wave.row { w with rows := tset w.rows r x } j = if j = r then x else w.row j := by
  unfold Wave.row
  by_cases h : j = r
  · simp [h]
  · simp [h, tgetD_tset_ne]

/-- Poison marks of the other lanes stay. -/
theorem setPoison_other (x : Row) (l m : Nat) (on : Bool) (h : m ≠ l) :
    (x.setPoison l on).poison.getLsbD m = x.poison.getLsbD m := by
  have hs : (1#64 <<< l).getLsbD m = false := by
    simp only [BitVec.getLsbD_shiftLeft, BitVec.getLsbD_one]
    by_cases h2 : m < l
    · simp [h2]
    · have : m - l ≠ 0 := by omega
      simp [this]
  unfold Row.setPoison
  cases on
  · by_cases hm : m < 64
    · simp only [Bool.false_eq_true, if_false, BitVec.getLsbD_and, BitVec.getLsbD_not, hs]
      simp [hm]
    · simp [BitVec.getLsbD_of_ge _ _ (Nat.le_of_not_lt hm)]
  · simp only [if_true, BitVec.getLsbD_or, hs, Bool.or_false]

/-- A lane's poison mark after a write. -/
theorem setPoison_same (x : Row) (l : Nat) (on : Bool) (h : l < 64) : (x.setPoison l on).poison.getLsbD l = on := by
  unfold Row.setPoison
  cases on <;> simp [h]

/-- The row after one element is written. -/
theorem row_writeElem (w : Wave) (r l : Nat) (v : Word) (p : Bool) (j : Nat) :
    (w.writeElem r l v p).row j =
      if j = r then ({ w.row r with elems := tset (w.row r).elems l v } : Row).setPoison l p else w.row j := by
  have h := row_tset w r j (({ w.row r with elems := tset (w.row r).elems l v } : Row).setPoison l p)
  unfold Wave.writeElem Wave.settleLatent
  simp only
  split
  · exact h
  · split
    · split <;> exact h
    · exact h

/-- An element after one element is written. -/
theorem elem_writeElem (w : Wave) (r l : Nat) (v : Word) (p : Bool) (j m : Nat) :
    (w.writeElem r l v p).elem j m = if j = r ∧ m = l then v else w.elem j m := by
  unfold Wave.elem
  rw [row_writeElem]
  by_cases hj : j = r
  · subst hj
    simp only [if_true, true_and]
    show tgetD (tset (w.row j).elems l v) m 0 = _
    by_cases hm : m = l
    · simp [hm]
    · simp [hm, tgetD_tset_ne]
  · simp [hj]

/-- The tag of a row after one element is written. -/
theorem tag_writeElem (w : Wave) (r l : Nat) (v : Word) (p : Bool) (j : Nat) :
    ((w.writeElem r l v p).row j).tag = (w.row j).tag := by
  rw [row_writeElem]
  split
  · rename_i h
    subst h
    rfl
  · rfl

/-- What a list of element writes does to the rows. -/
theorem writeElems_spec (ws : List RegW) (w : Wave) (hap : ws.Pairwise apart) (hl : ∀ x ∈ ws, x.lane < 64) :
    (∀ x ∈ ws, (w.writeElems ws).elem x.row x.lane = x.val) ∧
    (∀ x ∈ ws, ((w.writeElems ws).row x.row).poison.getLsbD x.lane = x.pois) ∧
    (∀ r l, (∀ x ∈ ws, x.row = r → x.lane ≠ l) → (w.writeElems ws).elem r l = w.elem r l) ∧
    (∀ r l, (∀ x ∈ ws, x.row = r → x.lane ≠ l) →
      ((w.writeElems ws).row r).poison.getLsbD l = (w.row r).poison.getLsbD l) ∧
    (∀ r, ((w.writeElems ws).row r).tag = (w.row r).tag) := by
  induction ws generalizing w with
  | nil => simp [Wave.writeElems]
  | cons x t ih =>
    obtain ⟨hx, ht⟩ := List.pairwise_cons.mp hap
    obtain ⟨i1, i2, i3, i4, i5⟩ := ih (w.writeElem x.row x.lane x.val x.pois) ht (fun y hy => hl y (by simp [hy]))
    have hstep : w.writeElems (x :: t) = (w.writeElem x.row x.lane x.val x.pois).writeElems t := rfl
    have hfree : ∀ y ∈ t, y.row = x.row → y.lane ≠ x.lane := fun y hy hr he => hx y hy ⟨hr.symm, he.symm⟩
    rw [hstep]
    refine ⟨?_, ?_, ?_, ?_, ?_⟩
    · intro y hy
      rcases List.mem_cons.mp hy with rfl | hy
      · rw [i3 _ _ hfree, elem_writeElem]
        simp
      · exact i1 y hy
    · intro y hy
      rcases List.mem_cons.mp hy with rfl | hy
      · rw [i4 _ _ hfree, row_writeElem]
        simp only [if_true]
        exact setPoison_same _ _ _ (hl y (by simp))
      · exact i2 y hy
    · intro r l h
      rw [i3 r l (fun y hy => h y (by simp [hy])), elem_writeElem, if_neg]
      rintro ⟨rfl, rfl⟩
      exact h x (by simp) rfl rfl
    · intro r l h
      rw [i4 r l (fun y hy => h y (by simp [hy])), row_writeElem]
      split
      · rename_i he
        subst he
        exact setPoison_other _ _ _ _ (Ne.symm (h x (by simp) rfl))
      · rfl
    · intro r
      rw [i5, tag_writeElem]

/-- Everything of a wave but its rows and the latent poison bit stays when an element is written. -/
theorem writeElem_other (w : Wave) (r l : Nat) (v : Word) (p : Bool) :
    ({ w.writeElem r l v p with rows := w.rows, errstat := w.errstat } : Wave) = w := by
  unfold Wave.writeElem Wave.settleLatent
  simp only
  split
  · rfl
  · split
    · split <;> rfl
    · rfl

/-- Everything of a wave but its rows and the latent poison bit stays when elements are written. -/
theorem writeElems_other (ws : List RegW) (w : Wave) :
    ({ w.writeElems ws with rows := w.rows, errstat := w.errstat } : Wave) = w := by
  induction ws generalizing w with
  | nil => rfl
  | cons x t ih =>
    have h := ih (w.writeElem x.row x.lane x.val x.pois)
    have hstep : w.writeElems (x :: t) = (w.writeElem x.row x.lane x.val x.pois).writeElems t := rfl
    rw [hstep]
    calc ({ (w.writeElem x.row x.lane x.val x.pois).writeElems t with rows := w.rows, errstat := w.errstat } : Wave)
        = ({ ({ (w.writeElem x.row x.lane x.val x.pois).writeElems t with
                rows := (w.writeElem x.row x.lane x.val x.pois).rows
                errstat := (w.writeElem x.row x.lane x.val x.pois).errstat } : Wave) with
              rows := w.rows, errstat := w.errstat } : Wave) := rfl
      _ = ({ w.writeElem x.row x.lane x.val x.pois with rows := w.rows, errstat := w.errstat } : Wave) := by rw [h]
      _ = w := writeElem_other w x.row x.lane x.val x.pois

/-- The rows after one element is written. -/
theorem rows_writeElem (w : Wave) (r l : Nat) (v : Word) (p : Bool) :
    (w.writeElem r l v p).rows =
      tset w.rows r (({ w.row r with elems := tset (w.row r).elems l v } : Row).setPoison l p) := by
  unfold Wave.writeElem Wave.settleLatent
  simp only
  split
  · rfl
  · split
    · split <;> rfl
    · rfl

/-- sr.errstat after one element is written (R420). -/
theorem errstat_writeElem (w : Wave) (r l : Nat) (v : Word) (p : Bool) :
    (w.writeElem r l v p).errstat =
      if p then w.errstat ||| 2
      else if (w.row r).poison.getLsbD l && !(w.writeElem r l v p).hasLatent then w.errstat &&& ~~~2#64
      else w.errstat := by
  have h : (w.writeElem r l v p).hasLatent =
      Wave.hasLatent { w with rows := tset w.rows r (({ w.row r with elems := tset (w.row r).elems l v } :
        Row).setPoison l p) } := by
    unfold Wave.hasLatent
    rw [rows_writeElem]
  rw [h]
  unfold Wave.writeElem Wave.settleLatent
  cases p
  · simp only [Bool.false_eq_true, if_false]
    generalize hb : (w.row r).poison.getLsbD l = b
    cases b
    · simp
    · simp only [if_true, Bool.true_and]
      generalize Wave.hasLatent _ = g
      cases g <;> rfl
  · rfl

/-- A row with a poisoned element that nothing has consumed. -/
theorem latent_of {x : Row} {l : Nat} (hp : x.poison.getLsbD l = true) (hs : x.seen.getLsbD l = false) :
    x.latent = true := by
  unfold Row.latent
  rw [bne_iff_ne]
  intro h
  have hl : l < 64 := by
    by_cases h : l < 64
    · exact h
    · simp [BitVec.getLsbD_of_ge _ _ (Nat.le_of_not_lt h)] at hp
  have := congrArg (fun z => BitVec.getLsbD z l) h
  simp only [BitVec.getLsbD_and, BitVec.getLsbD_not, hp, hs, hl] at this
  simp at this

/-- A row that holds such poison has such an element. -/
theorem latent_elem {x : Row} (h : x.latent = true) : ∃ l, x.poison.getLsbD l = true ∧ x.seen.getLsbD l = false := by
  unfold Row.latent at h
  rw [bne_iff_ne] at h
  by_cases hc : ∃ l, x.poison.getLsbD l = true ∧ x.seen.getLsbD l = false
  · exact hc
  · refine absurd (BitVec.eq_of_getLsbD_eq fun i hi => ?_) h
    simp only [BitVec.getLsbD_and, BitVec.getLsbD_not]
    cases hp : x.poison.getLsbD i
    · simp
    · cases hs : x.seen.getLsbD i
      · exact absurd ⟨i, hp, hs⟩ hc
      · simp

/-- Consumed marks of the other lanes stay. -/
theorem setPoison_seen (x : Row) (l m : Nat) (on : Bool) (h : m ≠ l) :
    (x.setPoison l on).seen.getLsbD m = x.seen.getLsbD m := by
  have := setPoison_other { x with poison := x.seen } l m false h
  exact this

/-- A lane's consumed mark after a write. -/
theorem setPoison_seen_same (x : Row) (l : Nat) (on : Bool) (h : l < 64) : (x.setPoison l on).seen.getLsbD l = false := by
  have := setPoison_same { x with poison := x.seen } l false h
  exact this

/-- Poison that a write of a row leaves was there before, or is what it wrote. -/
theorem latent_setPoison {x : Row} {l : Nat} {on : Bool} (h : (x.setPoison l on).latent = true) (hl : l < 64) :
    on = true ∨ x.latent = true := by
  obtain ⟨m, hp, hs⟩ := latent_elem h
  by_cases hm : m = l
  · subst hm
    rw [setPoison_same _ _ _ hl] at hp
    exact .inl hp
  · rw [setPoison_other _ _ _ _ hm] at hp
    rw [setPoison_seen _ _ _ _ hm] at hs
    exact .inr (latent_of hp hs)

/-- Poison of another element stays. -/
theorem latent_kept {x : Row} {l : Nat} {on : Bool} (h : x.latent = true) (hc : x.poison.getLsbD l = false) :
    (x.setPoison l on).latent = true := by
  obtain ⟨m, hp, hs⟩ := latent_elem h
  have hm : m ≠ l := by
    rintro rfl
    rw [hc] at hp
    cases hp
  exact latent_of (by rw [setPoison_other _ _ _ _ hm]; exact hp) (by rw [setPoison_seen _ _ _ _ hm]; exact hs)

/-- A wave with a row that holds such poison. -/
theorem hasLatent_of {w : Wave} {r : Nat} (h : (w.row r).latent = true) : w.hasLatent = true :=
  any_of_tgetD w.rows r Row.empty Row.latent (by decide) h

/-- A clean write leaves no poison that was not there. -/
theorem hasLatent_writeElem {w : Wave} {r l : Nat} {v : Word} {p : Bool} (hl : l < 64)
    (h : (w.writeElem r l v p).hasLatent = true) : p = true ∨ w.hasLatent = true := by
  unfold Wave.hasLatent at h
  rw [rows_writeElem] at h
  rcases any_tset _ _ _ Row.latent h with h | h
  · exact (latent_setPoison h hl).imp id (fun h => hasLatent_of (w := w) (r := r) h)
  · exact .inr h

/-- A poisoned write leaves poison, and one of a clean element takes none away. -/
theorem hasLatent_kept {w : Wave} {r l : Nat} {v : Word} {p : Bool} (hl : l < 64)
    (h : p = true ∨ (w.hasLatent = true ∧ (w.row r).poison.getLsbD l = false)) :
    (w.writeElem r l v p).hasLatent = true := by
  unfold Wave.hasLatent
  rw [rows_writeElem]
  rcases h with rfl | ⟨h, hc⟩
  · exact any_tset_new _ _ _ Row.latent
      (latent_of (l := l) (setPoison_same _ _ _ hl) (setPoison_seen_same _ _ _ hl))
  · rcases any_tset_old w.rows r _ Row.empty Row.latent h with h | h
    · exact h
    · exact any_tset_new _ _ _ Row.latent
        (latent_kept (x := { w.row r with elems := tset (w.row r).elems l v }) h hc)

/-- Clean writes leave no poison that was not there. -/
theorem hasLatent_writeElems (ws : List RegW) (w : Wave) (hl : ∀ x ∈ ws, x.lane < 64)
    (h : (w.writeElems ws).hasLatent = true) : ws.any (fun x => x.pois) = true ∨ w.hasLatent = true := by
  induction ws generalizing w with
  | nil => exact .inr h
  | cons x t ih =>
    simp only [List.any_cons, Bool.or_eq_true]
    rcases ih (w.writeElem x.row x.lane x.val x.pois) (fun y hy => hl y (by simp [hy])) h with h | h
    · exact .inl (.inr h)
    · exact (hasLatent_writeElem (hl x (by simp)) h).imp .inl id

/-- The bits of sr.errstat but the latent one stay when elements are written. -/
theorem errstat_others (ws : List RegW) (w : Wave) : (w.writeElems ws).errstat ||| 2 = w.errstat ||| 2 := by
  induction ws generalizing w with
  | nil => rfl
  | cons x t ih =>
    show ((w.writeElem x.row x.lane x.val x.pois).writeElems t).errstat ||| 2 = _
    rw [ih, errstat_writeElem]
    have h2 : ∀ i, (2#64).getLsbD i = decide (i = 1) := fun i => by
      rw [BitVec.getLsbD_ofNat]
      by_cases h1 : i = 1
      · subst h1
        rfl
      · have : Nat.testBit 2 i = false := by
          rw [show (2 : Nat) = 2 ^ 1 from rfl, Nat.testBit_two_pow]
          simp [Ne.symm h1]
        simp [this, h1]
    show (if x.pois then w.errstat ||| 2#64 else if _ then w.errstat &&& ~~~2#64 else w.errstat) ||| 2#64 = w.errstat ||| 2#64
    split
    · rw [BitVec.or_assoc, BitVec.or_self]
    · split
      · refine BitVec.eq_of_getLsbD_eq fun i hi => ?_
        simp only [BitVec.getLsbD_or, BitVec.getLsbD_and, BitVec.getLsbD_not, h2, hi]
        by_cases hi1 : i = 1 <;> simp [hi1]
      · rfl

/-- A poisoned element that no later write of the list names keeps the latent bit set. -/
theorem latent_held (ws : List RegW) (w : Wave) (r l : Nat) (hf : ∀ x ∈ ws, x.row = r → x.lane ≠ l)
    (hp : (w.row r).poison.getLsbD l = true) (hs : (w.row r).seen.getLsbD l = false)
    (hb : w.errstat.getLsbD 1 = true) : (w.writeElems ws).errstat.getLsbD 1 = true := by
  induction ws generalizing w with
  | nil => exact hb
  | cons x t ih =>
    have hrow : ((w.writeElem x.row x.lane x.val x.pois).row r).poison.getLsbD l = true ∧
        ((w.writeElem x.row x.lane x.val x.pois).row r).seen.getLsbD l = false := by
      rw [row_writeElem]
      split
      · rename_i he
        subst he
        have hn := Ne.symm (hf x (by simp) rfl)
        exact ⟨by rw [setPoison_other _ _ _ _ hn]; exact hp, by rw [setPoison_seen _ _ _ _ hn]; exact hs⟩
      · exact ⟨hp, hs⟩
    refine ih (w.writeElem x.row x.lane x.val x.pois) (fun y hy => hf y (by simp [hy])) hrow.1 hrow.2 ?_
    rw [errstat_writeElem, hasLatent_of (latent_of hrow.1 hrow.2)]
    split
    · simp
    · simpa using hb

/-- A poisoned write of a list leaves the latent bit set (R420). -/
theorem writeElems_raised (ws : List RegW) (w : Wave) (hap : ws.Pairwise apart) (hl : ∀ x ∈ ws, x.lane < 64)
    (h : ws.any (fun x => x.pois) = true) : (w.writeElems ws).errstat.getLsbD 1 = true := by
  induction ws generalizing w with
  | nil => cases h
  | cons x t ih =>
    obtain ⟨hx, ht⟩ := List.pairwise_cons.mp hap
    simp only [List.any_cons, Bool.or_eq_true] at h
    by_cases hq : t.any (fun x => x.pois) = true
    · exact ih _ ht (fun y hy => hl y (by simp [hy])) hq
    · have hp : x.pois = true := h.resolve_right hq
      refine latent_held t _ x.row x.lane (fun y hy hr he => hx y hy ⟨hr.symm, he.symm⟩) ?_ ?_ ?_
      · rw [row_writeElem, if_pos rfl, hp]
        exact setPoison_same _ _ _ (hl x (by simp))
      · rw [row_writeElem, if_pos rfl]
        exact setPoison_seen_same _ _ _ (hl x (by simp))
      · rw [errstat_writeElem, if_pos hp]
        simp

/-- What a list of element writes does to sr.errstat (R420). -/
theorem writeElems_latent (ws : List RegW) (w : Wave) (hap : ws.Pairwise apart) (hl : ∀ x ∈ ws, x.lane < 64) :
    Latent w (ws.any (fun x => x.pois)) (w.writeElems ws) := by
  refine ⟨errstat_others ws w, writeElems_raised ws w hap hl, ?_, ?_, ?_⟩
  · intro hb h
    induction ws generalizing w with
    | nil => exact hb
    | cons x t ih =>
      obtain ⟨hx, ht⟩ := List.pairwise_cons.mp hap
      have hlt : ∀ y ∈ t, y.lane < 64 := fun y hy => hl y (by simp [hy])
      by_cases hq : (w.writeElem x.row x.lane x.val x.pois).errstat.getLsbD 1 = true
      · exact ih _ ht hlt hq h
      · rw [errstat_writeElem] at hq
        split at hq
        · simp at hq
        · split at hq
          · rename_i hn
            simp only [Bool.and_eq_true, Bool.not_eq_true'] at hn
            rcases hasLatent_writeElems t _ hlt h with h3 | h3
            · exact writeElems_raised t _ ht hlt h3
            · rw [hn.2] at h3
              cases h3
          · exact absurd hb hq
  · intro hn hb
    induction ws generalizing w with
    | nil => exact hb
    | cons x t ih =>
      simp only [List.any_cons, Bool.or_eq_false_iff] at hn
      refine ih _ (List.pairwise_cons.mp hap).2 (fun y hy => hl y (by simp [hy])) hn.2 ?_
      rw [errstat_writeElem, hn.1]
      simp only [Bool.false_eq_true, if_false]
      split
      · simp only [BitVec.getLsbD_and, hb, Bool.false_and]
      · exact hb
  · intro hh h
    have key : ∀ (ws : List RegW) (w : Wave), (∀ x ∈ ws, x.lane < 64) →
        w.errstat.getLsbD 1 = false ∨ w.hasLatent = true → (w.writeElems ws).hasLatent = false →
        (w.writeElems ws).errstat.getLsbD 1 = false := by
      intro ws
      induction ws with
      | nil =>
        intro w _ h1 h2
        exact h1.resolve_right (fun h3 => by rw [show w.hasLatent = false from h2] at h3; cases h3)
      | cons x t ih =>
        intro w hl h1 h2
        refine ih (w.writeElem x.row x.lane x.val x.pois) (fun y hy => hl y (by simp [hy])) ?_ h2
        by_cases hg : (w.writeElem x.row x.lane x.val x.pois).hasLatent = true
        · exact .inr hg
        · left
          have hp : x.pois = false := by
            cases hp : x.pois
            · rfl
            · exact absurd (hasLatent_kept (hl x (by simp)) (.inl hp)) hg
          rw [errstat_writeElem, hp, if_neg (by simp)]
          cases hc : (w.row x.row).poison.getLsbD x.lane
          · simp only [Bool.false_and, Bool.false_eq_true, if_false]
            refine h1.resolve_right fun h3 => hg (hasLatent_kept (hl x (by simp)) (.inr ⟨h3, hc⟩))
          · rw [hp] at hg
            simp [hg]
    exact key ws w hl (.inr hh) h

/-- A default read of a table after entries were set for some other keys. -/
theorem tgetD_foldl_other {β : Type} (l : List (Nat × Nat)) (e : Tbl β) (f : Nat → β) (m : Nat) (d : β)
    (h : ∀ p ∈ l, p.1 ≠ m) : tgetD (l.foldl (fun e p => tset e p.1 (f p.2)) e) m d = tgetD e m d := by
  induction l generalizing e with
  | nil => rfl
  | cons p t ih =>
    rw [List.foldl_cons, ih _ (fun q hq => h q (by simp [hq])), tgetD_tset_ne _ _ _ (Ne.symm (h p (by simp)))]

/-- What giving a row a tag does (R61, R63). -/
theorem retag_spec (s : State) (w : Wave) (r : Nat) (g : BitVec 16) :
    ({ (s.retag w r g).1 with free := s.free } : State) = s ∧ s.free ≤ (s.retag w r g).1.free ∧
    ({ (s.retag w r g).2 with rows := w.rows } : Wave) = w ∧ ((s.retag w r g).2.row r).tag = g ∧
    (∀ j, j ≠ r → (s.retag w r g).2.row j = w.row j) ∧
    (∀ j, ((s.retag w r g).2.row j).poison = (w.row j).poison) ∧
    (∀ j l, w.isLive l = true → (s.retag w r g).2.elem j l = w.elem j l) := by
  unfold State.retag
  simp only
  split
  · rename_i h
    subst h
    simp
  · refine ⟨rfl, Nat.le_add_right _ _, rfl, ?_, ?_, ?_, ?_⟩
    · rw [row_tset]
      simp
    · intro j hj
      rw [row_tset]
      simp [hj]
    · intro j
      rw [row_tset]
      split
      · rename_i h
        subst h
        rfl
      · rfl
    · intro j l hl
      unfold Wave.elem
      rw [row_tset]
      split
      · rename_i h
        subst h
        simp only
        refine tgetD_foldl_other _ _ (fun n => Config.freeWord (s.free + n)) _ _ ?_
        intro p hp he
        have hm := List.mem_zipIdx' hp
        have hg : ((List.range w.width).filter (fun l => !w.isLive l))[p.2]'hm.1 ∈
          (List.range w.width).filter (fun l => !w.isLive l) := List.getElem_mem _
        rw [← hm.2, he] at hg
        simp [hl] at hg
      · rfl

/-- What writing the tags of a list of rows does. -/
theorem retags_spec (l : List (Nat × BitVec 16)) (s : State) (w : Wave) :
    let p := l.foldl (fun (p : State × Wave) x => p.1.retag p.2 x.1 x.2) (s, w)
    ({ p.1 with free := s.free } : State) = s ∧ s.free ≤ p.1.free ∧ ({ p.2 with rows := w.rows } : Wave) = w ∧
    (∀ x ∈ l, (∀ y ∈ l, y.1 = x.1 → y.2 = x.2) → (p.2.row x.1).tag = x.2) ∧
    (∀ j, (∀ x ∈ l, x.1 ≠ j) → (p.2.row j).tag = (w.row j).tag) ∧
    (∀ j, (p.2.row j).poison = (w.row j).poison) ∧
    (∀ j m, w.isLive m = true → p.2.elem j m = w.elem j m) := by
  induction l generalizing s w with
  | nil => simp
  | cons x t ih =>
    obtain ⟨r1, r2, r3, r4, r5, r6, r7⟩ := retag_spec s w x.1 x.2
    obtain ⟨i1, i2, i3, i4, i5, i6, i7⟩ := ih (s.retag w x.1 x.2).1 (s.retag w x.1 x.2).2
    simp only [List.foldl_cons]
    refine ⟨?_, Nat.le_trans r2 i2, ?_, ?_, ?_, ?_, ?_⟩
    · have := congrArg (fun z : State => ({ z with free := s.free } : State)) i1
      exact this.trans r1
    · have := congrArg (fun z : Wave => ({ z with rows := w.rows } : Wave)) i3
      exact this.trans r3
    · intro y hy hu
      rcases List.mem_cons.mp hy with rfl | hy
      · by_cases hex : ∃ z ∈ t, z.1 = y.1
        · obtain ⟨z, hz, hzy⟩ := hex
          have hzv : z.2 = y.2 := hu z (by simp [hz]) hzy
          have := i4 z hz (fun q hq hqz => by
            rw [hzv]
            exact hu q (by simp [hq]) (hqz.trans hzy))
          rw [hzy, hzv] at this
          exact this
        · rw [i5 _ (fun z hz he => hex ⟨z, hz, he⟩)]
          exact r4
      · exact i4 y hy (fun z hz => hu z (by simp [hz]))
    · intro j hj
      rw [i5 j (fun z hz => hj z (by simp [hz])), r5 j (Ne.symm (hj x (by simp)))]
    · intro j
      rw [i6, r6]
    · intro j m hm
      have hlive : (s.retag w x.1 x.2).2.isLive m = true := by
        have hv : (s.retag w x.1 x.2).2.vpc = w.vpc := by
          have := congrArg (fun z : Wave => z.vpc) r3
          exact this
        unfold Wave.isLive Wave.vpcOf at hm ⊢
        rw [hv]
        exact hm
      rw [i7 j m hlive, r7 j m hm]

/-- The members of a list without repeats. -/
theorem mem_dedup {β : Type} [DecidableEq β] (l : List β) (x : β) : x ∈ dedup l ↔ x ∈ l := by
  induction l with
  | nil => simp [dedup]
  | cons y t ih =>
    simp only [dedup, List.mem_cons, List.mem_filter, ih, decide_eq_true_eq]
    constructor
    · rintro (h | ⟨h, -⟩)
      · exact .inl h
      · exact .inr h
    · rintro (h | h)
      · exact .inl h
      · by_cases he : x = y
        · exact .inl he
        · exact .inr ⟨h, he⟩

/-- A choice among candidates is one of them. -/
theorem choose_mem {α : Type} (key : Nat) (d : α) (l : List α) (h : l ≠ []) : choose key d l ∈ l := by
  match l, h with
  | [x], _ => simp [choose]
  | x :: y :: t, _ =>
    have hlt : Config.pick key % (x :: y :: t).length < (x :: y :: t).length := Nat.mod_lt _ (by simp)
    show ((x :: y :: t)[Config.pick key % (x :: y :: t).length]?).getD d ∈ _
    rw [List.getElem?_eq_getElem hlt]
    exact List.getElem_mem hlt

/-- The tags that a list of writes gives to a row. -/
theorem mem_rowTags (ws : List RegW) (r : Nat) (g : BitVec 16) : g ∈ rowTags ws r ↔ ∃ x ∈ ws, x.row = r ∧ x.tag = some g := by
  unfold rowTags
  rw [mem_dedup, List.mem_filterMap]
  refine exists_congr fun x => and_congr_right fun _ => ?_
  by_cases h : x.row = r <;> simp [h]

/-- The tags that a list of writes gives: each is one that a write gives to that row. -/
theorem mem_tagWrites (key : Nat) (ws : List RegW) (e : Nat × BitVec 16) (h : e ∈ tagWrites key ws) :
    ∃ x ∈ ws, x.row = e.1 ∧ x.tag = some e.2 := by
  unfold tagWrites at h
  obtain ⟨r, hr, rfl⟩ := List.mem_map.mp h
  rw [mem_dedup, List.mem_filterMap] at hr
  obtain ⟨x, hx, he⟩ := hr
  cases ht : x.tag with
  | none => simp [ht] at he
  | some g =>
    simp only [ht, Option.map_some, Option.some.injEq] at he
    have hmem : g ∈ rowTags ws r := (mem_rowTags _ _ _).mpr ⟨x, hx, he, ht⟩
    exact (mem_rowTags _ _ _).mp (choose_mem _ _ _ (fun hn => by simp [hn] at hmem))

/-- Every row that a write gives a tag is in the list. -/
theorem tagWrites_row (key : Nat) (ws : List RegW) (x : RegW) (hx : x ∈ ws) (ht : x.tag ≠ none) :
    ∃ e ∈ tagWrites key ws, e.1 = x.row := by
  unfold tagWrites
  refine ⟨_, List.mem_map.mpr ⟨x.row, ?_, rfl⟩, rfl⟩
  rw [mem_dedup, List.mem_filterMap]
  cases hg : x.tag with
  | none => exact absurd hg ht
  | some g => exact ⟨x, hx, by simp [hg]⟩

/-- What writing the tags of a list of writes does (R61, R177). -/
theorem writeTags_spec (s : State) (w : Wave) (ws : List RegW) :
    ({ (s.writeTags w ws).1 with free := s.free } : State) = s ∧ s.free ≤ (s.writeTags w ws).1.free ∧
    ({ (s.writeTags w ws).2 with rows := w.rows } : Wave) = w ∧ Tagged w ws (s.writeTags w ws).2 := by
  obtain ⟨a1, a2, a3, a4, a5, a6, a7⟩ := retags_spec (tagWrites w.pc ws) s w
  refine ⟨a1, a2, a3, ?_, fun r l hl => a7 r l hl, a6, ?_⟩
  · intro x hx ht
    obtain ⟨e, he, hr⟩ := tagWrites_row w.pc ws x hx ht
    obtain ⟨y, hy, h1, h2⟩ := mem_tagWrites _ _ _ he
    refine ⟨y, hy, h1.trans hr, ?_⟩
    have hu := a4 e he (fun z hz hze => by
      unfold tagWrites at hz he
      obtain ⟨r1, -, rfl⟩ := List.mem_map.mp hz
      obtain ⟨r2, -, rfl⟩ := List.mem_map.mp he
      simp only at hze
      rw [hze])
    rw [← hr, h2]
    exact congrArg some hu.symm
  · intro r hr
    refine a5 r (fun e he hre => ?_)
    obtain ⟨z, hz, h1, h2⟩ := mem_tagWrites _ _ _ he
    rw [hr z hz (h1.trans hre)] at h2
    cases h2

/-- Giving a row a tag leaves poison as it was. -/
theorem retag_latent (s : State) (w : Wave) (r : Nat) (g : BitVec 16) : (s.retag w r g).2.hasLatent = w.hasLatent := by
  have key : ∀ x : Row, x.latent = (w.row r).latent →
      Wave.hasLatent { w with rows := tset w.rows r x } = w.hasLatent := fun x hx => by
    rw [Bool.eq_iff_iff]
    constructor
    · intro h
      rcases any_tset _ _ _ Row.latent h with h | h
      · exact hasLatent_of (w := w) (r := r) (hx ▸ h)
      · exact h
    · intro h
      rcases any_tset_old w.rows r x Row.empty Row.latent h with h | h
      · exact h
      · exact any_tset_new _ _ _ Row.latent (hx.trans h)
  unfold State.retag
  simp only
  split
  · rfl
  · exact key _ rfl

/-- Writing tags leaves poison as it was. -/
theorem writeTags_latent (s : State) (w : Wave) (ws : List RegW) :
    (s.writeTags w ws).2.hasLatent = w.hasLatent := by
  unfold State.writeTags
  induction tagWrites w.pc ws generalizing s w with
  | nil => rfl
  | cons x t ih => exact (ih _ _).trans (retag_latent s w x.1 x.2)

/-- Tags first, then elements: what a list of writes does as a whole. -/
theorem wrote_of (s : State) (w : Wave) (ws : List RegW) (h : Sound ws) :
    Wrote w ws ((s.writeTags w ws).2.writeElems ws) := by
  obtain ⟨-, -, -, t⟩ := writeTags_spec s w ws
  obtain ⟨e1, e2, e3, e4, e5⟩ := writeElems_spec ws (s.writeTags w ws).2 h.apart h.lanes
  refine ⟨e1, ?_, e2, ?_, ?_, ?_⟩
  · intro x hx ht
    rw [e5]
    exact t.tag x hx ht
  · intro r l hl hf
    rw [e3 r l hf]
    exact t.frame r l hl
  · intro r l hf
    rw [e4 r l hf, t.clean]
  · intro r hr
    rw [e5]
    exact t.keeps r hr

/-- Checking mode changes only its own sets (R198). -/
theorem region_other {c : Ctx} {rd : List Nat} {wr : List (Nat × Nat)} {v : Wave} (h : c.region rd wr = .ok v) :
    ({ v with regionReads := c.w.regionReads, regionWrites := c.w.regionWrites } : Wave) = c.w := by
  unfold Ctx.region at h
  split at h
  · cases h
    rfl
  · simp only at h
    split at h
    · cases h
    · cases h
      rfl

/-- What raising flags does to a wave (R69, R225, R400). -/
theorem raiseFlags_spec (c : Ctx) (w : Wave) (fl : FFlags) (hl : w.launch = c.w.launch) (hm : w.mode = c.w.mode) :
    ({ c.raiseFlags w fl with fpflags := w.fpflags, fpPending := w.fpPending } : Wave) = w ∧
    (c.raiseFlags w fl).fpflags = w.fpflags ||| fl.zeroExtend 32 ∧
    (c.raiseFlags w fl).fpPending = w.fpPending ++ c.newTraps fl := by
  unfold Ctx.raiseFlags Ctx.newTraps
  rw [← hl, ← hm]
  split
  · rename_i h
    subst h
    refine ⟨rfl, ?_, ?_⟩
    · simp
    · simp
  · unfold Wave.raiseFlags
    simp only
    split
    · exact ⟨rfl, rfl, (List.append_nil _).symm⟩
    · exact ⟨rfl, rfl, rfl⟩

/-- What a check that passes means (R392). -/
theorem passed_ok {α : Type} {x : Except Raise α} (h : passed x = true) : ∃ a, x = .ok a := by
  cases x with
  | ok a => exact ⟨a, rfl⟩
  | error e => cases h

/-- A wave whose registers, flags and checking sets are put back is the wave from before, field by field. -/
theorem butRegs_other {w v1 v2 v3 u : Wave} (h1 : ({ v1 with regionReads := w.regionReads, regionWrites := w.regionWrites } : Wave) = w)
    (h2 : ({ v2 with rows := v1.rows } : Wave) = v1) (h3 : ({ v3 with rows := v2.rows, errstat := v2.errstat } : Wave) = v2)
    (h4 : ({ u with fpflags := v3.fpflags, fpPending := v3.fpPending } : Wave) = v3) : u.butRegs w = w := by
  have e4 := congrArg (fun z : Wave => z.butRegs w) h4
  have e3 := congrArg (fun z : Wave => z.butRegs w) h3
  have e2 := congrArg (fun z : Wave => z.butRegs w) h2
  have e1 := congrArg (fun z : Wave => z.butRegs w) h1
  exact e4.trans (e3.trans (e2.trans e1))

/-- What a plain vector instruction does once its checks pass (R50, R199, R200). -/
theorem vector_plain {c : Ctx} {o : OpSpec} {fl : FFlags} (hp : c.passes o = true) (hs : Sound o.writes) :
    ∃ t, c.vector o fl id = .ok t ∧ c.Plain o.writes fl (.next t) := by
  unfold Ctx.passes at hp
  obtain ⟨hc, hr⟩ := Bool.and_eq_true _ _ ▸ hp
  obtain ⟨u, hu⟩ := passed_ok hc
  obtain ⟨v1, hv1⟩ := passed_ok hr
  have hreg := region_other hv1
  obtain ⟨a1, a2, a3, -⟩ := writeTags_spec c.s v1 o.writes
  have hw := wrote_of c.s v1 o.writes hs
  refine ⟨c.done (c.s.writeTags v1 o.writes).1 (c.raiseFlags ((c.s.writeTags v1 o.writes).2.writeElems o.writes) fl), ?_, ?_⟩
  · unfold Ctx.vector
    simp [hu, hv1, bind, Except.bind, pure, Except.pure]
  · have ho := writeElems_other o.writes (c.s.writeTags v1 o.writes).2
    have he := writeElems_latent o.writes (c.s.writeTags v1 o.writes).2 hs.apart hs.lanes
    have f := fun {β : Type} (g : Wave → β) (hg : ∀ x r e, g { x with rows := r, errstat := e } = g x)
        (hk : ∀ x r, g { x with rows := r } = g x)
        (hj : ∀ x r e, g { x with regionReads := r, regionWrites := e } = g x) =>
      show g ((c.s.writeTags v1 o.writes).2.writeElems o.writes) = g c.w by
        rw [← hg _ (c.s.writeTags v1 o.writes).2.rows (c.s.writeTags v1 o.writes).2.errstat, ho, ← hk _ v1.rows, a3,
          ← hj _ c.w.regionReads c.w.regionWrites, hreg]
    obtain ⟨b1, b2, b3⟩ := raiseFlags_spec c ((c.s.writeTags v1 o.writes).2.writeElems o.writes) fl
      (f (·.launch) (fun _ _ _ => rfl) (fun _ _ => rfl) (fun _ _ _ => rfl))
      (f (·.mode) (fun _ _ _ => rfl) (fun _ _ => rfl) (fun _ _ _ => rfl))
    have hrows : (c.raiseFlags ((c.s.writeTags v1 o.writes).2.writeElems o.writes) fl).rows =
        ((c.s.writeTags v1 o.writes).2.writeElems o.writes).rows := congrArg (·.rows) b1
    have herr : (c.raiseFlags ((c.s.writeTags v1 o.writes).2.writeElems o.writes) fl).errstat =
        ((c.s.writeTags v1 o.writes).2.writeElems o.writes).errstat := congrArg (·.errstat) b1
    have hvrows : v1.rows = c.w.rows := congrArg (·.rows) hreg
    have hvlive : ∀ l, v1.isLive l = c.w.isLive l := fun l => by
      have : v1.vpc = c.w.vpc := congrArg (·.vpc) hreg
      simp [Wave.isLive, Wave.vpcOf, this]
    have hrow : ∀ r, v1.row r = c.w.row r := fun r => by simp [Wave.row, hvrows]
    have hrow2 : ∀ r, (c.raiseFlags ((c.s.writeTags v1 o.writes).2.writeElems o.writes) fl).row r =
        ((c.s.writeTags v1 o.writes).2.writeElems o.writes).row r := fun r => by simp [Wave.row, hrows]
    refine ⟨_, (c.s.writeTags v1 o.writes).1.free, ?_, a2, ⟨?_, ?_, ?_, ?_, ?_, ?_⟩, butRegs_other hreg a3 ho b1, ?_, ?_, ?_⟩
    · show Host.Outcome.next _ = _
      unfold Ctx.done
      congr 2
      have := congrArg (fun z : State => ({ z with free := (c.s.writeTags v1 o.writes).1.free } : State)) a1
      exact this
    · intro x hx
      simp only [Wave.elem, hrow2]
      exact hw.value x hx
    · intro x hx ht
      rw [hrow2]
      exact hw.tag x hx ht
    · intro x hx
      rw [hrow2]
      exact hw.poison x hx
    · intro r l hl hf
      have := hw.frame r l ((hvlive l).trans hl) hf
      simp only [Wave.elem, hrow2, hrow] at this ⊢
      exact this
    · intro r l hf
      rw [hrow2, hw.clean r l hf, hrow]
    · intro r hr'
      rw [hrow2, hw.keeps r hr', hrow]
    · have h1 : (c.s.writeTags v1 o.writes).2.errstat = v1.errstat := congrArg (·.errstat) a3
      have h2 : v1.errstat = c.w.errstat := congrArg (·.errstat) hreg
      have h3 := writeTags_latent c.s v1 o.writes
      have h4 : v1.hasLatent = c.w.hasLatent := by rw [Wave.hasLatent, Wave.hasLatent, hvrows]
      exact ⟨by rw [herr, he.others, h1, h2], fun h => by rw [herr]; exact he.raised h,
        fun hb h => by rw [herr]; exact he.stays (by rw [h1, h2]; exact hb) (by rw [Wave.hasLatent, ← hrows]; exact h),
        fun h hb => by rw [herr]; exact he.quiet h (by rw [h1, h2]; exact hb),
        fun hh h => by
          rw [herr]
          exact he.clears (by rw [h3, h4]; exact hh) (by rw [Wave.hasLatent, ← hrows]; exact h)⟩
    · rw [b2, f (·.fpflags) (fun _ _ _ => rfl) (fun _ _ => rfl) (fun _ _ _ => rfl)]
    · rw [b3, f (·.fpPending) (fun _ _ _ => rfl) (fun _ _ => rfl) (fun _ _ _ => rfl)]

/-- What an instruction of class S2 does once its checks pass (R50, R175, R177). -/
theorem variable_later {c : Ctx} {o : OpSpec} {fl : FFlags} {change : Wave → Wave} (hp : c.passes o = true)
    (hc : ∀ w, ({ change w with draw := w.draw } : Wave) = w)
    (hd : ∀ w a b, (change { w with regionReads := a, regionWrites := b }).draw = (change w).draw) :
    ∃ t, c.variable o fl change = .ok t ∧ c.Later o.writes fl change (.next t) := by
  unfold Ctx.passes at hp
  obtain ⟨hk, hr⟩ := Bool.and_eq_true _ _ ▸ hp
  obtain ⟨u, hu⟩ := passed_ok hk
  obtain ⟨v1, hv1⟩ := passed_ok hr
  have hreg := region_other hv1
  obtain ⟨a1, a2, a3, a4⟩ := writeTags_spec c.s (change v1) o.writes
  have f := fun {β : Type} (g : Wave → β) (hk : ∀ x r, g { x with rows := r } = g x)
      (hm : ∀ x r, g { x with draw := r } = g x)
      (hj : ∀ x r e, g { x with regionReads := r, regionWrites := e } = g x) =>
    show g (c.s.writeTags (change v1) o.writes).2 = g c.w by
      rw [← hk _ (change v1).rows, a3, ← hm _ v1.draw, hc, ← hj _ c.w.regionReads c.w.regionWrites, hreg]
  have hrows : (change v1).rows = c.w.rows := by
    have h1 : (change v1).rows = v1.rows := congrArg (·.rows) (hc v1)
    have h2 : v1.rows = c.w.rows := congrArg (·.rows) hreg
    rw [h1, h2]
  have hvpc : (change v1).vpc = c.w.vpc := by
    have h1 : (change v1).vpc = v1.vpc := congrArg (·.vpc) (hc v1)
    have h2 : v1.vpc = c.w.vpc := congrArg (·.vpc) hreg
    rw [h1, h2]
  have hrow : ∀ r, (change v1).row r = c.w.row r := fun r => by simp [Wave.row, hrows]
  have hlive : ∀ l, (change v1).isLive l = c.w.isLive l := fun l => by simp [Wave.isLive, Wave.vpcOf, hvpc]
  have hnp : (c.s.writeTags (change v1) o.writes).2.nextPend = c.w.nextPend :=
    f (·.nextPend) (fun _ _ => rfl) (fun _ _ => rfl) (fun _ _ _ => rfl)
  have hpd : (c.s.writeTags (change v1) o.writes).2.pend = c.w.pend :=
    f (·.pend) (fun _ _ => rfl) (fun _ _ => rfl) (fun _ _ _ => rfl)
  refine ⟨c.done (c.s.writeTags (change v1) o.writes).1 (c.attach (c.s.writeTags (change v1) o.writes).2
      (.regs (laterWrites o.writes) fl) (some c.sf2) (dedup (o.writes.map (·.row))) false false 2), ?_,
    c.attach (c.s.writeTags (change v1) o.writes).2
      (.regs (laterWrites o.writes) fl) (some c.sf2) (dedup (o.writes.map (·.row))) false false 2,
    (c.s.writeTags (change v1) o.writes).1.free, ?_, a2, ⟨?_, ?_, ?_, ?_⟩, ?_, ?_, ?_, ?_, ?_, ?_, ?_⟩
  · unfold Ctx.variable
    simp [hu, hv1, bind, Except.bind, pure, Except.pure]
  · unfold Ctx.done
    congr 2
    have := congrArg (fun z : State => ({ z with free := (c.s.writeTags (change v1) o.writes).1.free } : State)) a1
    exact this
  · exact a4.tag
  · intro r l hl
    have := a4.frame r l ((hlive l).trans hl)
    simp only [Wave.elem, hrow] at this
    exact this
  · intro r
    have := a4.clean r
    rw [hrow] at this
    exact this
  · intro r hr'
    have := a4.keeps r hr'
    rw [hrow] at this
    exact this
  · have e3 := congrArg (fun z : Wave =>
      ({ z.butRegs c.w with pend := c.w.pend, nextPend := c.w.nextPend, draw := c.w.draw } : Wave)) a3
    have e2 := congrArg (fun z : Wave =>
      ({ z.butRegs c.w with pend := c.w.pend, nextPend := c.w.nextPend, draw := c.w.draw } : Wave)) (hc v1)
    have e1 := congrArg (fun z : Wave =>
      ({ z.butRegs c.w with pend := c.w.pend, nextPend := c.w.nextPend, draw := c.w.draw } : Wave)) hreg
    exact e3.trans (e2.trans e1)
  · exact f (·.errstat) (fun _ _ => rfl) (fun _ _ => rfl) (fun _ _ _ => rfl)
  · exact f (·.fpflags) (fun _ _ => rfl) (fun _ _ => rfl) (fun _ _ _ => rfl)
  · exact f (·.fpPending) (fun _ _ => rfl) (fun _ _ => rfl) (fun _ _ _ => rfl)
  · have h1 : (c.s.writeTags (change v1) o.writes).2.draw = (change v1).draw := congrArg (·.draw) a3
    have h2 := congrArg (fun z : Wave => (change z).draw) hreg
    have h3 := hd v1 c.w.regionReads c.w.regionWrites
    exact h1.trans (h3.symm.trans h2)
  · show (c.s.writeTags (change v1) o.writes).2.nextPend + 1 = _
    rw [hnp]
  · show (c.s.writeTags (change v1) o.writes).2.pend ++ _ = _
    rw [hpd]
    unfold Ctx.resultsOf
    rw [hnp]

/-- What a uniform instruction does once its checks pass (R202, R223). -/
theorem uniform_setsK {c : Ctx} {d : Nat} {ks : List Nat} {v : DWord} (hd : d < 64) (hp : c.kPasses ks [d] = true) :
    ∃ t, c.uniform d ks v = .ok t ∧ c.SetsK d v (.next t) := by
  unfold Ctx.kPasses at hp
  obtain ⟨hk, hr⟩ := Bool.and_eq_true _ _ ▸ hp
  obtain ⟨u, hu⟩ := passed_ok hk
  obtain ⟨v1, hv1⟩ := passed_ok hr
  simp only [List.map_cons, List.map_nil] at hv1
  have hreg := region_other hv1
  have hkk : v1.k = c.w.k := congrArg (·.k) hreg
  have hkp : v1.kpoison = c.w.kpoison := congrArg (·.kpoison) hreg
  refine ⟨c.done c.s (v1.setK d v), ?_, v1.setK d v, rfl, ?_, ?_, ?_, ?_⟩
  · unfold Ctx.uniform
    simp [hu, hv1, bind, Except.bind, pure, Except.pure]
  · simp [Wave.kreg, Wave.setK]
  · simp [Wave.setK, hd]
  · intro j hj
    constructor
    · simp [Wave.kreg, Wave.setK, tgetD_tset_ne _ _ _ hj, hkk]
    · have hs : (1#64 <<< d).getLsbD j = false := by
        simp only [BitVec.getLsbD_shiftLeft, BitVec.getLsbD_one]
        by_cases h2 : j < d
        · simp [h2]
        · have : j - d ≠ 0 := by omega
          simp [this]
      simp only [Wave.setK, hkp, BitVec.getLsbD_and, BitVec.getLsbD_not, hs]
      by_cases h64 : j < 64
      · simp [h64]
      · simp [BitVec.getLsbD_of_ge _ _ (Nat.le_of_not_lt h64)]
  · exact congrArg (fun z : Wave => ({ z with k := c.w.k, kpoison := c.w.kpoison } : Wave)) hreg

end Sys2Proof.Machine
end

