-- ==== Sys2Proof/Tests/Slice0.lean ====
section
/-!
SUPPORT. Tests of the model: words written out from the field tables of R36 and the numbers of R48, an ill-formed term for each
check of R35, single steps with the values that the rules give, and the states that meet the hypotheses of the statements.
-/

open Sys2Proof Sys2Proof.Machine

namespace Sys2Proof.Tests

set_option Elab.async false

/-! ### Decoding: a word of every form (R36, R48) -/

theorem test_decode_major_01_0 :
    decodeTableWord 32 0x0430A190 = some (.add 6 10 12 1) ∧
    decodeTableWord 32 0x0430A191 = some (.sub 6 10 12 1) ∧
    decodeTableWord 32 0x0430A192 = some (.mul 6 10 12 1) ∧
    decodeTableWord 32 0x0430A193 = some (.mulh 6 10 12 1) ∧
    decodeTableWord 32 0x0430A194 = some (.mulhu 6 10 12 1) ∧
    decodeTableWord 32 0x0430A195 = some (.mad 6 10 12 1) ∧
    decodeTableWord 32 0x0430A196 = some (.min 6 10 12 1) ∧
    decodeTableWord 32 0x0430A197 = some (.max 6 10 12 1) ∧
    decodeTableWord 32 0x0430A198 = some (.minu 6 10 12 1) ∧
    decodeTableWord 32 0x0430A199 = some (.maxu 6 10 12 1) ∧
    decodeTableWord 32 0x0430A19A = some (.absd 6 10 12 1) ∧
    decodeTableWord 32 0x0430A19B = some (.adds 6 10 12 1) := by decide

theorem test_decode_major_01_1 :
    decodeTableWord 32 0x0430A19C = some (.subs 6 10 12 1) ∧
    decodeTableWord 32 0x0430A19D = some (.avg 6 10 12 1) := by decide

theorem test_decode_major_02 :
    decodeTableWord 32 0x0830A190 = some (.and 6 10 12 1) ∧
    decodeTableWord 32 0x0830A191 = some (.or 6 10 12 1) ∧
    decodeTableWord 32 0x0830A192 = some (.xor 6 10 12 1) ∧
    decodeTableWord 32 0x0830A193 = some (.andn 6 10 12 1) ∧
    decodeTableWord 32 0x0830A004 = some (.not 6 10) ∧
    decodeTableWord 32 0x0830A195 = some (.shl 6 10 12 1) ∧
    decodeTableWord 32 0x0830A196 = some (.shr 6 10 12 1) ∧
    decodeTableWord 32 0x0830A197 = some (.sar 6 10 12 1) ∧
    decodeTableWord 32 0x0830A198 = some (.rotl 6 10 12 1) ∧
    decodeTableWord 32 0x0830A009 = some (.popc 6 10) ∧
    decodeTableWord 32 0x0830A00A = some (.clz 6 10) ∧
    decodeTableWord 32 0x0830A00B = some (.brev 6 10) := by decide

theorem test_decode_major_03 :
    decodeTableWord 32 0x0C30A190 = some (.cmpEq 6 10 12 1) ∧
    decodeTableWord 32 0x0C30A191 = some (.cmpNe 6 10 12 1) ∧
    decodeTableWord 32 0x0C30A192 = some (.cmpLt 6 10 12 1) ∧
    decodeTableWord 32 0x0C30A193 = some (.cmpLe 6 10 12 1) ∧
    decodeTableWord 32 0x0C30A194 = some (.cmpLtu 6 10 12 1) ∧
    decodeTableWord 32 0x0C30A195 = some (.cmpLeu 6 10 12 1) := by decide

theorem test_decode_major_04 :
    decodeTableWord 32 0x1030A00C = some (.addi 6 10 12) := by decide

theorem test_decode_major_05 :
    decodeTableWord 32 0x1430A00C = some (.andi 6 10 12) := by decide

theorem test_decode_major_06 :
    decodeTableWord 32 0x1830A00C = some (.ori 6 10 12) := by decide

theorem test_decode_major_07 :
    decodeTableWord 32 0x1C30A00C = some (.xori 6 10 12) := by decide

theorem test_decode_major_08 :
    decodeTableWord 32 0x2030A00C = some (.shli 6 10 12) ∧
    decodeTableWord 32 0x2030A40C = some (.shri 6 10 12) ∧
    decodeTableWord 32 0x2030A80C = some (.sari 6 10 12) ∧
    decodeTableWord 32 0x2030AC0C = some (.rotli 6 10 12) := by decide

theorem test_decode_major_09 :
    decodeTableWord 32 0x2430A808 = some (.cmpi 6 10 4 8) := by decide

theorem test_decode_major_0a :
    decodeTableWord 32 0x2830000A = some (.movi 6 10) := by decide

theorem test_decode_major_0b :
    decodeTableWord 32 0x2C30000A = some (.movhi 6 10) := by decide

theorem test_decode_major_0c :
    decodeTableWord 32 0x3030A308 = some (.bfx 6 10 12 8) := by decide

theorem test_decode_major_0d :
    decodeTableWord 32 0x3430A308 = some (.bfi 6 10 12 8) := by decide

theorem test_decode_major_0e :
    decodeTableWord 32 0x3830A190 = some (.add64 6 10 12 1) ∧
    decodeTableWord 32 0x3830A191 = some (.sub64 6 10 12 1) ∧
    decodeTableWord 32 0x3830A192 = some (.lea1 6 10 12 1) ∧
    decodeTableWord 32 0x3830A193 = some (.lea2 6 10 12 1) ∧
    decodeTableWord 32 0x3830A194 = some (.lea4 6 10 12 1) ∧
    decodeTableWord 32 0x3830A195 = some (.lea8 6 10 12 1) ∧
    decodeTableWord 32 0x3830A006 = some (.sext 6 10) ∧
    decodeTableWord 32 0x3830A007 = some (.zext 6 10) := by decide

theorem test_decode_major_0f :
    decodeTableWord 32 0x3C30A190 = some (.sel 6 10 12 1) := by decide

theorem test_decode_major_10_0 :
    decodeTableWord 32 0x4030A190 = some (.fadd 6 10 12 1) ∧
    decodeTableWord 32 0x4030A191 = some (.fsub 6 10 12 1) ∧
    decodeTableWord 32 0x4030A192 = some (.fmul 6 10 12 1) ∧
    decodeTableWord 32 0x4030A193 = some (.ffma 6 10 12 1) ∧
    decodeTableWord 32 0x4030A194 = some (.ffms 6 10 12 1) ∧
    decodeTableWord 32 0x4030A195 = some (.fmin 6 10 12 1) ∧
    decodeTableWord 32 0x4030A196 = some (.fmax 6 10 12 1) ∧
    decodeTableWord 32 0x4030A197 = some (.fminnum 6 10 12 1) ∧
    decodeTableWord 32 0x4030A198 = some (.fmaxnum 6 10 12 1) ∧
    decodeTableWord 32 0x4030A009 = some (.fabs 6 10) ∧
    decodeTableWord 32 0x4030A00A = some (.fneg 6 10) ∧
    decodeTableWord 32 0x4030A19B = some (.fcopysign 6 10 12 1) := by decide

theorem test_decode_major_10_1 :
    decodeTableWord 32 0x4030A00C = some (.fclass 6 10) := by decide

theorem test_decode_major_11 :
    decodeTableWord 32 0x4430A190 = some (.fcmpEq 6 10 12 1) ∧
    decodeTableWord 32 0x4430A191 = some (.fcmpNe 6 10 12 1) ∧
    decodeTableWord 32 0x4430A192 = some (.fcmpLt 6 10 12 1) ∧
    decodeTableWord 32 0x4430A193 = some (.fcmpLe 6 10 12 1) ∧
    decodeTableWord 32 0x4430A194 = some (.fcmpUnord 6 10 12 1) ∧
    decodeTableWord 32 0x4430A195 = some (.fcmpOrd 6 10 12 1) := by decide

theorem test_decode_major_12 :
    decodeTableWord 32 0x4830A000 = some (.rcp 6 10) ∧
    decodeTableWord 32 0x4830A001 = some (.rsq 6 10) ∧
    decodeTableWord 32 0x4830A002 = some (.sqrt 6 10) ∧
    decodeTableWord 32 0x4830A003 = some (.exp2 6 10) ∧
    decodeTableWord 32 0x4830A004 = some (.log2 6 10) ∧
    decodeTableWord 32 0x4830A005 = some (.sin 6 10) ∧
    decodeTableWord 32 0x4830A006 = some (.cos 6 10) ∧
    decodeTableWord 32 0x4830A007 = some (.tanh 6 10) := by decide

theorem test_decode_major_13 :
    decodeTableWord 32 0x4C30A190 = some (.hadd2 6 10 12 1) ∧
    decodeTableWord 32 0x4C30A191 = some (.hsub2 6 10 12 1) ∧
    decodeTableWord 32 0x4C30A192 = some (.hmul2 6 10 12 1) ∧
    decodeTableWord 32 0x4C30A193 = some (.hfma2 6 10 12 1) ∧
    decodeTableWord 32 0x4C30A194 = some (.hmin2 6 10 12 1) ∧
    decodeTableWord 32 0x4C30A195 = some (.hmax2 6 10 12 1) ∧
    decodeTableWord 32 0x4C30A196 = some (.badd2 6 10 12 1) ∧
    decodeTableWord 32 0x4C30A197 = some (.bmul2 6 10 12 1) ∧
    decodeTableWord 32 0x4C30A198 = some (.bfma2 6 10 12 1) := by decide

theorem test_decode_major_14 :
    decodeTableWord 32 0x5030A658 = some (.cvt 6 10 12 2 1 2) := by decide

theorem test_decode_major_15 :
    decodeTableWord 32 0x5430A000 = some (.tagset 6 10) ∧
    decodeTableWord 32 0x5430A001 = some (.tagget 6 10) ∧
    decodeTableWord 32 0x54300142 = some (.scaleset 6 10) ∧
    decodeTableWord 32 0x54300143 = some (.scaleadd 6 10) ∧
    decodeTableWord 32 0x5430A004 = some (.retag 6 10) := by decide

theorem test_decode_major_16 :
    decodeTableWord 32 0x5830A180 = some (.shfl 6 10 12) ∧
    decodeTableWord 32 0x5830A181 = some (.shflx 6 10 12) ∧
    decodeTableWord 32 0x5830A182 = some (.shflup 6 10 12) ∧
    decodeTableWord 32 0x5830A183 = some (.shfldn 6 10 12) ∧
    decodeTableWord 32 0x5830A184 = some (.bcast 6 10 12) ∧
    decodeTableWord 32 0x5830A045 = some (.vote 6 10 2) ∧
    decodeTableWord 32 0x5830A006 = some (.redadd 6 10) ∧
    decodeTableWord 32 0x5830A007 = some (.redmin 6 10) ∧
    decodeTableWord 32 0x5830A008 = some (.redmax 6 10) ∧
    decodeTableWord 32 0x5830A009 = some (.redfadd 6 10) ∧
    decodeTableWord 32 0x5830A00A = some (.scanadd 6 10) ∧
    decodeTableWord 32 0x5830A00B = some (.first 6 10) := by decide

theorem test_decode_major_17 :
    decodeTableWord 32 0x5C30A180 = some (.expr 6 10 12 0) := by decide

theorem test_decode_major_18 :
    decodeTableWord 32 0x60300000 = some (.rand 6) ∧
    decodeTableWord 32 0x60300001 = some (.randf 6) := by decide

theorem test_decode_major_19_0 :
    decodeTableWord 32 0x6430A180 = some (.kadd 6 10 12) ∧
    decodeTableWord 32 0x6430A181 = some (.ksub 6 10 12) ∧
    decodeTableWord 32 0x6430A182 = some (.kmul 6 10 12) ∧
    decodeTableWord 32 0x6430A183 = some (.kand 6 10 12) ∧
    decodeTableWord 32 0x6430A184 = some (.kor 6 10 12) ∧
    decodeTableWord 32 0x6430A185 = some (.kxor 6 10 12) ∧
    decodeTableWord 32 0x6430A186 = some (.kshl 6 10 12) ∧
    decodeTableWord 32 0x6430A187 = some (.kshr 6 10 12) ∧
    decodeTableWord 32 0x6430A188 = some (.ksar 6 10 12) ∧
    decodeTableWord 32 0x6430A189 = some (.kmin 6 10 12) ∧
    decodeTableWord 32 0x6430A18A = some (.kmax 6 10 12) ∧
    decodeTableWord 32 0x6430A18B = some (.kminu 6 10 12) := by decide

theorem test_decode_major_19_1 :
    decodeTableWord 32 0x6430A18C = some (.kmaxu 6 10 12) ∧
    decodeTableWord 32 0x6430A18D = some (.kcmpeq 6 10 12) ∧
    decodeTableWord 32 0x6430A18E = some (.kcmplt 6 10 12) ∧
    decodeTableWord 32 0x6430A18F = some (.kcmpltu 6 10 12) := by decide

theorem test_decode_major_1a :
    decodeTableWord 32 0x6830A00C = some (.kaddi 6 10 12) := by decide

theorem test_decode_major_1b :
    decodeTableWord 32 0x6C30000A = some (.kmovi 6 10) := by decide

theorem test_decode_major_1c :
    decodeTableWord 32 0x7030000A = some (.kmovhi 6 10) := by decide

theorem test_decode_major_1d :
    decodeTableWord 32 0x7430A000 = some (.movkv 6 10) ∧
    decodeTableWord 32 0x7430A001 = some (.movvk 6 10) ∧
    decodeTableWord 32 0x7430A002 = some (.mov 6 10) ∧
    decodeTableWord 32 0x7430A003 = some (.kmov 6 10) := by decide

theorem test_decode_major_1e :
    decodeTableWord 32 0x78006002 = some (.recipe 6 2) := by decide

theorem test_decode_major_20 :
    decodeTableWord 32 0x8030A644 = some (.ld 6 10 12 2 4) := by decide

theorem test_decode_major_21 :
    decodeTableWord 32 0x8430A644 = some (.st 6 10 12 2 4) := by decide

theorem test_decode_major_22 :
    decodeTableWord 32 0x8830A644 = some (.lds 6 10 12 2 4) := by decide

theorem test_decode_major_23 :
    decodeTableWord 32 0x8C30A644 = some (.sts 6 10 12 2 4) := by decide

theorem test_decode_major_24 :
    decodeTableWord 32 0x9030A644 = some (.kld 6 10 12 2 4) := by decide

theorem test_decode_major_25 :
    decodeTableWord 32 0x9430A644 = some (.kst 6 10 12 2 4) := by decide

theorem test_decode_major_26 :
    decodeTableWord 32 0x9830A194 = some (.amoAdd 6 10 12 2 1) ∧
    decodeTableWord 32 0x9830A195 = some (.amoMin 6 10 12 2 1) ∧
    decodeTableWord 32 0x9830A196 = some (.amoMax 6 10 12 2 1) ∧
    decodeTableWord 32 0x9830A197 = some (.amoXchg 6 10 12 2 1) := by decide

theorem test_decode_major_27 :
    decodeTableWord 32 0x9C30A194 = some (.amoMinu 6 10 12 2 1) ∧
    decodeTableWord 32 0x9C30A195 = some (.amoMaxu 6 10 12 2 1) ∧
    decodeTableWord 32 0x9C30A196 = some (.amoAnd 6 10 12 2 1) ∧
    decodeTableWord 32 0x9C30A197 = some (.amoOr 6 10 12 2 1) := by decide

theorem test_decode_major_28 :
    decodeTableWord 32 0xA030A194 = some (.amoXor 6 10 12 2 1) ∧
    decodeTableWord 32 0xA030A195 = some (.amoIncw 6 10 12 2 1) ∧
    decodeTableWord 32 0xA030A196 = some (.amoDecw 6 10 12 2 1) ∧
    decodeTableWord 32 0xA030A197 = some (.amoCas 6 10 12 2 1) := by decide

theorem test_decode_major_29 :
    decodeTableWord 32 0xA430A194 = some (.amoFadd 6 10 12 2 1) ∧
    decodeTableWord 32 0xA430A195 = some (.amoFmin 6 10 12 2 1) ∧
    decodeTableWord 32 0xA430A196 = some (.amoFmax 6 10 12 2 1) ∧
    decodeTableWord 32 0xA430A197 = some (.amoCasc 6 10 12 2 1) := by decide

theorem test_decode_major_2a :
    decodeTableWord 32 0xA830A194 = some (.qpush 6 10 12 2 1) ∧
    decodeTableWord 32 0xA830A015 = some (.qpop 6 10 2 1) ∧
    decodeTableWord 32 0xA830A016 = some (.qpeek 6 10 2 1) := by decide

theorem test_decode_major_2b :
    decodeTableWord 32 0xAC00A000 = some (.fence 2 2) ∧
    decodeTableWord 32 0xAC301181 = some (.bara 6 1 12) ∧
    decodeTableWord 32 0xAC301182 = some (.barw 6 1 12) ∧
    decodeTableWord 32 0xAC000003 = some (.cbar) := by decide

theorem test_decode_major_2c :
    decodeTableWord 32 0xB030A020 = some (.cpyin 6 10 1) ∧
    decodeTableWord 32 0xB030A021 = some (.cpyout 6 10 1) ∧
    decodeTableWord 32 0xB030A0C2 = some (.cpygath 6 10 1 2) ∧
    decodeTableWord 32 0xB030A0C3 = some (.cpyscat 6 10 1 2) ∧
    decodeTableWord 32 0xB030A184 = some (.cpyring 6 10 12) ∧
    decodeTableWord 32 0xB0006025 = some (.pref 6 1) := by decide

theorem test_decode_major_2d :
    decodeTableWord 32 0xB4006140 = some (.rinit 6 10) ∧
    decodeTableWord 32 0xB4300141 = some (.racq 6 10) ∧
    decodeTableWord 32 0xB4006142 = some (.rpub 6 10) ∧
    decodeTableWord 32 0xB4300143 = some (.rget 6 10) ∧
    decodeTableWord 32 0xB4006144 = some (.rrel 6 10) ∧
    decodeTableWord 32 0xB4300145 = some (.rstat 6 10) := by decide

theorem test_decode_major_2e :
    decodeTableWord 32 0xB830A000 = some (.kvalloc 6 10) ∧
    decodeTableWord 32 0xB830A001 = some (.kvfree 6 10) ∧
    decodeTableWord 32 0xB830A182 = some (.kvshare 6 10 12) ∧
    decodeTableWord 32 0xB830A183 = some (.kvld 6 10 12) ∧
    decodeTableWord 32 0xB830A184 = some (.kvst 6 10 12) ∧
    decodeTableWord 32 0xB830A005 = some (.kvmap 6 10) ∧
    decodeTableWord 32 0xB8300006 = some (.kvstat 6) := by decide

theorem test_decode_major_2f :
    decodeTableWord 32 0xBC30A020 = some (.cbopen 6 10 1) ∧
    decodeTableWord 32 0xBC30A021 = some (.cbput 6 10 1) ∧
    decodeTableWord 32 0xBC006002 = some (.cbclose 6) ∧
    decodeTableWord 32 0xBC30A003 = some (.cbstat 6 10) := by decide

theorem test_decode_major_30 :
    decodeTableWord 32 0xC030A180 = some (.enqt 6 10 12) ∧
    decodeTableWord 32 0xC030A181 = some (.enqtn 6 10 12) := by decide

theorem test_decode_major_31 :
    decodeTableWord 32 0xC430A180 = some (.trace 6 10 12) ∧
    decodeTableWord 32 0xC430A181 = some (.traceq 6 10 12) ∧
    decodeTableWord 32 0xC4300062 = some (.rquery 6 3) := by decide

theorem test_decode_major_32 :
    decodeTableWord 32 0xC830AC10 = some (.mma 6 10 12 0 1) ∧
    decodeTableWord 32 0xC830AC11 = some (.mman 6 10 12 0 1) ∧
    decodeTableWord 32 0xC830AC12 = some (.mmas 6 10 12 0 1) := by decide

theorem test_decode_major_33 :
    decodeTableWord 32 0xCC30A000 = some (.gang 6 10) ∧
    decodeTableWord 32 0xCC32A181 = some (.accz 6 21 12) ∧
    decodeTableWord 32 0xCC30A282 = some (.accld 6 10 20) ∧
    decodeTableWord 32 0xCC30A003 = some (.accst 6 10) ∧
    decodeTableWord 32 0xCC30A884 = some (.accrd 6 10 1 0 4) ∧
    decodeTableWord 32 0xCC30A005 = some (.strmopen 6 10) ∧
    decodeTableWord 32 0xCC300006 = some (.strmclose 6) ∧
    decodeTableWord 32 0xCC302007 = some (.strmstat 6 2) := by decide

theorem test_decode_major_34 :
    decodeTableWord 32 0xD0300000 = some (.brid 6) ∧
    decodeTableWord 32 0xD0300001 = some (.vstat 6) ∧
    decodeTableWord 32 0xD030A002 = some (.commit 6 10) ∧
    decodeTableWord 32 0xD030A003 = some (.squash 6 10) ∧
    decodeTableWord 32 0xD030A004 = some (.flipq 6 10) ∧
    decodeTableWord 32 0xD0006145 = some (.vdrop 6 10) := by decide

theorem test_decode_major_35 :
    decodeTableWord 32 0xD430A000 = some (.getsr 6 10) ∧
    decodeTableWord 32 0xD468A001 = some (.setsr 13 10) ∧
    decodeTableWord 32 0xD4006042 = some (.cache 6 2) ∧
    decodeTableWord 32 0xD4300083 = some (.perf 6 4) ∧
    decodeTableWord 32 0xD4300004 = some (.clock 6) ∧
    decodeTableWord 32 0xD4006005 = some (.digest 6) := by decide

theorem test_decode_major_36 :
    decodeTableWord 32 0xD8100A0C = some (.loopi 2 10 12) := by decide

theorem test_decode_major_37 :
    decodeTableWord 32 0xDC10A00C = some (.loop 2 10 12) := by decide

theorem test_decode_major_38 :
    decodeTableWord 32 0xE0000006 = some (.br 6) := by decide

theorem test_decode_major_39 :
    decodeTableWord 32 0xE430000A = some (.brz 6 10) := by decide

theorem test_decode_major_3a :
    decodeTableWord 32 0xE830000A = some (.brnz 6 10) := by decide

theorem test_decode_major_3b :
    decodeTableWord 32 0xEC30000A = some (.kbrz 6 10) := by decide

theorem test_decode_major_3c :
    decodeTableWord 32 0xF030000A = some (.kbrnz 6 10) := by decide

theorem test_decode_major_3d :
    decodeTableWord 32 0xF430000A = some (.call 6 10) := by decide

theorem test_decode_major_3e :
    decodeTableWord 32 0xF8000000 = some (.ret) ∧
    decodeTableWord 32 0xF8006001 = some (.jmpv 6) ∧
    decodeTableWord 32 0xF8006142 = some (.callv 6 10) ∧
    decodeTableWord 32 0xF8000003 = some (.exit) ∧
    decodeTableWord 32 0xF8006004 = some (.wslide 6) ∧
    decodeTableWord 32 0xF8000005 = some (.yield) ∧
    decodeTableWord 32 0xF8000006 = some (.nop) ∧
    decodeTableWord 32 0xF8006007 = some (.trap 6) ∧
    decodeTableWord 32 0xF8001008 = some (.rft 1) ∧
    decodeTableWord 32 0xF830A009 = some (.waitf 6 10) ∧
    decodeTableWord 32 0xF830200A = some (.waitc 6 2) ∧
    decodeTableWord 32 0xF800600B = some (.sleep 6) := by decide

theorem test_decode_major_3f :
    decodeTableWord 32 0xFCC01591 = some (.runHeader 6 10 12 8 1) := by decide

/-! ### Ill-formed terms: one for each check of R35 -/

/-- Whether every term of a list is refused. -/
def refused (l : List Instr) : Bool := l.all (fun i => !i.wellFormed)

theorem test_reserved_by_selector : refused [.bara 1 0 3, .barw 1 0 3, .cache 2 3] = true := by decide

theorem test_k_operand_range : refused [.add 1 2 64 1, .fadd 1 2 64 1, .hadd2 1 2 64 1, .sel 1 2 64 1, .lea4 2 4 64 1] = true := by
  decide

theorem test_k_field_range :
    refused [.kadd 64 1 2, .kadd 1 64 2, .kadd 1 2 64, .kaddi 64 1 0, .kmovi 64 0, .kmovhi 64 0, .movkv 1 64, .movvk 64 1,
      .kmov 1 64, .recipe 64 0, .kld 64 1 0 0 0, .kst 1 64 0 0 0, .trace 1 2 64, .traceq 1 2 64, .loop 0 64 1, .kbrz 64 1,
      .kbrnz 64 1] = true := by decide

theorem test_even_pair :
    refused [.ld 1 3 0 0 0, .st 1 3 0 0 0, .amoAdd 1 3 2 0 0, .amoCas 1 3 2 0 0, .qpush 1 3 2 0 0, .qpop 1 3 0 0,
      .cpyin 1 3 0, .cpyout 1 3 0, .cpygath 1 3 0 0, .cpyring 1 3 0, .pref 3 0, .cbopen 1 3 0, .cbput 1 3 0, .vdrop 3 1,
      .cache 3 0, .digest 3] = true := by decide

theorem test_no_destination : refused [.amoCasc 0x7F 2 4 0 0, .qpush 0x7F 2 4 0 0, .qpop 0x7F 2 0 0, .qpeek 0x7F 2 0 0] = true := by
  decide

theorem test_formats :
    refused [.ld 1 2 20 0 0, .sts 1 2 20 0 0, .cvt 1 2 0 0 0 0, .cvt 1 2 20 0 0 0, .accz 1 19 0, .accz 1 20 1, .accld 1 2 19] =
      true := by decide

theorem test_numbers :
    refused [.cmpi 1 2 6 0, .vote 1 2 4, .expr 1 2 3 8, .recipe 1 8, .bara 16 0 0, .barw 16 0 0, .rinit 1 16, .racq 1 16,
      .rpub 1 16, .rget 1 16, .rrel 1 16, .rstat 1 16, .cpyring 1 2 16, .rquery 1 5, .gang 16 2, .strmopen 8 1, .strmclose 8,
      .getsr 1 20, .perf 1 6, .waitc 0 5, .loopi 3 1 1, .loop 3 1 1, .call 0 1, .callv 1 0, .cpygath 1 2 0 3, .cpyscat 1 2 0 3] =
      true := by decide

theorem test_special_and_tiles :
    refused [.setsr 9 1, .setsr 0 1, .accz 64 20 0, .accld 64 1 20, .accst 64 1, .accrd 1 64 0 0 0, .accrd 1 2 0 1 1] = true := by
  decide

theorem test_bit_fields : refused [.bfx 1 2 32 1, .bfx 1 2 0 0, .bfx 1 2 20 13, .bfi 1 2 31 2] = true := by decide

theorem test_well_formed_edges :
    ([.add 1 2 63 1, .add 1 2 127 0, .bfx 1 2 31 1, .bfi 1 2 0 32, .cbput 1 3 1, .cache 0 3, .accrd 1 2 0 1 0, .ld 1 2 19 0 0,
      .getsr 1 19, .amoAdd 0x7F 2 4 0 0] : List Instr).all Instr.wellFormed = true := by decide

/-! ### States that meet the hypotheses of the statements: a wave that issues -/

/-- The machine about to issue a word, its current wave changed. -/
def ready (i : Instr) (f : Wave → Wave) : State :=
  let s := State.reset.withFetchWord 32 (encode i).toNat
  match s.ctx? with
  | some c => s.setWave (f c.w)
  | none => s

/-- The wave with lane 0 alone live and active, and its first eight rows of one format, the element of row r being g r. -/
def filled (fmt : Nat) (g : Nat → Word) (w : Wave) : Wave :=
  { w with
    vpc := [(0, 0)]
    run := w.run.map (fun r => { r with active := 1 })
    rows := [0, 1, 2, 3, 4, 5, 6, 7].map (fun r => (r, { tag := mkTag fmt 0, elems := [(0, g r)], poison := 0, seen := 0 })) }

/-- The wave in trap mode after a trap taken at a word. -/
def handling (w : Wave) : Wave :=
  let f : Frame :=
    { curVpc := w.vpc, entry := w.region, header := 0, offset := 64, fpctl := 0, run := w.run, needs := [], afterEffect := false,
      reads := [], writes := [], serial := 0, later := none, reached := [], wait := .none, fp := [] }
  { w with mode := true, trapcause := 33, traplanes := 0xFFFF, frame := some f }

/-- Whether the machine issues, in a context with a property. -/
def issues (s : State) (p : Ctx → Bool) : Bool := s.ctx?.any p

/-- Whether every instruction of a list, with the wave as given, meets a property and goes on. -/
def each (f : Wave → Wave) (p : Ctx → Instr → Bool) (l : List Instr) : Bool :=
  l.all (fun i => issues (ready i f) (fun c => p c i && goesOn (exec i c.s)))

/-- Whether an instruction has a row in a table of operands, whose operands pass. -/
def rowPasses (t : Ctx → Instr → Option OpSpec) (c : Ctx) (i : Instr) : Bool := (t c i).any c.passes

/-- The same of a table that also gives flags. -/
def flagRowPasses (t : Ctx → Instr → Option (OpSpec × FFlags)) (c : Ctx) (i : Instr) : Bool := (t c i).any (fun x => c.passes x.1)

theorem witness_integer_arithmetic :
    each (filled 2 (fun r => BitVec.ofNat 32 (r + 5))) (rowPasses intSpec)
      [.add 1 2 3 0, .sub 1 2 3 1, .mul 1 1 3 0, .mulh 1 2 3 0, .mulhu 1 2 3 0, .mad 1 2 3 0, .min 1 2 3 0, .max 1 2 3 0,
        .minu 1 2 3 0, .maxu 1 2 3 0, .absd 1 2 3 0, .adds 1 2 3 0, .subs 1 2 3 0, .avg 1 2 3 0] = true := by decide +kernel

theorem witness_integer_arithmetic_trap :
    issues (ready (.add 1 2 3 0) (filled 1 (fun _ => 0))) (fun c => (intSpec c (.add 1 2 3 0)).any (fun o =>
      match c.check o with
      | .error e => e.cause == 4
      | .ok _ => false)) = true := by decide +kernel

theorem witness_bit_operations :
    each (filled 1 (fun _ => 3)) (rowPasses bitSpec)
      [.and 1 2 3 0, .or 1 2 3 0, .xor 1 2 3 0, .andn 1 2 3 0, .shl 1 2 3 0, .shr 1 2 3 0, .sar 1 2 3 0, .rotl 1 2 3 0, .not 1 2,
        .popc 1 2, .clz 1 2, .brev 1 2] = true := by decide +kernel

theorem witness_bit_operations_trap :
    issues (ready (.not 1 120) (filled 1 (fun _ => 3))) (fun c => (bitSpec c (.not 1 120)).any (fun o => !passed (c.check o))) =
      true := by decide +kernel

theorem witness_compare_immediate_move :
    (each (filled 2 (fun _ => 3)) (rowPasses cmpSpec)
        [.cmpEq 1 2 3 0, .cmpNe 1 2 3 0, .cmpLt 1 2 3 0, .cmpLe 1 2 3 0, .cmpLtu 1 2 3 0, .cmpLeu 1 2 3 0, .cmpi 1 2 5 7] &&
      each (filled 2 (fun _ => 3)) (fun c i => i.wellFormed && rowPasses immSpec c i)
        [.addi 1 2 7, .andi 1 2 7, .ori 1 2 7, .xori 1 2 7, .shli 1 2 7, .shri 1 2 7, .sari 1 2 7, .rotli 1 2 0, .bfx 1 2 3 4,
          .bfi 1 2 31 1, .movi 1 7, .movhi 1 7] &&
      each (filled 2 (fun _ => 3)) (rowPasses moveSpec) [.sel 1 2 3 0, .mov 1 2, .movkv 1 2] &&
      each (filled 2 (fun _ => 3)) (fun c i => i.wellFormed && c.passes { regs := [2], first := [2], kwrites := [1] })
        [.movvk 1 2]) = true := by decide +kernel

theorem witness_wide_arithmetic :
    (each (filled 19 (fun _ => 3)) (rowPasses wideSpec) [.add64 2 4 6 0, .sub64 2 4 6 1, .lea1 2 4 6 1, .lea2 2 4 6 1, .lea4 2 4 6 1,
        .lea8 2 4 6 1] &&
      each (filled 2 (fun _ => 3)) (rowPasses wideSpec) [.sext 2 4, .zext 2 4]) = true := by decide +kernel

theorem witness_float_and_packed :
    (each (filled 1 (fun _ => 0x3F800000)) (flagRowPasses floatSpec)
        [.fadd 1 2 3 0, .fsub 1 2 3 0, .fmul 1 2 3 0, .ffma 1 2 3 0, .ffms 1 2 3 0, .fmin 1 2 3 0, .fmax 1 2 3 0, .fminnum 1 2 3 0,
          .fmaxnum 1 2 3 0, .fcopysign 1 2 3 0, .fcmpEq 1 2 3 0, .fcmpNe 1 2 3 0, .fcmpLt 1 2 3 0, .fcmpLe 1 2 3 0,
          .fcmpUnord 1 2 3 0, .fcmpOrd 1 2 3 0, .fabs 1 2, .fneg 1 2, .fclass 1 2] &&
      (f32.decode 0x7F800001).isSnan) = true := by decide +kernel

/-- The packed instructions' operands, as the statement makes them. -/
def packedSpec (c : Ctx) (i : Instr) : Option (OpSpec × FFlags) :=
  (packedRow c.fpctl i).map (fun (fmt, d, a, b, kb, dSrc, f) => floatOp c fmt (mkTag fmt 0) d a b kb dSrc (halves f))

theorem witness_packed :
    (each (filled 4 (fun _ => 0x3C003C00)) (flagRowPasses packedSpec)
        [.hadd2 1 2 3 0, .hsub2 1 2 3 0, .hmul2 1 2 3 0, .hfma2 1 2 3 0, .hmin2 1 2 3 0, .hmax2 1 2 3 0] &&
      each (filled 5 (fun _ => 0x3F803F80)) (flagRowPasses packedSpec) [.badd2 1 2 3 0, .bmul2 1 2 3 0, .bfma2 1 2 3 0]) = true := by
  decide +kernel

theorem witness_special_math :
    (each (filled 1 (fun _ => 0x3F800000)) (fun c i => (specialRow i).any (fun x => c.passes
          { regs := [x.1.toNat, x.2.1.toNat], data := [(x.2.1.toNat, [1])], reads := [x.2.1.toNat],
            writes := c.act.map (fun l => c.w.put l x.1.toNat 0 (mkTag 1 0)) }))
        [.rcp 1 2, .rsq 1 2, .sqrt 1 2, .exp2 1 2, .log2 1 2, .sin 1 2, .cos 1 2, .tanh 1 2] &&
      (f32.decode 0x7FC00000).isNan) = true := by decide +kernel

theorem witness_conversion :
    (each (filled 1 (fun _ => 0x3F800000)) (fun c i => i.wellFormed && c.passes (cvtSpec c 1 2 4 0 0 0).1 &&
        c.act.all (fun l => cvtGroupOk c 2 4 0 l) && !isNarrow 4) [.cvt 1 2 4 0 0 0] &&
      each (filled 1 (fun _ => 0x3F800000)) (fun c i => i.wellFormed && c.passes (cvtSpec c 1 2 8 0 0 0).1 &&
        c.act.all (fun l => cvtGroupOk c 2 8 0 l) && isNarrow 8) [.cvt 1 2 8 0 0 0]) = true := by decide +kernel

theorem witness_tags :
    (each (filled 2 (fun _ => 0)) (fun c i => (tagRow c i).any (fun x => tagPasses c i x.1 x.2.1 x.2.2)) [.tagset 1 2, .retag 1 1] &&
      each (filled 8 (fun _ => 0)) (fun c i => (tagRow c i).any (fun x => tagPasses c i x.1 x.2.1 x.2.2))
        [.scaleset 1 5, .scaleadd 1 127] &&
      each (filled 2 (fun _ => 0)) (fun c _ => c.passes
        { regs := [1, 2], carry := [2], writes := c.act.map (fun l => c.w.put l 1 0x1000 (mkTag 2 0)) }) [.tagget 1 2]) = true := by
  decide +kernel

theorem witness_cross_lane :
    (each (filled 2 (fun _ => 3)) (rowPasses shuffleSpec) [.shfl 1 2 3, .shflx 1 2 1, .shflup 1 2 1, .shfldn 1 2 1, .bcast 1 2 3] &&
      each (filled 2 (fun _ => 3)) (rowPasses reduceSpec) [.vote 2 4 0, .vote 1 2 1, .vote 1 2 3, .first 1 2, .redadd 1 2,
        .scanadd 1 2] &&
      each (filled 2 (fun _ => 3)) (fun c i => flagRowPasses foldSpec c i && !c.act.isEmpty) [.redmin 1 2, .redmax 1 2] &&
      each (filled 1 (fun _ => 0x3F800000)) (flagRowPasses foldSpec) [.redfadd 1 2]) = true := by decide +kernel

theorem witness_random_and_recipes :
    (each id (fun c i => (match i with
        | .rand d => c.passes { regs := [d.toNat], writes := c.act.map (fun l => c.w.put l d.toNat 0 (mkTag 3 0)) }
        | _ => c.passes { regs := [1], writes := c.act.map (fun l => c.w.put l 1 0 (mkTag 1 0)) })) [.rand 1, .randf 1] &&
      each (filled 1 (fun _ => 0x3F800000)) (fun c _ => passed (c.check (exprSpec c 1 2 4 0).1) &&
        passed (c.region (c.rowKeys (exprSpec c 1 2 4 0).1.reads ++ [4096])
          ((exprSpec c 1 2 4 0).1.writes.map (fun x => (x.row, x.field))))) [.expr 1 2 4 0] &&
      each (fun w => { w with k := tset w.k 2 recipeI0 }) (fun c _ => recipeOk (c.w.kreg 2) &&
        passed (c.checkPoison [] [] [2]) && passed (c.region [2050] [(4096, 0)])) [.recipe 2 0] &&
      each (fun w => { w with k := tset w.k 2 0xFF }) (fun c _ => !recipeOk (c.w.kreg 2)) [.recipe 2 0]) = true := by decide +kernel

theorem witness_uniform_arithmetic :
    each (fun w => { w with k := [(2, 5), (3, 7)] }) (fun c i => i.wellFormed && (kSpec c i).any (fun x => c.kPasses x.2.1 [x.1.toNat]))
      [.kadd 1 2 3, .ksub 1 2 3, .kmul 1 2 3, .kand 1 2 3, .kor 1 2 3, .kxor 1 2 3, .kshl 1 2 3, .kshr 1 2 3, .ksar 1 2 3, .kmin 1 2 3,
        .kmax 1 2 3, .kminu 1 2 3, .kmaxu 1 2 3, .kcmpeq 1 2 3, .kcmplt 1 2 3, .kcmpltu 1 2 3, .kaddi 1 2 7, .kmovi 63 7, .kmovhi 1 7,
        .kmov 1 2] = true := by decide +kernel

/-! ### Control, special registers and traps -/

/-- A wave with a function of it evaluated. -/
def onWave (i : Instr) (f : Wave → Wave) (p : Wave → RunCtx → Bool) : Bool := issues (ready i f) (fun c => p c.w c.r)

/-- One live lane, and room to move its window. -/
def roomy (w : Wave) : Wave := { filled 2 (fun _ => 0) w with allot := 192, wtop := 192 }

theorem witness_run_ends :
    (onWave .nop (filled 2 (fun _ => 0)) (fun w r => w.pc == r.last && w.loopsAt r.last == [] && !w.mode) &&
      onWave .nop (fun w => { w with pc := 0 }) (fun w r => w.pc != r.last) &&
      [2, 1].all (fun n => onWave .nop (fun w => { w with
          lc := [(1, BitVec.ofNat 32 n)]
          loops := [(1, { active := true, start := 64, stop := 4, seq := 1 })] })
        (fun w r => w.pc == r.last && !w.mode && w.loopsAt r.last == [1] && (tget w.loops 1).isSome &&
          (tgetD (w.advance r).lc 1 0 == BitVec.ofNat 32 (n - 1))))) = true := by decide +kernel

theorem witness_branches_and_loops :
    (each (fun w => { filled 2 (fun r => BitVec.ofNat 32 (r % 2)) w with k := [(1, 1)] }) (fun c i =>
        (branchRow c i).any (fun x => passed (c.checkRegs x.1) && passed (c.checkPoison x.1 [] x.2.1) &&
          decide (0 ≤ blockTarget c.w.pc x.2.2.1 ∧ blockTarget c.w.pc x.2.2.1 < (c.codeBytes : Int)) && c.act.all (fun l => x.2.2.2 l)))
        [.br 1, .brz 2 1, .brnz 1 1, .kbrz 2 1, .kbrnz 1 1] &&
      each (filled 2 (fun _ => 0)) (fun c _ => decide (blockTarget c.w.pc (-1) < 0) && !c.act.isEmpty) [.br (-1)] &&
      each (filled 2 (fun _ => 0)) (fun c _ => decide ((c.codeBytes : Int) ≤ blockTarget c.w.pc 63)) [.brz 1 63] &&
      each (fun w => { filled 2 (fun _ => 0) w with k := [(1, 3)] }) (fun c i =>
        (loopRow c i).any (fun x => !c.w.mode && passed (c.checkPoison [] [] x.2.2.2) && decide (x.2.1 ≠ 0) &&
          decide (c.w.pc + 4 + 4 * x.2.2.1 ≤ c.codeBytes))) [.loopi 0 5 3, .loop 1 1 3] &&
      each (filled 2 (fun _ => 0)) (fun c i => (loopRow c i).any (fun x => decide (x.2.1 = 0))) [.loopi 0 0 3] &&
      each handling (fun c i => c.w.mode && (loopRow c i).isSome) [.loopi 0 5 3]) = true := by decide +kernel

theorem witness_calls_and_returns :
    (each roomy (fun c i => i.wellFormed && !c.w.mode && (callRow c i).any (fun x =>
        passed (c.checkRegs x.2.1) && passed (c.checkPoison x.2.1 [] []) &&
        passed (c.region (c.rowKeys x.2.1)
          (c.act.map (fun l => ((tgetD c.w.wbase l 0 + x.1.toNat - 1) % c.w.allot, x.1.toNat - 1)))) &&
        c.act.all (fun l => decide (x.2.2 l % 64 = 0 ∧ 0 ≤ x.2.2 l ∧ x.2.2 l < (c.codeBytes : Int))) &&
        moveOk c (fun l => ((tgetD c.w.wbase l 0 + x.1.toNat : Nat) : Int)))) [.call 1 1, .callv 2 64] &&
      each (fun w => { roomy w with
          wbase := [(0, 8)]
          rows := [(7, { tag := 0, elems := [(0, 0x10000008)], poison := 0, seen := 0 })] })
        (fun c _ => !c.w.mode && c.act.all (fun l => decide (0 < tgetD c.w.wbase l 0) &&
          decide (c.w.wtop ≤ tgetD c.w.wbase l 0 - 1 + c.w.allot) && decide ((c.w.elem 7 l).toNat / 2 ^ 25 = 8) &&
          decide ((c.w.elem 7 l).toNat % 2 ^ 25 = 8)) && moveOk c (fun _ => 0)) [.ret]) = true := by decide +kernel

theorem witness_window_moves :
    (each (filled 2 (fun _ => 64)) (fun c _ => passed (c.checkRegs [1]) && passed (c.checkPoison [1] [] []) &&
        c.act.all (fun l => decide ((c.w.reg l 1).toNat % 64 = 0 ∧ (c.w.reg l 1).toNat < c.codeBytes))) [.jmpv 1] &&
      each roomy (fun c _ => !c.w.mode && moveOk c (fun l => ((tgetD c.w.wbase l 0 : Nat) : Int) + 5)) [.wslide 5] &&
      each roomy (fun c _ => !c.w.mode && c.act.any (fun l => decide (((tgetD c.w.wbase l 0 : Nat) : Int) + (-1) < 0)))
        [.wslide (-1)]) = true := by decide +kernel

theorem witness_exit_and_waits :
    each (filled 2 (fun _ => 0)) (fun _ _ => true) [.exit, .yield, .sleep 3, .sleep 0, .nop, .waitf 5 1, .waitf 0 0, .waitc 1 0] =
      true := by decide +kernel

theorem witness_special_registers :
    ([0, 3, 7, 10, 12, 14, 16, 19].all (fun a => each (filled 2 (fun _ => 0)) (fun c _ =>
        c.passes (readSpec c 2 ([10, 11, 16, 17, 18].contains a) (srValue c a))) [.getsr 2 (BitVec.ofNat 7 a)]) &&
      each (fun w => handling (filled 2 (fun _ => 0) w)) (fun c _ => c.w.frame.isSome && c.passes (readSpec c 2 false (srValue c 15)))
        [.getsr 2 15] &&
      each (filled 2 (fun _ => 0)) (fun c _ => c.w.frame.isNone && c.passes (readSpec c 2 false (fun _ => 0))) [.getsr 2 15] &&
      each (filled 2 (fun _ => 0)) (fun c _ => c.passes (readSpec c 2 true (fun _ => 0))) [.perf 2 0, .perf 2 3, .perf 2 4, .perf 2 5,
        .clock 2]) = true := by decide +kernel

theorem witness_special_register_writes :
    (each (filled 2 (fun _ => 3)) (fun c _ => passed (c.checkRegs [2, 3]) && passed (c.checkPoison [] [2, 3] []))
        [.setsr 7 2, .setsr 8 2, .setsr 18 2] &&
      each (fun w => handling (filled 2 (fun _ => 3) w)) (fun c _ => c.w.mode && passed (c.checkRegs [2]) &&
        passed (c.checkPoison [2] [] [])) [.setsr 14 2] &&
      each (filled 2 (fun _ => 3)) (fun c _ => !c.w.mode) [.setsr 13 2, .setsr 14 2] &&
      each (fun w => { handling (filled 2 (fun _ => 0) w) with
          rows := [(1026, { tag := 0x1000, elems := [(0, 64)], poison := 0, seen := 0 })] })
        (fun c _ => c.w.mode && (c.w.reg c.first 2).toNat == 64 && decide (c.w.allot ≤ 64) && decide (c.w.allot ≤ c.w.wtop) &&
          c.w.needed.all (fun x => decide (64 ≤ x.2.1 + c.w.allot) && decide (x.2.2 ≤ 64))) [.setsr 13 2] &&
      each (fun w => handling (filled 2 (fun _ => 0) w)) (fun c _ => c.w.mode && decide ((c.w.reg c.first 2).toNat < c.w.allot))
        [.setsr 13 2]) = true := by decide +kernel

/-- The machine with a handler table at 0x800, whose entries are h. -/
def withHandlers (h : Nat) (s : State) : State :=
  { s with
    mem := mputs s.mem (storageKey 0 0x800) ((List.range 64).flatMap (fun _ => toBytes 4 h))
    launches := s.launches.map (fun e => (e.1, { e.2 with handlerAddr := 0x800 })) }

/-- A trap of cause 33 in lane 0. -/
def softTrap : Trap :=
  { cause := 33, lanes := 1, info := 1, offset := 4, atHeader := false, header := 0, run := none, needs := [] }

theorem witness_trap_entry :
    issues (withHandlers 0x200 (ready .nop id)) (fun c => (c.s.launch? c.w.launch).any (fun l =>
      l.handlerAddr != 0 && (match c.s.translateFor c.w.cancelled l.domain (l.handlerAddr + 4 * 33) .read with
        | .ok x => !c.s.anyPoison c.w.tag x.ver x.key 4 && c.s.readNat c.w.tag x.ver x.key 4 == 0x200
        | .error _ => false) && (match (c.s.enterTrap c.w softTrap).wave? c.w.uid with
        | some u => u.mode && u.vpcOf 0 == 0x200
        | none => false))) = true := by decide +kernel

theorem witness_software_traps :
    (each id (fun c _ => !c.w.mode && c.w.pend.all (fun p => p.flag.isNone)) [.trap 1, .rft 0] &&
      each (fun w => { w with pend := [{ id := 0, kind := .fence 0, flag := some 2, serial := 0, offset := 0, dests := [], acquire := false,
                                         release := false, scope := 0 }] })
        (fun c _ => !c.w.mode && c.w.pend.any (fun p => p.flag.isSome)) [.trap 1] &&
      each handling (fun c _ => c.w.mode) [.trap 1, .call 1 1, .callv 1 1, .ret, .wslide 1]) = true := by decide +kernel

theorem witness_handler_return :
    (each handling (fun c _ => c.w.mode) [.rft 0] &&
      each handling (fun c _ => c.w.mode && c.w.trapcause != 1 && c.w.trapcause != 9) [.rft 1] &&
      onWave .nop (fun w => { handling w with parked := 0xFFFF, parkMode := 1 }) (fun w _ => w.mode && w.frame.isSome &&
        !w.live.isEmpty && w.unparked.isEmpty && w.tryLeave.vpcOf 0 == 68 && w.tryLeave.vpcOf 1 == w.vpcOf 1) &&
      onWave .nop handling (fun w _ => !w.unparked.isEmpty)) = true := by decide +kernel

theorem witness_halts :
    (issues (ready .nop id) (fun c => (c.s.launch? c.w.launch).isSome && (match c.s.team? c.w.team with
        | some t => (tget c.s.grps t.grp).any (fun g => g.gangs.isEmpty)
        | none => false) && ((c.s.haltWave c.w 0 0 0 33 0).wave? c.w.uid).any (fun v => v.live.isEmpty)) &&
      issues (ready .nop id) (fun c => (c.s.launch? c.w.launch).any (fun l => l.handlerAddr == 0)) &&
      issues (withHandlers 0x200 (ready .nop id)) (fun c => c.w.spill.isNone)) = true := by decide +kernel


/-- A wave with two loops that end at the word of its run, loop 2 set last, with their counters. -/
def twoLoops (m n : Nat) (w : Wave) : Wave :=
  { w with
    lc := [(1, BitVec.ofNat 32 n), (2, BitVec.ofNat 32 m)]
    loops := [(1, { active := true, start := 64, stop := 4, seq := 1 }), (2, { active := true, start := 128, stop := 4, seq := 2 })] }

theorem witness_loops_that_end_together :
    [(1, 2), (1, 1)].all (fun x => onWave .nop (twoLoops x.1 x.2) (fun w r => w.pc == r.last && !w.mode && w.loopsAt r.last == [2, 1] &&
      tgetD w.lc 2 0 == 1 && (tget w.loops 1).isSome)) = true := by decide +kernel

theorem witness_run_ends_in_trap_mode :
    [0, 1].all (fun p => onWave .nop (fun w => { handling (filled 2 (fun _ => 0) w) with parked := p }) (fun w r =>
      w.pc == r.last && w.loopsAt r.last == [] && w.mode && decide (r.last + 4 < 2 ^ 25) &&
      (List.range 64).all (fun l => tget w.target l != some exited) && w.unparked.isEmpty == decide (p = 1) && !w.live.isEmpty &&
      w.frame.isSome)) = true := by decide +kernel

/-- R393 and R397: a table entry of 0xFFFFFFFF, and one that is poisoned, halt the wave. -/
theorem witness_no_handler :
    [(0xFFFFFFFF, false), (0x200, true)].all (fun x =>
      let s0 := withHandlers x.1 (ready .nop id)
      let s : State := { s0 with poison := if x.2 then [(storageKey 0 0x800 + 132) / 32] else [] }
      issues s (fun c => (c.s.launch? c.w.launch).any (fun l => l.handlerAddr != 0 &&
        (match c.s.translateFor c.w.cancelled l.domain (l.handlerAddr + 4 * 33) .read with
          | .ok y => c.s.anyPoison c.w.tag y.ver y.key 4 == x.2 && (x.2 || c.s.readNat c.w.tag y.ver y.key 4 == 0xFFFFFFFF)
          | .error _ => false) && ((c.s.enterTrap c.w softTrap).wave? c.w.uid).any (fun u => u.live.isEmpty)))) = true := by
  decide +kernel

theorem witness_no_handler_entry :
    issues (match (ready .nop id).ctx? with
        | some c => { c.s with launches := c.s.launches.map (fun e => (e.1, { e.2 with handlerAddr := 2 ^ 52 })) }
        | none => State.reset)
      (fun c => (c.s.launch? c.w.launch).any (fun l => l.handlerAddr != 0 &&
        (match c.s.translateFor c.w.cancelled l.domain (l.handlerAddr + 4 * 33) .read with
          | .error (.cause _) => true
          | _ => false) && ((c.s.enterTrap c.w softTrap).wave? c.w.uid).any (fun u => u.live.isEmpty))) = true := by decide +kernel

theorem witness_conversion_to_integers :
    each (filled 1 (fun _ => 0x3F800000)) (fun c _ => c.act.all (fun l => c.w.fmtAt l 2 == 1)) [.cvt 1 2 2 0 0 0] = true := by
  decide +kernel
/-! ### Loads, stores, atomics, fences, barriers and rings -/

/-- Whether every instruction of a list, in a machine changed from the ready one, meets a property and goes on. -/
def inState (f : Wave → Wave) (g : State → State) (p : Ctx → Instr → Bool) (l : List Instr) : Bool :=
  l.all (fun i => issues (g (ready i f)) (fun c => p c i && goesOn (exec i c.s)))

/-- Whether accesses of an instruction all translate at once. -/
def translates (c : Ctx) (use : Use) (xs : List (Nat × Nat)) (p : List Xlat → Bool) : Bool :=
  match c.translateAll use xs with
  | .ok (.go ts) => p ts
  | _ => false

/-- Whether a store's accesses meet no version. -/
def unversioned (c : Ctx) (xs : List ((Nat × Nat) × Xlat)) : Bool :=
  match c.checkVersions xs with
  | .ok none => true
  | _ => false

/-- One live lane whose register 2 holds an address or offset, every other register 0. -/
def pointing (fmt : Nat) (n : Word) (w : Wave) : Wave := filled fmt (fun r => if r = 2 then n else 0) w

theorem witness_loads :
    (each (pointing 2 0x100) (fun c i => i.wellFormed && c.passes
        { regs := [4, 2, 3], reads := [2, 3], writes := loadTags c 4 2 1 } &&
        c.act.all (fun l => address c 2 4 l % 4 == 0) &&
        translates c .read (c.act.map (fun l => (l, address c 2 4 l))) (fun _ => true)) [.ld 4 2 2 0 1, .ld 4 2 2 1 1] &&
      each (pointing 2 0x100) (fun c i => i.wellFormed && c.passes
        { regs := [4, 5, 2, 3], pairs := [4], reads := [2, 3], writes := loadTags c 4 19 2 } &&
        c.act.all (fun l => address c 2 (-8) l % 8 == 0) &&
        translates c .read (c.act.map (fun l => (l, address c 2 (-8) l))) (fun _ => true)) [.ld 4 2 19 2 (-1)] &&
      each (pointing 2 0x3F8) (fun c i => i.wellFormed && c.passes
        { regs := [4, 5, 2], reads := [2], writes := loadTags c 4 1 2 } &&
        c.act.all (fun l => scratchOffset c 2 0 l % 4 == 0 && c.s.scratchBad c.w 8 (scratchOffset c 2 0 l) 8 == none))
        [.lds 4 2 1 1 0] &&
      each (fun w => { w with k := [(1, 0x200)] }) (fun c i => i.wellFormed && !c.act.isEmpty &&
        c.passes { kreads := [1], kwrites := [2] } && translates c .read (c.act.map (fun l => (l, 0x200))) (fun ts => !ts.isEmpty))
        [.kld 2 1 2 0 0, .kld 2 1 19 1 0]) = true := by decide +kernel

theorem witness_stores :
    (each (pointing 2 0x100) (fun c i => i.wellFormed && c.passes
        { regs := [4, 2, 3], data := [(4, [2])], reads := [4, 2, 3] } &&
        translates c .write (c.act.map (fun l => (l, address c 2 0 l))) (fun ts =>
          unversioned c ((c.act.map (fun l => (l, address c 2 0 l))).zip ts))) [.st 4 2 2 0 0, .st 4 2 2 2 0] &&
      each (fun w => { w with k := [(1, 0x200)] }) (fun c i => i.wellFormed && !c.act.isEmpty &&
        c.passes { kreads := [1, 2] } && translates c .write (c.act.map (fun l => (l, 0x200))) (fun ts => !ts.isEmpty &&
          unversioned c ((c.act.map (fun l => (l, 0x200))).zip ts))) [.kst 2 1 2 0 0, .kst 2 1 19 1 0] &&
      each (pointing 2 0x3F8) (fun c i => i.wellFormed && c.passes
        { regs := [4, 5, 2], data := [(4, [2]), (5, [2])], reads := [4, 5, 2] } &&
        c.act.all (fun l => scratchOffset c 2 0 l % 4 == 0 && c.s.scratchBad c.w 8 (scratchOffset c 2 0 l) 8 == none))
        [.sts 4 2 2 1 0]) = true := by decide +kernel

/-- The hypotheses of the statement about atomics. -/
def amoMeets (c : Ctx) (i : Instr) : Bool :=
  (amoRow i).any (fun (op, _, a, b, _) =>
    let xs := c.act.map (fun l => (l, address c a 0 l))
    !c.act.isEmpty && c.passes (c.amoSpec op (match i with
      | .amoAdd d _ _ _ _ => d.toNat
      | _ => 6) a.toNat b.toNat) && (op < 12 || 14 < op || c.act.all (fun l => c.w.fmtAt l b.toNat != 0)) &&
    c.act.all (fun l => address c a 0 l % (4 * amoWords c b l) == 0) &&
    translates c .atomic xs (fun ts => ts.all (fun x => x.mt != 4) && unversioned c (xs.zip ts)))

theorem witness_atomics :
    (each (pointing 2 0x100) amoMeets
        [.amoAdd 6 2 4 0 0, .amoAdd 127 2 4 1 1, .amoMin 6 2 4 0 0, .amoMax 6 2 4 0 0, .amoXchg 6 2 4 0 0, .amoMinu 6 2 4 0 0,
          .amoMaxu 6 2 4 0 0, .amoAnd 6 2 4 0 0, .amoOr 6 2 4 0 0, .amoXor 6 2 4 0 0, .amoIncw 6 2 4 0 0, .amoDecw 6 2 4 0 0,
          .amoCas 6 2 4 0 0, .amoCasc 6 2 3 0 1] &&
      each (pointing 1 0x100) amoMeets [.amoFadd 6 2 4 0 0, .amoFmin 6 2 4 0 0, .amoFmax 6 2 4 0 0]) = true := by decide +kernel

/-- A queue control block of 4 elements of n words: their base, with an index of the head and of the tail (R370). -/
def wideBlock (base n head tail : Nat) : List Byte :=
  toBytes 32 (base + 4 * 2 ^ 64 + 4 * n * 2 ^ 96 + head * 2 ^ 128 + tail * 2 ^ 160)

/-- One of one-word elements at 0x800. -/
def blockBytes (head tail : Nat) : List Byte := wideBlock 0x800 1 head tail

/-- Bytes at a storage location. -/
def withBytes (key : Nat) (b : List Byte) (s : State) : State := { s with mem := mputs s.mem key b }

/-- The hypotheses of the statement about queue operations, for blocks of n words or none, with some entry parts. -/
def queueMeets (n parts : Nat) (c : Ctx) (i : Instr) : Bool :=
  (queueRow i).any (fun (op, d, a, b, _) =>
    let xs := c.act.map (fun l => (l, address c a 0 l))
    let elems := (List.range n).map (fun j => (if op = 0 then b.toNat else d.toNat + 1) + j)
    let src := if op = 0 then [b.toNat] else []
    let status := c.act.map (fun l => c.w.put l d.toNat 0 (mkTag 3 0))
    let o : OpSpec :=
      { regs := [a.toNat, a.toNat + 1, d.toNat] ++ src ++ elems
        reads := [a.toNat, a.toNat + 1] ++ src
        laneReads := if op = 0 then c.act.flatMap (fun l => elems.map (fun f => (l, f))) else []
        writes := status ++ (if op = 0 then [] else c.act.flatMap (fun l => elems.map (fun f => c.w.put l f 0 0))) }
    !c.act.isEmpty && xs.all (fun x => x.2 % 32 == 0) && c.passes o && passed (c.check { o with
      regs := [a.toNat, a.toNat + 1, d.toNat] ++ src
      laneReads := []
      writes := status }) &&
    translates c .atomic xs (fun ts =>
      let block := fun (x : Xlat) => QBlock.of (c.s.readNat c.w.tag x.ver x.key 32)
      let ents := ((c.act.zip ts).zipIdx).flatMap (fun x =>
        ((block x.1.2).entryFor op ((ts.take x.2).filter (fun y => y.key == x.1.2.key)).length).elim []
          (fun va => (entryParts va n).map (fun p => (x.1.1, p))))
      ts.all (fun x => (block x).ok == decide (n ≠ 0) && (!(block x).ok || (block x).esize == 4 * n)) && ents.length == parts &&
      translates c .atomic ents (fun es => unversioned c (xs.zip ts ++ ents.zip es))))

theorem witness_queue_operations :
    (each (pointing 2 0x100) (queueMeets 0 0) [.qpush 6 2 4 0 0, .qpop 6 2 0 0, .qpeek 6 2 0 0] &&
      inState (pointing 2 0x100) (withBytes (storageKey 0 0x100) (blockBytes 0 0)) (queueMeets 1 0)
        [.qpop 4 2 0 1, .qpeek 4 2 0 0] &&
      inState (pointing 2 0x100) (withBytes (storageKey 0 0x100) (blockBytes 0 1)) (queueMeets 1 1)
        [.qpush 6 2 4 0 0, .qpop 4 2 0 1, .qpeek 4 2 0 0] &&
      inState (pointing 2 0x100) (withBytes (storageKey 0 0x100) (wideBlock 0x878 4 0 1)) (queueMeets 4 2) [.qpop 3 2 0 1, .qpeek 3 2 0 0] &&
      inState (fun w => { pointing 2 0x100 w with rows := (List.range 9).map (fun r =>
          (r, { tag := mkTag 2 0, elems := [(0, if r = 2 then 0x100 else 0)], poison := 0, seen := 0 })) })
        (withBytes (storageKey 0 0x100) (wideBlock 0x878 4 0 0)) (queueMeets 4 2) [.qpush 1 2 4 0 0]) = true := by
  decide +kernel

/-- A wave with one operation in flight, to be performed. -/
def doing (kind : PendKind) (w : Wave) : Wave :=
  { filled 2 (fun _ => 0) w with
    pend := [{ id := 7, kind := kind, flag := none, serial := 0, offset := 4, dests := [], acquire := false, release := false,
               scope := 0 }]
    nextPend := 8 }

/-- Lane 0's access to address 0x100. -/
def cell (size : Nat) (rows : List Nat) (data : List Word) : LaneAcc :=
  { lane := 0, addr := 0x100, key := storageKey 0 0x100, mt := 0, ver := false, det := false, size := size, rows := rows, data := data }

/-- Whether operation 7 of the only wave is as given and a step on it goes on. -/
def performs (i : Nat → Instr) (kind : PendKind) (g : State → State) (p : State → Wave → Bool) : Bool :=
  let s := g (ready .nop (doing kind))
  match s.pending? s.cur 7 with
  | some (x, q) => q.kind == kind && p s x && goesOn (exec (i s.cur) s)
  | none => false

theorem witness_performed :
    (performs (fun w => .loadReturn w 7) (.load [cell 4 [6] []]) id (fun _ x => x.isLive 0) &&
      performs (fun w => .loadReturn w 7) (.loadScratch [{ cell 4 [6] [] with key := 0 }]) id (fun _ x => x.isLive 0) &&
      performs (fun w => .loadReturn w 7) (.loadK 3 (cell 8 [] []) false) id (fun _ _ => true) &&
      performs (fun w => .variableLatencyComplete w 7) (.regs [{ row := 6, lane := 0, val := 5, poison := false }] 0) id
        (fun _ x => x.isLive 0) &&
      performs (fun w => .storePerform w 7) (.store [cell 4 [] [9]]) id (fun s x => x.tag == 0 && s.versions.isEmpty &&
        Memory.wf s.mem) &&
      performs (fun w => .storePerform w 7) (.fence 3) id (fun _ _ => true) &&
      performs (fun w => .atomicPerform w 7) (.atomic 0 [2] [cell 4 [6] [9]] true) id (fun s x => x.tag == 0 &&
        s.versions.isEmpty && !s.anyPoison 0 false (storageKey 0 0x100) 4) &&
      performs (fun w => .atomicPerform w 7) (.atomic 11 [2] [cell 4 [6] [9, 1]] true) id (fun s _ =>
        s.readNat 0 false (storageKey 0 0x100) 4 != 9) &&
      performs (fun w => .atomicPerform w 7) (.atomic 11 [2] [cell 4 [6] [0, 1]] true) id (fun s _ =>
        s.readNat 0 false (storageKey 0 0x100) 4 == 0) &&
      performs (fun w => .atomicPerform w 7) (.atomic 0 [2] [cell 4 [6] [9]] true)
        (fun s => { s with poison := [storageKey 0 0x100 / 32] }) (fun s _ => s.anyPoison 0 false (storageKey 0 0x100) 4)) = true := by
  decide +kernel

/-- The hypotheses of the statement about barriers. -/
def barrierMeets (done : Bool) (c : Ctx) (i : Instr) : Bool :=
  (barrierRow c i).any (fun (site, count, _, fs) =>
    let b := c.s.barrier site
    (c.s.team? c.w.team).isSome && passed (c.checkRegs fs) && passed (c.checkPoison [] fs []) && !c.s.barComplete site b &&
    !b.filling && (tvals c.s.waves).all (fun v => site.agains b.phase.toNat v == []) && site.agains b.phase.toNat c.w == [] &&
    c.s.wave? c.w.uid == some c.w &&
    c.s.barComplete site { phase := b.phase, filling := true, expected := count, arrived := [c.w.uid] } == done)

theorem witness_fences_and_barriers :
    (each id (fun _ _ => true) [.fence 0 1, .fence 2 3] &&
      each (pointing 2 0x100) (fun c _ => passed (c.check { regs := [2, 3], pairs := [2], reads := [2, 3] })) [.cache 2 0, .cache 0 3] &&
      each (filled 2 (fun _ => 2)) (barrierMeets true) [.bara 3 0 0, .barw 3 0 0, .cbar] &&
      each (filled 2 (fun _ => 2)) (barrierMeets false) [.bara 3 1 2, .barw 3 1 2]) = true := by decide +kernel

/-- A ring of two slots of 16 bytes at scratchpad offset 0, with their states. -/
def twoSlots (a b : Nat) : Ring :=
  { init := true, base := 0, sizeLog := 4, countLog := 1, acq := 0, pub := 0, get := 0, rel := 0, slots := [(0, a), (1, b)], held := [],
    waiters := [] }

/-- The machine whose issuing wave's team has a ring. -/
def withRing (r : Ring) (s : State) : State :=
  match s.ctx? with
  | some c => s.setRing c.w.team 1 r
  | none => s

theorem witness_rings :
    (each (filled 2 (fun r => if r = 3 then 0x104 else 0)) (fun c _ => passed (c.checkRegs [2, 3]) && (c.s.team? c.w.team).isSome &&
        !c.s.ringStreamed c.w.team 1 && !c.s.ringCopying c.w.team 1 && (c.s.ring c.w.team 1).waiters.isEmpty &&
        c.s.scratchBad c.w 8 0 32 == none) [.rinit 2 1] &&
      inState (filled 2 (fun _ => 0)) (withRing (twoSlots 3 0)) (fun c _ => (c.s.ring c.w.team 1).init && c.passes (ringReg c 2 0))
        [.rstat 2 1] &&
      inState (filled 2 (fun _ => 0)) (withRing (twoSlots 0 0)) (fun c i => (ringRow i).isSome && c.passes (ringReg c 2 0) &&
        decide ((c.s.ring c.w.team 1).settle = c.s.ring c.w.team 1) &&
        [true, false].all (fun get => (c.w.heldWait.bind (Wait.ring? 1 get)).isNone)) [.racq 2 1, .rget 2 1] &&
      inState (filled 2 (fun _ => 0)) (withRing (twoSlots 3 3)) (fun c i => (ringRow i).isSome && c.passes (ringReg c 2 0) &&
        decide ((c.s.ring c.w.team 1).settle = c.s.ring c.w.team 1) &&
        [true, false].all (fun get => (c.w.heldWait.bind (Wait.ring? 1 get)).isNone)) [.racq 2 1, .rget 2 1] &&
      inState (filled 2 (fun _ => 0)) (withRing (twoSlots 1 4)) (fun c _ => passed (c.checkRegs [2])) [.rpub 2 1, .rrel 2 1] &&
      inState (filled 2 (fun _ => 16)) (withRing (twoSlots 1 4)) (fun c _ => passed (c.checkRegs [2])) [.rpub 2 1, .rrel 2 1]) =
      true := by decide +kernel


/-- The same access of another lane, at an offset. -/
def cellAt (lane off size : Nat) (rows : List Nat) (data : List Word) : LaneAcc :=
  { lane := lane, addr := 0x100 + off, key := storageKey 0 0x100 + off, mt := 0, ver := false, det := false, size := size, rows := rows, data := data }

/-- Accesses made on versioned pages. -/
def onVersions (l : List LaneAcc) : List LaneAcc := l.map (fun a => { a with ver := true })

/-- The machine whose issuing wave is that of branch 1, which is in a state. -/
def branched (st : TagState) (s : State) : State :=
  match s.ctx? with
  | some c => { (s.modWave c.w.uid (fun w => { w with tag := 1 })) with tagStates := [(1, st)] }
  | none => s

/-- What the statements on stores and atomics ask of accesses. -/
def plain (accs : List LaneAcc) : Bool :=
  accs.all (fun a => (a.size == 4 || a.size == 8) && a.key % a.size == 0 && decide (a.key + a.size ≤ 2 ^ 56) && !a.det)

/-- Two lanes' accesses of 8 and of 4 bytes that overlap. -/
def twoCells (ret : List (List Nat)) (d e : List Word) : List LaneAcc := [cellAt 0 0 8 (ret[0]?.getD []) d, cellAt 3 4 4 (ret[1]?.getD []) e]

theorem witness_stores_of_several_lanes :
    (let accs := twoCells [] [1, 2] [9]
     plain accs && accs.all (fun a => 4 * a.data.length == a.size) &&
     performs (fun w => .storePerform w 7) (.store accs) id (fun s x => x.tag == 0 && s.versions.isEmpty && Memory.wf s.mem) &&
     [TagState.live, .doomed, .squashed].all (fun st => performs (fun w => .storePerform w 7) (.store (onVersions accs)) (branched st)
       (fun s x => x.tag == 1 && s.tagState 1 == st && s.versions.isEmpty && Memory.wf s.mem))) = true := by decide +kernel

theorem witness_atomics_of_several_lanes :
    (let accs := twoCells [[6, 7], [6]] [1, 2] [9]
     plain accs &&
     performs (fun w => .atomicPerform w 7) (.atomic 0 [19, 2] accs true) id (fun s x => x.tag == 0 && s.versions.isEmpty &&
       Memory.wf s.mem && accs.all (fun a => !s.anyPoison 0 false a.key a.size)) &&
     performs (fun w => .atomicPerform w 7) (.atomic 0 [19, 2] (onVersions accs) true) (branched .live) (fun s x => x.tag == 1 &&
       s.versions.isEmpty && Memory.wf s.mem && accs.all (fun a => !s.anyPoison 1 true a.key a.size)) &&
     performs (fun w => .atomicPerform w 7) (.atomic 12 [1] [cell 4 [6] [0x3F800000]] true) id (fun s x =>
       (s.launch? x.launch).any (fun l => l.excFlags == 0) && (amoFloat 12 1 (s.readNat 0 false (storageKey 0 0x100) 4) 0x7F800001).2 != 0)) =
      true := by decide +kernel

/-- What performing operation 7 leaves in lanes' rows and in memory. -/
def performed {α : Type} (i : Nat → Instr) (kind : PendKind) (g : State → State) (p : State → Wave → α) : Option α :=
  let s := g (ready .nop (doing kind))
  match exec (i s.cur) s with
  | .next t => (t.wave? s.cur).map (p t)
  | _ => none

/-- R365 and R135: the lanes of a store one after the other; a branch's store leaves the committed bytes. -/
theorem test_store_lane_values :
    performed (fun w => .storePerform w 7) (.store (twoCells [] [1, 2] [9])) id
      (fun t _ => (t.readNat 0 false (storageKey 0 0x100) 8, t.readNat 0 false (storageKey 0 0x108) 4)) = some (0x900000001, 0) ∧
    performed (fun w => .storePerform w 7) (.store (onVersions (twoCells [] [1, 2] [9]))) (branched .live)
      (fun t _ => (t.readNat 0 false (storageKey 0 0x100) 8, t.readNat 1 true (storageKey 0 0x100) 8)) = some (0, 0x900000001) ∧
    performed (fun w => .storePerform w 7) (.store (onVersions (twoCells [] [1, 2] [9]))) (branched .squashed)
      (fun t _ => t.versions.isEmpty) = some true := by decide +kernel

/-- R362, R363 and R365: a 64-bit sum, then a 32-bit one on the word that it left; a floating sum. -/
theorem test_atomic_lane_values :
    performed (fun w => .atomicPerform w 7) (.atomic 0 [19, 2] (twoCells [[6, 7], [6]] [0xFFFFFFFF, 2] [9]) true)
      (withBytes (storageKey 0 0x100) (toBytes 8 1)) (fun t w => (t.readNat 0 false (storageKey 0 0x100) 8, w.elem 6 0, w.elem 7 0)) =
      some (0xC00000000, 1, 0) ∧
    performed (fun w => .atomicPerform w 7) (.atomic 12 [1] [cell 4 [6] [0x3F800000]] true) (withBytes (storageKey 0 0x100)
      (toBytes 4 0x40000000)) (fun t w => (t.readNat 0 false (storageKey 0 0x100) 4, w.elem 6 0)) = some (0x40400000, 0x40000000) := by
  decide +kernel
/-! ### Bulk copies, the block store, rays and the matrix engine -/

/-- Elements for one live lane, named one by one. -/
def holding (fmt : Nat) (l : List (Nat × Word)) (w : Wave) : Wave := filled fmt (fun r => tgetD l r 0) w

theorem witness_bulk :
    (each (holding 2 [(3, 64), (4, 0x100)]) (fun c i => (bulkRow c i).any (fun b => bulkPasses c b && c.mayBulk b.cls))
        [.cpyin 2 4 0, .cpyout 2 4 0] &&
      each (holding 2 [(3, 8), (4, 0x100)]) (fun c i => (bulkRow c i).any (fun b => bulkPasses c b && c.mayBulk b.cls))
        [.cpygath 2 4 0 1, .cpyscat 2 4 0 0] &&
      each (holding 19 [(3, 8), (4, 0x100)]) (fun c i => (bulkRow c i).any (fun b => bulkPasses c b && c.mayBulk b.cls))
        [.kvld 2 4 6, .kvst 2 4 6] &&
      inState (holding 2 [(3, 64), (4, 0x100)]) (fun s => match s.ctx? with
          | some c => (c.s.setWave { c.w with stall := some (1, 0) }).modWave c.w.uid (fun w => w)
          | none => s) (fun c _ => c.w.stall.isSome) [.cpyin 2 4 0] &&
      issues ((List.range 255).foldl (fun (s : State) _ => match s.ctx? with
          | some c => { s with eng := { id := 0, wave := c.w.uid, cls := 0, done := false } :: s.eng }
          | none => s) (ready (.cpyin 2 4 0) (fun w => { holding 2 [(3, 64), (4, 0x100)] w with stall := some (1, 0) })))
        (fun c => (bulkRow c (.cpyin 2 4 0)).any (bulkPasses c) && !c.mayBulk 0 && c.w.stall.isSome)) = true := by decide +kernel

theorem witness_ring_copies_and_digests :
    (inState (holding 2 [(2, 2), (4, 0x100)]) (withRing (twoSlots 0 0)) (fun c _ => passed (c.checkRegs [2, 4, 5]) &&
        passed (c.checkPoison [] [2, 4, 5] []) && (c.s.ring c.w.team 1).init && c.mayBulk 0 && c.s.bulk.isEmpty) [.cpyring 2 4 1] &&
      each (holding 2 []) (fun c _ => passed (c.checkRegs [2, 3])) [.pref 2 0] &&
      inState (holding 2 [(2, 0x100)]) (withBytes (storageKey 0 0x100) (toBytes 32 (0x200 + 64 * 2 ^ 64 + 0x400 * 2 ^ 128)))
        (fun c _ => passed (c.checkRegs [2, 3]) && passed (c.checkPoison [] [2, 3] []) && c.mayBulk 0 &&
          translates c .read ((List.range 4).map (fun i => (c.first, 0x100 + 8 * i))) (fun ts =>
            ts.map (fun x => c.s.readNat c.w.tag x.ver x.key 8) == [0x200, 64, 0x400, 0])) [.digest 2]) = true := by decide +kernel

theorem witness_block_names :
    (each (holding 19 [(4, 5)]) (fun c _ => c.passes (nameSpec c 2 [4])) [.kvalloc 2 4, .kvfree 2 4] &&
      each (holding 19 [(4, 5)]) (fun c _ => c.passes (nameSpec c 2 [4, 6])) [.kvshare 2 4 6] &&
      each (holding 19 [(4, 5)]) (fun c _ => c.passes
        { regs := [2, 4, 5], pairs := [4], reads := [4, 5]
          writes := c.act.map (fun l => c.w.put l 2 0 (mkTag 3 0)) }) [.kvmap 2 4] &&
      each (holding 2 []) (fun c _ => c.passes
        { regs := [2, 3], pairs := [2]
          writes := c.act.flatMap (fun l => [c.w.put l 2 0 (mkTag 3 0), c.w.put l 3 0 (mkTag 3 0)]) }) [.kvstat 2]) = true := by
  decide +kernel

/-- The block store with tables and blocks, as SRAMCFG and KVCFG make it. -/
def stored (s : State) : State :=
  { s with regs := { s.regs with sramcfg := 0x108, kvcfg := BitVec.ofNat 64 (2 ^ 16 + 96 * 2 ^ 8) } }

theorem witness_block_name_results :
    ((ready .nop id).kvOn == false && (stored (ready .nop id)).kvOn &&
      (let s := stored (ready .nop id)
       (s.kvBinding 0 5 0).isNone && decide (0 < s.kvFreeBlocks) && decide (0 < s.kvFreeNames) &&
       (let t := (s.kvAlloc 0 5 0).1
        (match t.kvBinding 0 5 0 with
          | some n => (tget t.kvBlocks n.block).any (fun b => !b.lost) && decide (t.kvRefs n.block < 65535)
          | none => false) && (t.kvBinding 0 6 0).isNone && decide (0 < t.kvFreeNames)))) = true := by decide +kernel

theorem witness_block_name_changes :
    (let s := (stored (ready .nop id)).kvAlloc 0 5 0
     let t := s.1.kvShare 0 5 6 2
     let lost : State := { t.1 with kvBlocks := t.1.kvBlocks.map (fun e => (e.1, { e.2 with lost := true })) }
     [s.1, t.1].all (fun u => (u.kvBinding 0 5 2).any (fun n => (tget u.kvBlocks n.block).any (fun b => !b.lost)) && decide u.kvNames.Nodup) &&
     (s.1.kvFree 0 5 2).2 == 0 && ((s.1.kvFree 0 5 2).1.kvBinding 0 5 2).isNone && (s.1.kvFree 0 5 2).1.kvBlocks.isEmpty &&
     ((t.1.kvFree 0 5 2).1.kvBinding 0 6 2).isSome && t.2 == 0 && (t.1.kvFree 0 7 2).2 == 2 && (lost.kvFree 0 5 0).2 == 5 &&
     (lost.kvShare 0 5 9 0).2 == 5) = true := by decide +kernel

theorem witness_rays :
    (each (fun w => { holding 1 [] w with rows := (List.range 20).map (fun r =>
          (r, { tag := mkTag 1 0, elems := [], poison := 0, seen := 0 })) })
        (fun c i => (match i with
          | .trace _ _ _ => c.passes (rayOperands 10 1 [2, 3, 4, 5, 6, 7] (c.act.flatMap (fun l => (List.range 6).map (fun j =>
              c.w.put l (2 + j) 0 (mkTag (if j = 0 ∨ j = 3 ∨ j = 4 then 1 else 3) 0)))) []) && decide (c.s.engCount c.w.uid 3 < 255)
          | _ => c.passes (rayOperands 10 1 [2, 3] [] [2, 3])) && (c.w.kreg 1).toNat % 128 == 0 && c.s.rays.isEmpty)
        [.trace 2 10 1, .traceq 2 10 1] &&
      each (holding 2 []) (fun c _ => c.passes { regs := [2], writes := c.act.map (fun l => c.w.put l 2 0 (mkTag 3 0)) })
        [.rquery 2 0, .rquery 2 4]) = true := by decide +kernel

/-- The machine whose issuing wave's team has a second wave, and its unit what `f` makes of it. -/
def grouped (f : Grp → Grp) (s : State) : State :=
  match s.ctx? with
  | some c => (s.modTeam c.w.team (fun t => { t with waves := 2 })).modGrp c.grp f
  | none => s

/-- The team and the unit of the issuing wave. -/
def teamAnd (c : Ctx) (p : Team → Grp → Bool) : Bool :=
  (c.s.team? c.w.team).any (fun t => (tget c.s.grps t.grp).any (p t))

/-- The machine whose issuing wave's team is granted more scratchpad. -/
def granting (n : Nat) (s : State) : State :=
  match s.ctx? with
  | some c => s.modTeam c.w.team (fun t => { t with granted := n })
  | none => s

theorem witness_gangs_and_streams :
    (inState (holding 19 [(2, 0x100), (3, 0x02000000)]) (grouped id) (fun c _ => c.passes
        { regs := [2, 3], pairs := [2], first := [2, 3] } && teamAnd c (fun t u =>
          let m := c.w.pair c.first 2
          let ms := (List.range 2).map (fun i => (m / 2 ^ (8 * i + 6) % 4, m / 2 ^ (8 * i) % 64))
          decide (m / 2 ^ 56 = 2 ∧ m % 2 ^ 56 < 2 ^ 16 ∧ ms = [(0, 0), (0, 1)]) &&
          ms.all (fun x => decide (x.1 < u.teams.length) && decide (x.2 < t.waves)) &&
          (c.s.gang t.grp 1).latch.isEmpty)) [.gang 1 2] &&
      inState (holding 2 [(2, 0x101), (3, 0x11)]) (fun s => granting 4096 (withRing { twoSlots 0 0 with sizeLog := 11 } s))
        (fun c _ => passed (c.checkRegs [2, 3]) && (c.s.ring c.w.team 1).init && isMatFmt 1 && !(subsOf 0x11).isEmpty &&
          decide (fragBytes (shapeK 1) (elemCount 1) ≤ 2048) && c.s.scratchBad c.w 8 0 4096 == none &&
          !c.s.ringStreamed c.w.team 1 && teamAnd c (fun t _ => (c.s.stream t.grp 1).st == 0)) [.strmopen 1 2]) = true := by decide +kernel

/-- An open stream of F32 fragments on ring 1, with gang 1 its subscriber. -/
def openStream : Stream :=
  { st := 1, team := 0, ring := 1, fmt := 1, scale := 0, subs := [{ gang := 1, window := 1, pos := 0, used := 0 }], taken := [], freed := 0 }

theorem witness_streams_close_and_stat :
    (inState id id (fun c _ => teamAnd c (fun t _ => (c.s.stream t.grp 1).st == 0)) [.strmclose 1] &&
      inState id (grouped (fun g => { g with streams := [(1, openStream)] })) (fun c _ => teamAnd c (fun t u =>
        (c.s.stream t.grp 1).st == 1 && (c.s.stream t.grp 1).taken.isEmpty && c.s.resv.isEmpty && u.gangs.isEmpty)) [.strmclose 1] &&
      inState (holding 2 []) (grouped (fun g => { g with streams := [(1, openStream)] })) (fun c _ => (c.s.stream c.grp 1).st == 1 &&
        c.passes { regs := [2], writes := c.act.map (fun l => c.w.put l 2 0 (mkTag 3 0)) }) [.strmstat 2 1]) = true := by
  decide +kernel

/-- The hypotheses of the statement about joint operations, on gang 1 and stream 1 with registers from 1 on. -/
def jointMeets (others : Nat) (c : Ctx) (i : Instr) : Bool :=
  (mmaRow i).any (fun (op, d, a, g, st, _) => teamAnd c (fun tm _ =>
    let gg := c.s.gang tm.grp g.toNat
    let x := c.s.stream tm.grp st.toNat
    let tag := (c.fragTag a.toNat x.fmt).1
    let n := fragRegs (pairK (tagFmt tag) x.fmt) (elemCount (tagFmt tag)) c.w.width
    decide (d.toNat < tm.accTiles) && x.st == 1 && (gg.members.findIdx? (fun y => y == (tm.rank, c.w.idx))) == some 0 &&
    (tget gg.reuse 0).isNone && (c.fragTag a.toNat x.fmt).2 && isMatFmt (tagFmt tag) &&
    passed (c.checkRegs ((List.range n).map (fun j => a.toNat + j))) &&
    matFormatOk op (tagParts tag) x.parts (c.s.tile c.w.team d.toNat).tag && x.subs.any (fun y => y.gang == g.toNat) &&
    !gg.retired && !gg.complete && decide (c.s.engCount c.w.uid 2 < 255) && gg.latch.length == others &&
    gg.latch.all (fun b => b.op == op && b.stream == st.toNat && (b.team != c.w.team || b.tile != d.toNat))))

/-- Another member's arrival. -/
def other (op : Nat) : Arrival :=
  { member := 1, wave := 77, team := 78, op := op, stream := 1, tile := 5, oldTag := 0, frag := { tag := 0, words := [], poison := [] }
    offset := 0, run := { hdr := 0, word := 0, last := 0, active := 1, serial := 0 }
    before := { vpc := [], wbase := [], wtop := 0, draw := [], lc := [], loops := [], parked := 0, parkMode := 0, mode := false }, eng := 0, oldReuse := none }

/-- Gang 1 of two members with some arrivals, and stream 1 open. -/
def meeting (l : List Arrival) (s : State) : State :=
  grouped (fun g => { g with
    gangs := [(1, { members := [(0, 0), (0, 1)], latch := l, complete := false, reuse := [], retired := false, waited := 0 })]
    streams := [(1, openStream)] }) s

theorem witness_joint_operations :
    (inState (holding 1 []) (meeting []) (jointMeets 0) [.mma 3 1 1 1 0, .mman 3 1 1 1 1, .mmas 3 1 1 1 0] &&
      inState (holding 1 []) (meeting [other 0]) (jointMeets 1) [.mma 3 1 1 1 0]) = true := by decide +kernel

theorem witness_accumulators :
    (inState (holding 2 [(3, 32768)]) (granting 32768) (fun c i => teamAnd c (fun tm _ => decide (3 < tm.accTiles)) && c.s.resv.isEmpty &&
        decide (c.s.engCount c.w.uid 2 < 255) && (match i with
          | .accz _ _ _ => true
          | _ => accRecordOk c 2)) [.accz 3 20 0, .accz 3 21 7, .accld 3 2 20, .accst 3 2] &&
      inState (holding 2 []) id (fun c i => i.wellFormed && teamAnd c (fun tm _ => decide (3 < tm.accTiles)) && c.passes
        { regs := (List.range 8).map (fun j => 8 + j)
          writes := c.act.flatMap (fun l => (List.range 8).map (fun j => c.w.put l (8 + j) 0 (mkTag 1 0))) })
        [.accrd 8 3 0 0 1] &&
      inState (holding 2 []) id (fun c i => i.wellFormed && c.passes
        { regs := [8], writes := c.act.map (fun l => c.w.put l 8 0 (mkTag 3 0)) }) [.accrd 8 3 0 1 0]) = true := by decide +kernel

/-! ### Tasks, the combine buffer, branches, flips and run headers -/

/-- The launch of the issuing wave with a task table at 0x800 of one entry, and a task depth. -/
def tasking (depth : Nat) (s : State) : State :=
  withBytes (storageKey 0 0x800) (toBytes 16 (1 + (64 * 2 ^ 32 + 7) * 2 ^ 64))
    { s with launches := s.launches.map (fun e => (e.1, { e.2 with record := BitVec.ofNat 2048 (0x800 * 2 ^ 512 + depth * 2 ^ 432) })) }

/-- Other launches that reserve the whole task pool. -/
def crowded (s : State) : State :=
  { s with launches := s.launches ++ s.launches.flatMap (fun e => [(0xFFFF, 100), (0xFFFF, 101), (0xFFFF, 102), (0xFFFF, 103), (4, 104)].map (fun x =>
      (x.2, { e.2 with uid := x.2, record := BitVec.ofNat 2048 (x.1 * 2 ^ 416) }))) }

/-- The hypotheses of the statement about task enqueues: lane 0's index and whether it takes an entry. -/
def enqMeets (full : Bool) (c : Ctx) (i : Instr) : Bool :=
  (enqRow i).any (fun (d, a, b, _) =>
    let grp := (List.range 8).map (fun j => a.toNat + j)
    (match c.launch? with
      | some l => !c.s.dropsTag c.w.tag && !l.stopDispatch && (match c.s.taskEntry l c.w.cancelled c.w.tag ((c.w.reg 0 b.toNat).toNat % 2 ^ 16) with
        | .entry _ _ _ => true
        | .invalid => true
        | _ => false)
      | none => false) && (decide (c.s.poolFree c.w.launch < 1) == full) && c.passes
      { regs := d.toNat :: b.toNat :: grp, reads := b.toNat :: grp, writes := statusWrites c d (fun _ => 0) })

theorem witness_task_enqueue :
    (inState (holding 2 []) (tasking 15) (enqMeets false) [.enqt 2 8 3, .enqtn 2 8 3] &&
      inState (holding 2 [(3, 9)]) (tasking 15) (enqMeets false) [.enqtn 2 8 3] &&
      inState (holding 2 []) (tasking 0) (enqMeets false) [.enqt 2 8 3] &&
      inState (holding 2 []) (fun s => crowded (tasking 15 s)) (enqMeets true) [.enqt 2 8 3, .enqtn 2 8 3]) = true := by decide +kernel

/-- A combine region of n × 4,096 units, and a record with a header and one entry at 0x100. -/
def combining (n : Nat) (header entry : Nat) (s : State) : State :=
  withBytes (storageKey 0 0x100) (toBytes 64 header ++ toBytes 64 entry)
    { s with regs := { s.regs with sramcfg := BitVec.ofNat 64 n } }

/-- One token of four F32 elements, and its one expert. -/
def goodHeader : Nat := 1 + 4 * 2 ^ 32

/-- Combine group 0 with generation 1. -/
def group0 (launch : Nat) : CbGroup :=
  { num := 0, gen := 1, launch := launch, domain := 0, tag := 0, depth := 0, column := 0, lcore := 0, waveIdx := 0, writer := 0
    header := BitVec.ofNat 512 goodHeader
    tokens := [(0, { entry := BitVec.ofNat 512 (2 ^ 64), st := 1, next := 0, arrived := 0, subst := 0, sums := [], bad := [], parked := [] })]
    late := 0, deadline := none, seq := 0, faultWait := none, cancelled := [] }

/-- The machine with that group open. -/
def opened (s : State) : State :=
  match s.ctx? with
  | some c => { s with groups := [(0, group0 c.w.launch)] }
  | none => s

/-- The hypotheses about CBOPEN on the record at 0x100. -/
def openMeets (p : Ctx → BitVec 512 → List (BitVec 512) → Bool) (c : Ctx) (_ : Instr) : Bool :=
  c.passes (onceSpec c 2 [4, 5] []) && !c.s.dropsTag c.w.tag && (match c.onceXlate .read [0x100] with
    | .ok (.go [x]) => (match c.onceXlate .read [0x140] with
      | .ok (.go [y]) => p c (BitVec.ofNat 512 (c.s.readNat c.w.tag x.ver x.key 64)) [BitVec.ofNat 512 (c.s.readNat c.w.tag y.ver y.key 64)]
      | _ => false)
    | _ => false)

/-- Whether a record is a group that fits. -/
def fits (c : Ctx) (h : BitVec 512) (es : List (BitVec 512)) : Bool :=
  headerOk h.toNat && es.all (fun e => entryOk h.toNat e.toNat) &&
    decide (groupUnits h es ≤ c.s.regs.sramcfg.toNat % 2 ^ 4 * 4096)

theorem witness_combine_groups :
    (inState (holding 2 [(4, 0x100)]) (combining 0 0 0) (openMeets (fun _ _ _ => true)) [.cbopen 2 4 0] &&
      inState (holding 2 [(4, 0x100)]) (combining 1 0 0) (openMeets (fun _ h _ => !headerOk h.toNat)) [.cbopen 2 4 0] &&
      inState (holding 2 [(4, 0x100)]) (combining 1 goodHeader 0) (openMeets (fun c h es => headerOk h.toNat && !fits c h es))
        [.cbopen 2 4 0] &&
      inState (holding 2 [(4, 0x100)]) (combining 1 goodHeader (2 ^ 64)) (openMeets (fun c h es => fits c h es &&
        c.s.cbWaiters.isEmpty && decide (c.s.cbUsed + groupUnits h es ≤ 4096) && c.s.groups.isEmpty)) [.cbopen 2 4 1] &&
      inState (holding 2 [(4, 0x100)]) (fun s => { combining 1 goodHeader (2 ^ 64) s with cbWaiters := [99] })
        (openMeets (fun c h es => fits c h es && !c.s.cbWaiters.isEmpty)) [.cbopen 2 4 0, .cbopen 2 4 1] &&
      inState (holding 2 [(4, 0x10000)]) opened (fun c _ => passed (c.checkRegs [4]) && passed (c.checkPoison [] [4] []) &&
        (c.s.cbGroup? c.dom (c.w.reg c.first 4)).isSome) [.cbclose 4] &&
      each (holding 2 []) (fun c _ => (c.s.cbGroup? c.dom (c.w.reg c.first 4)).isNone) [.cbclose 4]) = true := by decide +kernel

theorem witness_combine_arrivals :
    (inState (holding 2 [(2, 0x10000), (4, 0x100)]) opened (fun c _ => passed (c.check { regs := [2, 3, 4, 5], reads := [2, 3, 4, 5] }) &&
        (c.s.cbGroup? c.dom (c.w.reg 0 2)).isSome && c.launch?.isSome && !c.act.isEmpty) [.cbput 2 4 0] &&
      inState (holding 2 [(2, 0x10000)]) opened (fun c _ => passed (c.check { regs := [2, 3, 4], reads := [2, 3, 4] }) &&
        (c.s.cbGroup? c.dom (c.w.reg 0 2)).isSome && c.s.scratchBad c.w 8 0 16 == none) [.cbput 2 4 1] &&
      each (holding 2 []) (fun c _ => passed (c.check { regs := [2, 3, 4, 5], reads := [2, 3, 4, 5] }) &&
        (c.s.cbGroup? c.dom (c.w.reg 0 2)).isNone && (c.launch?.any (fun l => l.late.toNat + c.act.length < 2 ^ 32))) [.cbput 2 4 0] &&
      each (holding 2 []) (fun c _ => c.passes { regs := [2, 4, 5], pairs := [4], reads := [4, 5], writes := statusWrites c 2 (fun _ => 0) })
        [.cbstat 2 4]) = true := by decide +kernel

/-- An open set of the branches 1 and 2 of domain 0, branch 2 squashed. -/
def branching (s : State) : State :=
  { s with
    sets := [{ domain := 0, id := 0, tags := [1, 2], isOpen := true, backing := 0, pages := 0, doneAddr := 0 }]
    tagStates := [(1, .live), (2, .squashed)] }

/-- The hypotheses about COMMIT and SQUASH. -/
def branchMeets (p : Ctx → Nat → Option SpecSet → Bool) (c : Ctx) (_ : Instr) : Bool :=
  let v := (c.w.reg c.first 4).toNat
  c.passes (onceSpec c 2 [4] []) && p c v (c.s.openSet? c.dom (v % 4))

theorem witness_branching :
    (each (holding 2 []) (fun c _ => c.w.tag == 0 && c.passes (readSpec c 2 false (fun _ => 0))) [.brid 2] &&
      inState (fun w => { holding 2 [] w with tag := 1 }) branching (fun c _ => (c.s.setOf? c.w.tag).isSome &&
        c.passes (readSpec c 2 false (fun _ => 0x401))) [.brid 2] &&
      each (holding 2 []) (fun c _ => c.passes (readSpec c 2 true (fun _ => 0))) [.vstat 2] &&
      each (holding 2 [(4, 4)]) (branchMeets (fun _ v _ => decide (v ≠ v % 4 + v / 16 % 8 * 16 ∧ v ≠ v % 4 + v / 256 % 256 * 256)))
        [.commit 2 4, .squash 2 4] &&
      each (holding 2 []) (branchMeets (fun _ _ x => x.isNone)) [.commit 2 4, .squash 2 4] &&
      inState (fun w => { holding 2 [] w with tag := 1 }) branching (branchMeets (fun c _ x => x.any (fun y => y.tags.contains c.w.tag)))
        [.commit 2 4, .squash 2 4] &&
      inState (holding 2 [(4, 32)]) branching (branchMeets (fun _ v x => x.any (fun y => decide (y.tags.length ≤ v / 16)))) [.commit 2 4] &&
      inState (holding 2 [(4, 16)]) branching (branchMeets (fun c _ x => x.any (fun y => c.s.branchState y 1 == .squashed))) [.commit 2 4] &&
      inState (holding 2 []) branching (branchMeets (fun c _ x => x.any (fun y => c.s.branchState y 0 == .live))) [.commit 2 4] &&
      inState (holding 2 [(4, 1024)]) branching (branchMeets (fun _ v x => x.any (fun y => decide (2 ^ y.tags.length ≤ v / 256))))
        [.squash 2 4] &&
      inState (holding 2 [(4, 768)]) branching (branchMeets (fun _ v x => x.any (fun y => decide (v / 256 < 2 ^ y.tags.length))))
        [.squash 2 4]) = true := by decide +kernel

/-- Head 0 scanning out for domain 0, with n flips queued. -/
def showing (n : Nat) (s : State) : State :=
  s.setHead 0 { s.head 0 with scanning := true, flips := List.replicate n { surface := 0, doneAddr := 0, tag := 0 } }

/-- A branch's version of line 2. -/
def version2 : Version := { line := 2, tag := 1, bytes := [], poison := 0, backed := false }

theorem witness_flips_and_drops :
    (each (holding 19 []) (fun c _ => c.passes (onceSpec c 2 [4, 5, 6, 7, 8] [4]) && !(c.s.head 0).scanning) [.flipq 2 4] &&
      each (holding 19 [(4, 8)]) (fun c _ => decide (c.w.pair c.first 4 % 4096 ≠ 0)) [.flipq 2 4] &&
      inState (holding 19 []) (showing 3) (fun c _ => c.passes (onceSpec c 2 [4, 5, 6, 7, 8] [4]) && (c.s.head 0).scanning) [.flipq 2 4] &&
      inState (holding 19 []) (showing 16) (fun c _ => (c.s.head 0).flips.length == 16) [.flipq 2 4] &&
      inState (fun w => { holding 2 [(4, 0x100), (6, 128)] w with tag := 1 }) (fun s => { branching s with versions := [version2] })
        (fun c _ => passed (c.checkRegs [4, 5, 6]) && passed (c.checkPoison [] [4, 5, 6] []) &&
          (match c.onceXlate .write ((rangeUnits 2 0x100 128).map (fun x => x.1)) with
            | .ok (.go xs) => xs.length == 1
            | _ => false)) [.vdrop 4 6]) = true := by decide +kernel

/-- A machine whose wave has reached a run header, the wave changed. -/
def atHeader (f : Wave → Wave) : State :=
  let s := State.reset.withFetchWord 32 (encode (.runHeader 1 0 2 3 1)).toNat
  s.modWave s.cur f

/-- The hypotheses about run headers, and whether its checks pass. -/
def headerMeets (len : Nat) (wait : BitVec 12) (ok : Bool) (s : State) : Bool :=
  match s.wave? s.cur with
  | some w => (match s.launch? w.launch, w.issueAddr? with
    | some l, some hdr => w.betweenRuns && w.wait == .none && goesOn (exec (.runHeader (BitVec.ofNat 5 len) wait 2 3 1) s) &&
      ok == (match s.checkHeader w l hdr { len := len, wait := wait, sf1 := 2, sf2 := 3, opens := true } with
        | .ok => true
        | _ => false)
    | _, _ => false)
  | none => false

theorem witness_run_headers :
    (headerMeets 1 0 true (atHeader id) && headerMeets 0 0 false (atHeader id) && headerMeets 25 0 false (atHeader id) &&
      headerMeets 1 4 true (atHeader (fun w => { w with pend := [{ id := 0, kind := .fence 0, flag := some 2, serial := 0, offset := 0, dests := [], acquire := false,
                                                                   release := false, scope := 0 }] })) &&
      each id (fun _ _ => true) [.nop]) = true := by decide +kernel

/-! ### The device's own steps: queues and packets -/

/-- The device in D0, with page 0 of domain 0 mapped to itself. -/
def base : State := { State.reset with dev := .d0, tlb := [{ domain := 0, page := 0, pages := 1, leaf := 0x1F, inUse := true }] }

/-- The machine whose queue 0 has a packet of some slots in its ring at 0x400. -/
def queueing (st : QState) (slots : List Nat) (s : State) : State :=
  (withBytes (storageKey 0 0x400) (slots.flatMap (toBytes 64)) s).setQueue 0
    { s.queue 0 with st := st, ringBase := 0x400, logSlots := 4, writeIndex := BitVec.ofNat 32 slots.length }

/-- What InHand asks, as a check. -/
def inHand (s : State) (q : Nat) (st : QState) (type : Nat) (used : Nat → Nat → Nat) (slots : List Nat) : Bool :=
  (s.queue q).st == st && !s.isWaiting 0 q && !slots.isEmpty &&
    decide (slots.length ≤ (s.queue q).pending ∧ (s.queue q).pending ≤ (s.queue q).slots) &&
    slots.zipIdx.all (fun x => (match s.parserRead q (s.queue q).domain ((s.queue q).slotAddr x.2) 64 with
      | .ok v => v == x.1
      | .error _ => false) && x.1 &&& used x.2 (slots.headD 0) == x.1) &&
    slots.headD 0 % 2 ^ 8 == type && (headerReason (slots.headD 0)).isNone && moreOf (slots.headD 0) == some (slots.length - 1) &&
    !s.queueWork q

theorem inHand_of {s : State} {q : Nat} {st : QState} {type : Nat} {used : Nat → Nat → Nat} {slots : List Nat}
    (h : inHand s q st type used slots = true) : s.InHand q st type used slots := by
  simp only [inHand, Bool.and_eq_true, beq_iff_eq, decide_eq_true_eq, Bool.not_eq_true', List.all_eq_true,
    Option.isNone_iff_eq_none] at h
  obtain ⟨⟨⟨⟨⟨⟨⟨⟨h1, h2⟩, h3⟩, h4⟩, h5⟩, h6⟩, h7⟩, h8⟩, h9⟩ := h
  refine ⟨h1, h2, ?_, h4, ?_, h6, h7, h8, fun _ _ => .inr h9⟩
  · rintro rfl
    simp at h3
  · intro i v hv
    have hm : (v, i) ∈ slots.zipIdx := by
      rw [List.mem_zipIdx_iff_getElem?]
      exact hv
    obtain ⟨a, b⟩ := h5 _ hm
    refine ⟨?_, b⟩
    revert a
    cases hr : s.parserRead q (s.queue q).domain ((s.queue q).slotAddr i) 64 with
    | error e => intro a; simp at a
    | ok n => intro a; simp only [beq_iff_eq] at a; rw [a]

/-- Whether a step on the device goes on. -/
def stepsOn (i : Instr) (s : State) : Bool := goesOn (exec i s)

theorem witness_queue_steps :
    (let enabled := withBytes (storageKey 0 0) (toBytes 32 (0x400 * 2 ^ 192 + 4 * 2 ^ 160 + 2 ^ 128))
        (withBytes (storageKey 0 0x800) (toBytes 8 (2 ^ 63)) { base with regs := { base.regs with bootstat := 1, domtbase := 0x800 } })
     (enabled.queue 0).st == .disabled && enabled.dev == .d0 && enabled.regs.bootstat.toNat % 2 ^ 8 == 1 &&
     bit (enabled.readNat 0 false (enabled.qcbKey 0) 32) 128 && decide (enabled.queuePartition 0 < enabled.partitions) &&
     bit (enabled.readNat 0 false (storageKey 0 0x800) 8) 63 && stepsOn (.queueEnable 0) enabled &&
     [QState.idle, .error, .parse, .fence, .serial, .deadline, .held].all (fun st =>
       let s := queueing st [] base
       !bit (s.readNat 0 false (s.qcbKey 0) 32) 128 && (s.queue 0).pending == 0 && stepsOn (.queueDisable 0) s &&
       stepsOn (.writeIndexUpdate 0) s) &&
     (let s := withBytes (storageKey 0 0) (toBytes 4 99) (queueing .idle [] base)
      [QState.idle, .parse, .fence, .serial, .deadline, .held].all (fun st => stepsOn (.writeIndexUpdate 0) (s.setQueue 0 { s.queue 0 with st := st })) &&
      decide (2 ^ 4 < ({ s.queue 0 with writeIndex := BitVec.ofNat 32 (s.readNat 0 false (s.qcbKey 0) 32 % 2 ^ 32) } : Queue).pending)) &&
     (queueing .serial [0] base).queueWork 0 == false && stepsOn (.serialWaitEnd 0) (queueing .serial [0] base)) = true := by
  decide +kernel

theorem witness_nop_packet : ∃ (s : State) (v : Nat), s.InHand 0 .parse 0 (fun _ _ => 2 ^ 64 - 1) [v] :=
  ⟨queueing .parse [0] base, 0, inHand_of (by decide +kernel)⟩

/-- A SIGNAL packet: operation, value and address 0x800. -/
def signalPacket (op n : Nat) : Nat := 3 + 0x800 * 2 ^ 64 + n * 2 ^ 128 + op * 2 ^ 160

theorem witness_counter_packets :
    [(0, 5), (1, 5), (1, 0xFFFFFFFF), (2, 1), (2, 9), (3, 0)].all (fun x =>
      let s := withBytes (storageKey 0 0x800) (toBytes 4 7) (queueing .parse [signalPacket x.1 x.2] base)
      inHand s 0 .parse 3 (fun _ _ => 2 ^ 162 - 1) [signalPacket x.1 x.2] && (match s.xlateFor 0 0 0 0x800 .atomic with
        | .ok t => s.readNat 0 false t.key 4 == 7 && !s.poisonedAt 0 false t.key &&
          ({ s with poison := [t.key / 32] } : State).poisonedAt 0 false t.key
        | .error _ => false)) = true := by decide +kernel

/-- A FENCE packet of one entry: counter 0x800 at least n. -/
def fencePacket (n : Nat) : Nat := 2 + 1 * 2 ^ 64 + (2 + n * 2 ^ 32 + 0x800 * 2 ^ 64) * 2 ^ 128

theorem witness_fence_packets :
    [(QState.parse, 5), (.parse, 9), (.fence, 5), (.fence, 9)].all (fun x =>
      let s := withBytes (storageKey 0 0x800) (toBytes 4 7) (queueing x.1 [fencePacket x.2] base)
      inHand s 0 x.1 2 fenceUsed [fencePacket x.2] && (match s.parserRead 0 0 0x800 4 with
        | .ok c => c == 7
        | .error _ => false) && counterMeets 2 x.2 7 == decide (x.2 ≤ 7) &&
      stepsOn (if x.1 = .parse then .fencePacket 0 else .fenceEvaluation 0) s &&
      [true, false].all (fun seen => stepsOn (.fenceEvaluation 0) (s.setQueue 0 { s.queue 0 with fenceSeen := [seen] }))) = true := by decide +kernel

theorem witness_timestamp :
    (let v := 9 + 0x800 * 2 ^ 64
     let s := queueing .parse [v] base
     inHand s 0 .parse 9 (fun _ _ => 2 ^ 128 - 1) [v] && (match s.xlateFor 0 0 0 0x800 .write with
       | .ok t => !t.ver
       | .error _ => false) && stepsOn (.timestamp 0) s) = true := by decide +kernel

/-- A COPY packet from 0x800 to 0xA00, or a fill. -/
def copyPacket (fill n : Nat) : Nat := 8 + (if fill = 1 then 0xAB else 0x800) * 2 ^ 64 + 0xA00 * 2 ^ 128 + n * 2 ^ 192 + fill * 2 ^ 232

/-- The copy in flight that the packet starts. -/
def flight (fill : Bool) : PacketCopy :=
  { id := 1, queue := 0, domain := 0, slot := 0, ident := 0, fill := fill, src := if fill then 0xAB else 0x800, dst := 0xA00, bytes := 8
    done := 0, faultWait := none, cancelled := [], lost := [] }

theorem witness_copy_packets :
    ([(0, 0), (0, 8), (1, 0), (1, 8)].all (fun x => inHand (queueing .parse [copyPacket x.1 x.2] base) 0 .parse 8
        (fun _ _ => 2 ^ 233 - 1) [copyPacket x.1 x.2]) &&
      [true, false].all (fun f =>
        let s : State := { base with packetCopies := [(1, flight f)] }
        (tget s.packetCopies 1).isSome && stepsOn (.copyRetire 1) s && stepsOn (.copyStop 1) s &&
        (f || (match s.engRead (flight f).eng 0x800 8 with
          | (bs, none) => bs.all (fun b => !b.2) && (match s.engWrite (flight f).eng 0xA00 bs with
            | (_, none) => true
            | _ => false) && (match ({ s with tlb := [{ domain := 0, page := 0, pages := 1, leaf := 0x1F, inUse := true }] } : State).engWrite
                { (flight f).eng with dom := 0 } (2 ^ 52) bs with
              | (_, some _) => true
              | _ => false)
          | _ => false)) &&
        (match s.engWrite (flight f).eng 0xA00 ((List.range 8).map (fun i => (BitVec.ofNat 8 i, false))) with
          | (_, none) => true
          | _ => false))) = true := by decide +kernel

/-- A DEADLINE packet for head 0 with a lead, and a record at 0x800. -/
def deadlinePacket (lead : Nat) : Nat := 10 + 0x800 * 2 ^ 64 + lead * 2 ^ 128

/-- Head 0 scans out at 60 Hz with 1,100 lines of which 1,080 are shown. -/
def scanningOut (s : State) : State :=
  s.setHead 0 { s.head 0 with
    scanning := true
    ctl := BitVec.ofNat 64 (3 + 1080 * 2 ^ 32)
    mode := BitVec.ofNat 64 (6000 + 1100 * 2 ^ 16) }

theorem witness_deadlines :
    (inHand (queueing .parse [deadlinePacket 0] base) 0 .parse 10 (fun _ _ => 2 ^ 162 - 1) [deadlinePacket 0] &&
      (let s := queueing .parse [deadlinePacket 100] (scanningOut base)
       (s.head 0).scanning && decide (s.ns + 100 < (s.head 0).nextBlank s.ns) && !(s.queue 0).fired && stepsOn (.deadline 0) s) &&
      (let s := queueing .parse [deadlinePacket 0x7FFFFFFF] (scanningOut base)
       decide ((s.head 0).nextBlank s.ns ≤ s.ns + 0x7FFFFFFF) && stepsOn (.deadline 0) s) &&
      [0, 5].all (fun t =>
        let s := (queueing .deadline [deadlinePacket 9] base).setQueue 0 { (queueing .deadline [deadlinePacket 9] base).queue 0 with fireAt := t }
        inHand s 0 .deadline 10 (fun _ _ => 2 ^ 162 - 1) [deadlinePacket 9] && decide ((s.queue 0).fireAt ≤ s.ns) == decide (t = 0) &&
        stepsOn (.deadlineFire 0) s)) = true := by decide +kernel

/-- A FORK of two branches into set 1. -/
def forkPacket (n : Nat) : Nat := 4 + 2 ^ 96 + n * 2 ^ 104

theorem witness_fork :
    ([1, 2].all (fun n => inHand (queueing .parse [forkPacket n] base) 0 .parse 4 (fun _ _ => forkUsed) [forkPacket n] &&
        stepsOn (.fork 0) (queueing .parse [forkPacket n] base)) &&
      (let s0 := queueing .held [forkPacket 2] base
       let s := s0.setQueue 0 { s0.queue 0 with held := 4, forkOrder := some 0 }
       inHand s 0 .held 4 (fun _ _ => forkUsed) [forkPacket 2] && decide (s.noteForks = s) &&
       (tvals s.queues).all (fun y => y.forkOrder.all (fun p => decide (0 ≤ p))) &&
       decide (2 ≤ ((List.range 15).filter (fun i => s.tagState (i + 1) == .free)).length) && stepsOn (.forkProceed 0) s)) = true := by
  decide +kernel

/-- A COMMIT or SQUASH packet for set 0: branch and mask. -/
def endPacket (type branch mask : Nat) : Nat := type + branch * 2 ^ 68 + mask * 2 ^ 72

theorem witness_end_packets :
    [(5, 0, 0), (5, 1, 0), (5, 2, 0), (6, 0, 0), (6, 0, 1), (6, 0, 3)].all (fun x =>
      let v := endPacket x.1 x.2.1 x.2.2
      let s := queueing .parse [v] (branching base)
      inHand s 0 .parse x.1 (fun _ _ => field 191 128 ||| (if x.1 = 5 then field 70 68 else field 79 72) ||| field 65 0) [v] &&
      (s.openSet? 0 0).isSome && stepsOn (if x.1 = 5 then .commitPacket 0 else .squashPacket 0) s) = true := by decide +kernel

/-- Queue 0 waits to commit tag 1. -/
def committing (s : State) : State := s.setQueue 0 { s.queue 0 with st := .held, held := 5, commitTag := 1 }

theorem witness_commit_steps :
    (let s := committing (branching base)
     s.waitingCommit? true 0 == some 1 && s.tagState 1 == .live && s.quiescent 1 && (s.setOf? 1).isSome &&
     stepsOn (.commitQuiescent true 0) s &&
     ({ s with tagStates := [(1, .doomed)] } : State).tagState 1 == .doomed &&
     (let b : State := { s with packetCopies := [], waves := (ready .nop (fun w => { w with tag := 1 })).waves
                                launches := (ready .nop id).launches, teams := (ready .nop id).teams }
      b.quiescent 1 == false) &&
     (let w := ready .nop (fun w => { w with wait := .commit 2 1 1 })
      w.waitingCommit? false w.cur == some 1 && (w.wave? w.cur).any (fun x => x.uid == w.cur && !x.mode))) = true := by decide +kernel

theorem witness_scrub :
    (let s : State := { base with versions := [version2], tagStates := [(1, .committed)] }
     (s.committedVersion? 2).any (fun v => v.tag != 0) && s.sets.isEmpty && Memory.wf s.mem && stepsOn (.scrub 2) s) = true := by
  decide +kernel

theorem witness_flip_packets :
    [(QState.parse, 3, true), (.parse, 16, true), (.held, 3, true), (.held, 16, true), (.parse, 0, false)].all (fun x =>
      let s0 := queueing x.1 [7] (if x.2.2 then showing x.2.1 base else base)
      let s := s0.setQueue 0 { s0.queue 0 with held := if x.1 = .held then 7 else 0 }
      inHand s 0 x.1 7 (fun _ _ => flipUsed) [7] && (s.head 0).domain == (s.queue 0).domain && (s.head 0).scanning == x.2.2 &&
      stepsOn (if x.1 = .parse then .flip 0 else .flipQueueAdmit 0) s) = true := by decide +kernel

/-! ### The device's own steps: launches, tasks, waves -/

/-- A LAUNCH packet that names the record at 0x800. -/
def launchPacket : Nat := 1 + 0x800 * 2 ^ 64

/-- A launch record of some teams of one wave of sixteen lanes, in no set. -/
def launchRecord (teams : Nat) : Nat := teams * 2 ^ 128 + 16 * 2 ^ 192 + 2 ^ 280 + 7 * 2 ^ 440

/-- Queue 0 with that packet and a record. -/
def launching (packet record : Nat) : State := withBytes (storageKey 0 0x800) (toBytes 256 record) (queueing .parse [packet] base)

theorem witness_launch_packets :
    ([launchRecord 1, launchRecord 1 + 2 ^ 115, launchRecord 1 + 4, launchRecord 1 - 7 * 2 ^ 440].all (fun r =>
        inHand (launching launchPacket r) 0 .parse 1 (fun _ _ => 2 ^ 128 - 1) [launchPacket] &&
        (match (launching launchPacket r).parserRead 0 0 0x800 256 with
          | .ok v => v == r
          | .error _ => false) && stepsOn (.launch 0) (launching launchPacket r) && stepsOn (.launchAccept 0) (launching launchPacket r)) &&
      recordClean (launchRecord 1) && recordOk (launchRecord 1) && !recordClean (launchRecord 1 + 2 ^ 115) &&
      !recordOk (launchRecord 1 + 4) && recordOk (launchRecord 1 - 7 * 2 ^ 440) &&
      (base.openSet? 0 0).isNone && (match (launching launchPacket (launchRecord 1)).parserRead 0 0 0 0 with
        | .ok _ => true
        | .error _ => false) &&
      inHand (launching (launchPacket + 2 ^ 64) 0) 0 .parse 1 (fun _ _ => 2 ^ 128 - 1) [launchPacket + 2 ^ 64] &&
      (let s0 := launching (launchPacket + 9) (launchRecord 1)
       let s := s0.setQueue 0 { s0.queue 0 with fired := true }
       inHand s 0 .parse 10 (fun _ _ => 2 ^ 162 - 1) [launchPacket + 9] && stepsOn (.launchAccept 0) s)) = true := by decide +kernel

/-- The machine with a loaded-object header at address 0. -/
def loaded (s : State) : State := withBytes (storageKey 0 0) (toBytes 64 (2 ^ 304 + 0xFC0 * 2 ^ 352)) s

/-- A machine whose launch, that of the issuing wave, has a record of two teams. -/
def dispatching (s : State) : State :=
  { s with launches := s.launches.map (fun e => (e.1, { e.2 with record := BitVec.ofNat 2048 (launchRecord 2) })) }

theorem witness_dispatch :
    (let s := loaded (dispatching (ready .nop id))
     s.launches.all (fun e => e.2.uid == e.1 && !e.2.suspended && !s.isWaiting 1 e.1 && s.isServed e.2 && s.unitReady e.2 &&
       (match s.dispatchChecks e.2 with
         | .go _ => true
         | _ => false) && (s.nextUnit e.2).any (fun x => (e.2.insts[x.1]?).isSome && !x.2.2.2.isEmpty) &&
       stepsOn (.teamDispatch e.1) s)) = true := by decide +kernel

/-- A write of the device's own that waits on record 4. -/
def waitingWrite : DevWrite :=
  { domain := 0, va := 0x800, bytes := [1, 2, 3, 4], add := false, code := 2, lcore := 0, wave := 0, launch := 0, chain := none
    waits := some 4 }

theorem witness_retire :
    (let s := ready .nop id
     s.launches.all (fun e => s.holdsWork e.2 && stepsOn (.launchRetire e.1) s) &&
     (let t : State := { s with waves := [], teams := [], grps := [] }
      t.launches.all (fun e => !t.holdsWork e.2 && !e.2.retiring && !t.isWaiting 1 e.1 && stepsOn (.launchRetire e.1) t) &&
      [[], [waitingWrite]].all (fun ws =>
        let u : State := { t with
          devWrites := ws.flatMap (fun d => t.launches.map (fun e => { d with chain := some e.1 }))
          launches := t.launches.map (fun e => (e.1, { e.2 with retiring := true })) }
        u.launches.all (fun e => e.2.retiring && stepsOn (.launchRetire e.1) u))) &&
     s.waves.all (fun e => !s.mayRetire e.2 && stepsOn (.waveRetire e.1) s) &&
     (let t := s.modWave s.cur (fun w => { w with vpc := [], run := none })
      t.waves.all (fun e => t.mayRetire e.2 && e.2.tag == 0 && stepsOn (.waveRetire e.1) t))) = true := by decide +kernel

/-- A task of the issuing wave's launch. -/
def task (id launch accept : Nat) : Task :=
  { id := id, launch := launch, entry := 0, key := 7, tag := 0, depth := 1, accept := accept, record := [1, 2, 3, 4, 5, 6, 7, 8], share := 0
    clk := 0 }

/-- The machine with n tasks in column 0's share. -/
def pooled (n : Nat) (s : State) : State :=
  { s with pool := s.launches.flatMap (fun e => (List.range n).map (fun i => task (i + 1) e.1 i)) }

theorem witness_jig :
    ([16, 3].all (fun n =>
        let s := pooled n (ready .nop id)
        (s.poolTask? 0 1).any (fun t => (s.launch? t.launch).any (fun l => !l.suspended && !l.stopDispatch) && (s.bin 0 t).length == n) &&
        stepsOn (.jigFormWave 0 1) s && stepsOn (.jigTimeout 0 1) s && stepsOn (.jigDetPartialWave 0 1) s) &&
      (let s := pooled 3 ((ready .nop id).modColumn 0 (fun c => { c with clk := 2048 }))
       s.launches.all (fun e => decide (s.hostClk e.1 0 ≥ 2048)) && stepsOn (.jigTimeout 0 1) s) &&
      (let s0 := ready .nop id
       let s := pooled 3 { s0 with launches := s0.launches.map (fun e => (e.1, { e.2 with record := BitVec.ofNat 2048 (2 ^ 119) })) }
       s.launches.all (fun e => bit e.2.record.toNat 119) && stepsOn (.jigDetPartialWave 0 1) s &&
       stepsOn (.jigDetPartialWave 0 1) { s with waves := [] } &&
       (let quiet : State := { s with waves := [] }
        (quiet.poolTask? 0 1).any (fun t => (quiet.launch? t.launch).any quiet.isQuiet && (quiet.bin 0 t).any (fun x =>
          quiet.pool.all (fun y => decide (x.accept ≤ y.accept))))))) = true := by decide +kernel

theorem witness_task_placement :
    ([tasking 15, id].all (fun f =>
        let s0 := loaded (f (ready .nop id))
        let s : State := { s0 with formed := s0.launches.map (fun e => { id := 9, column := 0, tasks := [task 1 e.1 0] }) }
        s.formed.all (fun x => x.id == 9 && x.tasks.all (fun t => (s.launch? t.launch).any (fun l => l.uid == t.launch &&
          !l.suspended && !l.stopDispatch && !s.isWaiting 1 l.uid && !s.isWaiting 3 l.uid && s.isServed l && (match s.taskRole l t with
            | .invalid => true
            | .entry _ role _ => (match s.dispatchChecks l with
              | .go m => (s.taskPlace m x role).isSome
              | _ => false)
            | _ => false)))) && stepsOn (.taskWavePlace 9) s)) = true := by decide +kernel

theorem witness_handoffs :
    ([(0, Instr.continuationToPool 5), (1, .traceqTaskHandoff 5), (2, .cbReleaseTaskHandoff 5)].all (fun x =>
        let s0 := ready .nop id
        let s : State := { s0 with heldTasks := s0.launches.map (fun e => { source := x.1, place := 5, task := task 0 e.1 0 }) }
        (s.heldTasks.find? (fun h => h.source == x.1 && h.place == 5)).any (fun h => !s.dropsTag h.task.tag && !s.isStopped h.task.launch &&
          s.poolFree h.task.launch != 0 && (crowded s).poolFree h.task.launch == 0) && stepsOn x.2 s && stepsOn x.2 (crowded s))) =
      true := by decide +kernel

theorem witness_waiting_ends :
    ((let s0 := ready .nop (fun w => { w with wait := .enqt 2 3 })
      let s : State := { s0 with heldTasks := s0.launches.flatMap (fun e =>
        [{ source := 3, place := s0.cur, task := task 0 e.1 0 }, { source := 3, place := s0.cur, task := task 0 e.1 1 }]) }
      (s.wave? s.cur).any (fun x => x.uid == s.cur && x.wait == .enqt 2 3 && !x.mode && !s.dropsTag x.tag && !s.isStopped x.launch && decide (2 ≤ s.poolFree x.launch) &&
        (crowded s).poolFree x.launch == 0) && stepsOn (.enqtAccept s.cur) s && stepsOn (.enqtAccept s.cur) (crowded s)) &&
     (let s0 := ready .nop (fun w => { w with wait := .cbopen 2 3 (BitVec.ofNat 512 goodHeader) [BitVec.ofNat 512 (2 ^ 64)] })
      let s : State := { s0 with cbWaiters := [s0.cur, 99] }
      s.cbRegion == 0 && stepsOn (.cbopenWaitGrant s.cur) s && (combining 1 0 0 s).cbRegion != 0 &&
      (let full : State := { combining 1 0 0 s with groups := (List.range 4096).map (fun n => (n, group0 0)) }
       full.cbRegion != 0 && !full.cbFits (BitVec.ofNat 512 goodHeader) [BitVec.ofNat 512 (2 ^ 64)]) &&
      (combining 1 0 0 s).cbFits (BitVec.ofNat 512 goodHeader) [BitVec.ofNat 512 (2 ^ 64)] &&
      stepsOn (.cbopenWaitGrant s.cur) (combining 1 0 0 s))) = true := by decide +kernel

/-- A machine whose wave stands at its issue address between runs. -/
def between (f : Wave → Wave) : State := atHeader (fun w => f { w with run := none })

theorem witness_grants :
    ((let s := ready .nop id
      (s.wave? s.cur).any (fun x => x.uid == s.cur && x.tag == 0 && !s.isDet x.launch && x.run.isSome && s.slotReady x) &&
      stepsOn (.runGrant s.cur) s && stepsOn (.runGrant s.cur) { s with dev := .d3hot } &&
      ((({ s with dev := .d3hot } : State).wave? s.cur).any (fun x => !({ s with dev := .d3hot } : State).slotReady x))) &&
     (let s := between id
      (s.wave? s.cur).any (fun x => x.run.isNone && s.runReady x && s.slotFree x && x.wait == .none) && stepsOn (.runGrant s.cur) s) &&
     (let s := between (fun w => { w with wait := .flags 1, pend := [{ id := 0, kind := .fence 0, flag := some 0, serial := 0, offset := 0, dests := [], acquire := false,
                                                                       release := false, scope := 0 }] })
      (s.wave? s.cur).any (fun x => x.run.isNone && !s.runReady x) && stepsOn (.runGrant s.cur) s)) = true := by decide +kernel

theorem witness_wave_timers :
    ((let s := (between id).modColumn 0 (fun c => { c with clk := 4096 })
      (s.wave? s.cur).any (fun x => s.runReady x && !x.raised && decide (x.ready + 4096 ≤ s.clkOf x)) && stepsOn (.runRaise s.cur) s) &&
     (let s := between id
      (s.wave? s.cur).any (fun x => decide (s.clkOf x < x.ready + 4096)) && stepsOn (.runRaise s.cur) s) &&
     [0, 9].all (fun t =>
       let s := between (fun w => { w with wait := .sleep t })
       (s.wave? s.cur).any (fun x => x.wait == .sleep t && decide (t ≤ s.clkOf x) == decide (t = 0)) && stepsOn (.sleepEnd s.cur) s) &&
     [false, true].all (fun m =>
       let s := between (fun w => { w with trap := some softTrap, mode := m })
       (s.wave? s.cur).any (fun x => x.trap == some softTrap && x.faultWait.isNone && s.mayIssue x && x.pend.isEmpty) &&
       stepsOn (.trapEntry s.cur) s) &&
     (let s := between (fun w => { w with fpPending := [softTrap], wait := .sleep 9 })
      (s.wave? s.cur).any (fun x => x.trap.isNone && x.fpPending == [softTrap] && x.run.isNone && !x.mode && x.faultWait.isNone &&
        !x.live.isEmpty && s.mayIssue x) && stepsOn (.trapEntry s.cur) s)) = true := by decide +kernel

/-- The machine whose units have a status, the launches suspended, and a save pool of some bytes. -/
def suspending (st pool : Nat) (s : State) : State :=
  { s with
    launches := s.launches.map (fun e => (e.1, { e.2 with suspended := true }))
    grps := s.grps.map (fun e => (e.1, { e.2 with status := st }))
    regs := { s.regs with ctxsize := BitVec.ofNat 64 pool } }

theorem witness_units :
    ([0, 2 ^ 33].all (fun n =>
        let s := suspending 0 n (between id)
        s.grps.all (fun e => e.2.uid == e.1 && (s.launch? e.2.launch).any (fun l => l.suspended) &&
          (s.poolRoom s.heldBlocks ((s.unitTeams e.1).map (fun t => blockSize t (s.teamWaves t.uid) (if t.isRoot then maxFrags else 0)))
            e.1).isSome == decide (n ≠ 0) && stepsOn (.unitSave e.1) s)) &&
      (let s := suspending 1 (2 ^ 33) (between id)
       s.grps.all (fun e => s.maySave e.2)) &&
      (let s := suspending 1 (2 ^ 33) (ready .nop id)
       s.grps.all (fun e => !s.maySave e.2 && stepsOn (.unitSave e.1) s)) &&
      (let s := suspending 3 (2 ^ 33) (between id)
       s.grps.all (fun e => s.dev == .d0 && (s.launch? e.2.launch).any (fun l => !(s.roomFor l e.2).isEmpty &&
         (({ s with columns := (List.range 16).map (fun c => (c, { s.column c with closed := true })) } : State).roomFor l e.2).isEmpty)))) = true := by
  decide +kernel

theorem witness_preempt_and_drain :
    (let s := ready .nop id
     s.dev == .d0 && !s.regs.preempt.getLsbD 63 && s.launches.all (fun e => e.1 == e.2.uid) && stepsOn (.preemptSuspend 0) s &&
     stepsOn (.preemptResume 0) s && ({ s with regs := { s.regs with preempt := 1#64 <<< 63 } } : State).regs.preempt.getLsbD 63 &&
     [0, 65536].all (fun n =>
       let t := (suspending 1 0 (between id)).modColumn 0 (fun c => { c with clk := n })
       t.grps.all (fun e => e.2.status == 1 && (t.unitWaves e.1).all t.stopped &&
         decide (e.2.drainClk + 65536 ≤ t.colClk (e.2.cluster / 4)) == decide (n ≠ 0) && stepsOn (.copyDrainTimeout e.1) t))) = true := by
  decide +kernel


/-- A FLIP packet of a branch of set 0, with a done address. -/
def taggedFlip (branch done : Nat) : Nat := 7 + 2 ^ 162 + branch * 2 ^ 164 + done * 2 ^ 192

theorem witness_tagged_flips :
    [(0, 0), (0, 0x800), (1, 0), (1, 0x800), (5, 0x800)].all (fun x =>
      let v := taggedFlip x.1 x.2
      let s := queueing .parse [v] (showing 3 (branching base))
      inHand s 0 .parse 7 (fun _ _ => flipUsed) [v] && (s.head 0).scanning && (s.openSet? 0 0).any (fun y =>
        decide (y.tags.length ≤ x.1 ∨ s.branchState y x.1 = .squashed) == decide (x.1 ≠ 0)) &&
      (match s.translate 0 0x800 .write with
        | .ok y => !y.ver
        | .error _ => false) &&
      (match exec (.flip 0) s with
        | .next t => (t.readNat 0 false (storageKey 0 0x800) 4, (t.head 0).flips.length) ==
            (if x.1 ≠ 0 ∧ x.2 ≠ 0 then 2 else 0, if x.1 = 0 then 4 else 3)
        | _ => false)) = true := by decide +kernel

theorem witness_fork_report :
    (let v := forkPacket 2 + 0x800 * 2 ^ 192
     let s0 := queueing .held [v] base
     let s := s0.setQueue 0 { s0.queue 0 with held := 4, forkOrder := some 0 }
     inHand s 0 .held 4 (fun _ _ => forkUsed) [v] && decide (s.noteForks = s) && (match s.xlateFor 0 0 0 0x800 .write with
       | .ok _ => true
       | .error _ => false) && (match exec (.forkProceed 0) s with
       | .next t => t.readNat 0 false (storageKey 0 0x800) 8 == 0x201 && t.tagState 2 == .live
       | _ => false)) = true := by decide +kernel

theorem witness_combine_wait_too_large :
    (let header := BitVec.ofNat 512 (1 + 0xFFFF * 2 ^ 32)
     let entries := List.replicate 40 (BitVec.ofNat 512 (2 ^ 64))
     let s0 := ready .nop (fun w => { w with wait := .cbopen 2 3 header entries })
     let s : State := { combining 1 0 0 s0 with cbWaiters := [s0.cur, 99] }
     s.cbRegion != 0 && decide (s.cbRegion < groupUnits header entries) && (match exec (.cbopenWaitGrant s.cur) s with
       | .next t => t.cbWaiters == [99] && (t.wave? s.cur).any (fun u => u.reg 0 2 == 0xFFFFFFFE && u.wait == .none)
       | _ => false)) = true := by decide +kernel

theorem witness_jig_in_order :
    [false, true].all (fun earlier =>
      let s0 := ready .nop id
      let s1 := pooled 16 { s0 with launches := s0.launches.map (fun e => (e.1, { e.2 with record := BitVec.ofNat 2048 (2 ^ 119) })) }
      let s : State := { s1 with heldTasks := if earlier then s1.launches.map (fun e => { source := 0, place := 5, task := task 0 e.1 3 }) else [] }
      (s.poolTask? 0 1).any (fun t => (s.launch? t.launch).any (fun l => bit l.record.toNat 119 && !l.suspended && !l.stopDispatch &&
        s.earlierTasks l 15 == earlier)) && (match exec (.jigFormWave 0 1) s with
        | .next t => t.formed.length == (if earlier then 0 else 1)
        | _ => false)) = true := by decide +kernel

theorem witness_packet_copy_bytes :
    (let s : State := withBytes (storageKey 0 0x800) [1, 2, 3, 4, 5, 6, 7, 8] { base with packetCopies := [(1, flight false)] }
     (match s.packetBytes (flight false) with
       | (bs, none) => bs.length == 8 && bs.all (fun b => !b.2)
       | _ => false) && (match exec (.copyRetire 1) s with
       | .next t => t.packetCopies.isEmpty && t.readNat 0 false (storageKey 0 0xA00) 8 == 0x0807060504030201
       | _ => false)) = true := by decide +kernel

theorem witness_queue_off :
    (let s := queueing .held [7] base
     let t := s.setQueue 0 { s.queue 0 with off := true }
     (t.queue 0).off && stepsOn (.queueDisable 0) t) = true := by decide +kernel
/-! ### The device's own steps: engines and completions -/

/-- Operation 7 on a queue control block at 0x100 that is in state with indices, and lane 0's data. -/
def queueDoing (i : Nat → Instr) (op head tail flagsOff : Nat) (p : State → LaneAcc → Bool) : Bool :=
  let a := cell 32 [6, 7] [5]
  performs i (.queueOp op [a])
    (fun s => withBytes (storageKey 0 0x800) (toBytes 16 9) (withBytes (storageKey 0 (0x100 + flagsOff)) (blockBytes head tail) s))
    (fun s x => x.uid == s.cur && x.tag == 0 && x.isLive 0 && !s.isWaiting 2 s.cur && s.versions.isEmpty &&
      !s.anyPoison 0 false a.key 32 && p s a)

theorem witness_queue_operation_performed :
    (queueDoing (fun w => .queueOpPerform w 7) 0 0 0 32 (fun s a => !(QBlock.of (s.readNat 0 a.ver a.key 32)).ok) &&
      queueDoing (fun w => .queueOpPerform w 7) 0 0 4 0 (fun s a => (QBlock.of (s.readNat 0 a.ver a.key 32)).ok && (QBlock.of (s.readNat 0 a.ver a.key 32)).count == 4) &&
      queueDoing (fun w => .queueOpPerform w 7) 1 3 3 0 (fun s a => (QBlock.of (s.readNat 0 a.ver a.key 32)).ok && (QBlock.of (s.readNat 0 a.ver a.key 32)).count == 0) &&
      [1, 2].all (fun op => queueDoing (fun w => .queueOpPerform w 7) op 0 2 0 (fun s a =>
        let b := QBlock.of (s.readNat 0 a.ver a.key 32)
        b.ok && b.count == 2 && (match s.xlateFor 2 s.cur 0 (b.entry b.head) .atomic with
          | .ok y => !s.anyPoison 0 y.ver y.key b.esize
          | .error _ => false))) &&
      queueDoing (fun w => .queueOpPerform w 7) 0 0 2 0 (fun s a =>
        let b := QBlock.of (s.readNat 0 a.ver a.key 32)
        b.ok && b.count != b.cap && 4 * a.data.length == b.esize && (match s.xlateFor 2 s.cur 0 (b.entry b.tail) .atomic with
          | .ok y => decide (a.key + 32 ≤ y.key)
          | .error _ => false))) = true := by decide +kernel

/-- Operation 7, an AMO.CASC of lane 0 with expected and new values and task word, its slice's queue holding n continuations. -/
def cascDoing (i1 i2 : Nat → Instr) (n clk : Nat) (data : List Word) (p : State → LaneAcc → Launch → Bool) : Bool :=
  let a := cell 4 [6, 7] data
  let slice := homeSlice a.key
  let g : State → State := fun s => (({ tasking 15 s with
    heldTasks := List.replicate n { source := 0, place := slice, task := task 0 0 0 } } : State).modColumn (slice / 8) (fun c => { c with clk := clk }))
  performs i1 (.casc [a] [(0, 0)] 1 none) g (fun s x => x.uid == s.cur && x.isLive 0 && x.tag == 0 &&
      (s.launch? x.launch).any (p s a) && s.sliceQueue x.launch slice == slice && s.cascFirst slice 1 0 && !s.isWaiting 2 s.cur &&
      s.versions.isEmpty && !s.anyPoison 0 a.ver a.key a.size) &&
    performs i2 (.casc [a] [(0, 0)] 1 none) g (fun _ _ => true)

theorem witness_continuations :
    (cascDoing (fun w => .cascPerform w 7 0) (fun w => .cascRefusal w 7 0) 64 0 [0, 1, 0] (fun s a _ => s.queueUsed (homeSlice a.key) == 64) &&
      cascDoing (fun w => .cascPerform w 7 0) (fun w => .cascRefusal w 7 0) 64 65536 [0, 1, 0] (fun s a l => decide (65536 ≤ s.hostClk l.uid (homeSlice a.key / 8))) &&
      cascDoing (fun w => .cascPerform w 7 0) (fun w => .cascRefusal w 7 0) 0 0 [9, 1, 0] (fun s a _ => s.queueUsed (homeSlice a.key) == 0 && s.readNat 0 a.ver a.key 4 != 9) &&
      cascDoing (fun w => .cascPerform w 7 0) (fun w => .cascRefusal w 7 0) 0 0 [0, 1, 0] (fun s a l => s.readNat 0 a.ver a.key 4 == 0 && (match s.taskEntry l [] 0 0 with
        | .entry _ _ _ => true
        | _ => false) && decide (1 ≤ l.record.toNat / 2 ^ 432 % 2 ^ 4))) = true := by decide +kernel

theorem witness_name_operations :
    (performs (fun w => .blockStoreNameOpPerform w 7) (.kvName 0 5 0 [(6, 0)]) stored (fun s x => s.kvInOrder x 7 s.nextId && x.isLive 0) &&
      performs (fun w => .blockStoreNameOpPerform w 7) (.kvMap [(6, 0, 5)]) stored (fun s x => s.kvInOrder x 7 s.nextId) &&
      (let s := ready .nop (fun w => { doing (.kvName 0 5 0 [(6, 0)]) w with
        pend := [{ id := 7, kind := .kvName 0 5 0 [(6, 0)], flag := none, serial := 1, offset := 4, dests := [], acquire := false, release := false,
                   scope := 0 },
                 { id := 3, kind := .kvMap [], flag := none, serial := 0, offset := 4, dests := [], acquire := false, release := false,
                   scope := 0 }] })
       (match s.pending? s.cur 7 with
         | some (x, q) => q.isKv && !s.kvInOrder x q.id s.nextId
         | none => false) && stepsOn (.blockStoreNameOpPerform s.cur 7) s)) = true := by decide +kernel

/-- Bulk operation 5 of the issuing wave, with so many bytes to read and to write. -/
def copying (kind : BulkKind) (reads writes : Nat) (s : State) : State :=
  match s.ctx? with
  | some c => { s with bulk := [(5, { c.bulkOf 0x2C kind false reads writes with id := 5 })] }
  | none => s

/-- The hypotheses about the copy engine on operation 5. -/
def engineMeets (i : Instr) (kind : BulkKind) (reads writes : Nat) (f : State → State) (p : State → Bulk → Wave → Bool) : Bool :=
  let s := f (copying kind reads writes (ready .nop id))
  stepsOn i s && (match tget s.bulk 5 with
    | some b => b.id == 5 && b.faultWait.isNone && s.dev == .d0 && (s.wave? b.wave).any (fun w =>
        w.uid == b.wave && s.bulkMayRead b w && p s b w)
    | none => false)

theorem witness_copy_engine :
    (engineMeets (.copyEngineComplete 5) (.copyIn 0x100 0 8) 8 8 id (fun s b w => (s.engRead (s.bulkEng b w (s.dropsTag b.tag)) 0x100 8).2.isNone) &&
      engineMeets (.copyEngineComplete 5) (.copyOut 0x100 0 8) 8 8 id (fun s b w => (s.scratchRange w 0 8).all (fun x => !x.2) &&
        (s.engWrite (s.bulkEng b w (s.dropsTag b.tag)) 0x100 (s.scratchRange w 0 8)).2.isNone) &&
      engineMeets (.copyEngineComplete 5) (.gather [(0x100, 0)] 4) 4 4 id (fun s b w => b.kind.isCopy && (match s.runCopy w (s.bulkEng b w (s.dropsTag b.tag)) b (s.segs b) with
        | (_, none, r) => !r
        | _ => false)) &&
      engineMeets (.copyEngineComplete 5) (.copyIn (2 ^ 52) 0 8) 8 8 id (fun s b w => b.kind.isCopy && stepsOn (.copyEngineFault 5) s &&
        (match s.runCopy w (s.bulkEng b w (s.dropsTag b.tag)) b (s.segs b) with
          | (_, some x, r) => !r && (match x.err with
            | .cause _ => true
            | _ => false)
          | _ => false)) &&
      engineMeets (.copyEngineComplete 5) (.kvLoad 5 0 0 8) 0 8 (fun s => ((stored s).kvAlloc 0 5 0).1) (fun s b w => b.isKv && s.kvInOrder w b.before b.id &&
        (match s.kvRead b 5 0 8 with
          | .ok bs => bs.all (fun y => !y.2)
          | .error _ => false)) &&
      engineMeets (.copyEngineComplete 5) (.kvStore 5 0 0 8) 8 0 (fun s => ((stored s).kvAlloc 0 5 0).1) (fun s b w =>
        s.kvInOrder w b.before b.id && (match s.kvStored b w with
          | (_, k, r) => k == 0 && !r)) &&
      engineMeets (.copyEngineComplete 5) (.digest 0x100 0 0x200) 0 0 id (fun s b w =>
        let e := s.bulkEng b w (s.dropsTag b.tag)
        match s.digestRange e 0x100 0 with
          | .bytes d none => (s.engWrite e 0x200 (d.map (fun x => (x, false)))).2.isNone
          | _ => false)) = true := by decide +kernel

theorem witness_ring_copies :
    ([twoSlots 0 0, twoSlots 3 0].all (fun r =>
        let s := withRing { r with waiters := [.copy 5] } (copying (.ring 0x100 1 2 0 []) 32 32 (ready .nop id))
        (tget s.bulk 5).any (fun b => (s.ring b.team 1).waiters.find? RingWaiter.wantsFree == some (.copy 5)) &&
        stepsOn (.cpyringSlotAcquire 5) s) &&
      [1, 2].all (fun n =>
        let s := withRing { twoSlots 1 0 with held := [0] } (copying (.ring 0x100 1 n 0 [0]) (16 * n) (16 * n) (ready .nop id))
        (tget s.bulk 5).any (fun b => (s.wave? b.wave).any (fun w => s.bulkMayRead b w &&
          (s.engRead (s.bulkEng b w (s.dropsTag b.tag)) 0x100 16).2.isNone &&
          (match s.runCopy w (s.bulkEng b w (s.dropsTag b.tag)) b ((s.segs b).take 1) with
            | (_, none, r) => !r
            | _ => false))) && stepsOn (.cpyringSlotPublish 5) s)) = true := by
  decide +kernel

/-- Ray r of the issuing wave: its operation, its other ray. -/
def ray (eng : Option Nat) (id : Nat) (s : State) : Ray :=
  { id := id, wave := s.cur, team := 0, launch := (s.launches.map (fun e => e.1)).headD 0, core := 0, tag := 0, depth := 0, eng := eng
    lane := 0, regs := List.replicate 10 0, root := 0, rows := [2, 3, 4, 5, 6, 7], payload := [1, 2], accept := none, result := none
    serial := 0, before := 0, lcore := 0, waveIdx := 0, gid := 0, faultWait := none, cancelled := [], got := [], bad := false }

/-- How the ray ends. -/
def rayMisses (s : State) (x : Ray) : Bool :=
  (s.rayTrav x).outcome (bit ((x.regs[8]?).getD 0).toNat 0) x.id == .miss && s.rayMayRead x (s.rayPlaces x)

theorem witness_ray_ends :
    ((let s0 := ready .nop id
      let s : State := { s0 with rays := [(5, ray (some 1) 5 s0), (6, ray (some 1) 6 s0)] }
      (tget s.rays 5).any (fun x => rayMisses s x) && stepsOn (.rayEnd 5) s) &&
     (let s0 := ready .nop id
      let s : State := { s0 with rays := [(5, ray (some 1) 5 s0)] }
      (tget s.rays 5).any (fun x => rayMisses s x && (s.wave? x.wave).any (fun w => w.isLive 0)) && stepsOn (.rayEnd 5) s) &&
     (let s0 := tasking 15 (ready .nop id)
      let s : State := { s0 with
        launches := s0.launches.map (fun e => (e.1, { e.2 with record := e.2.record ||| BitVec.ofNat 2048 (0x800 * 2 ^ 576) }))
        rays := [(5, ray none 5 s0)] }
      (tget s.rays 5).any (fun x => rayMisses s x && !s.dropsTag x.tag && s.heldTasks.isEmpty && s.poolFree x.launch != 0 &&
        (s.launch? x.launch).any (fun l => decide (x.depth + 1 ≤ l.record.toNat / 2 ^ 432 % 2 ^ 4) && !l.stopDispatch && (match s.taskEntry l x.cancelled x.tag 65536 with
          | .entry _ _ _ => true
          | _ => false))) && stepsOn (.rayEnd 5) s)) = true := by decide +kernel

/-- A move of the issuing wave's lane 0, of 16 bytes of scratchpad, to a handle and token. -/
def move (handle : Word) (token expert : Nat) (s : State) : CbMove :=
  { id := 5, wave := s.cur, team := 0, launch := (s.launches.map (fun e => e.1)).headD 0, domain := 0, tag := 0, eng := 1, handle := handle
    token := token, expert := expert, gid := 0, fromScratch := true, src := 0, len := 16, esize := 4, before := 0, data := Taken.ofLength 16, carried := false, faultWait := none, cancelled := [] }

theorem witness_combine_moves :
    ([(0, 0, 0), (0x10000, 1, 0), (0x10000, 0, 0)].all (fun x =>
        let s0 := opened (ready .nop id)
        let s : State := { s0 with moves := [(5, move (BitVec.ofNat 32 x.1) x.2.1 x.2.2 s0)] }
        (tget s.moves 5).any (fun m => (s.wave? m.wave).any (fun w =>
            s.mayRead w m.before m.id (s.rangePlaces w m.eng_ [m.source] m.data.left) && (match s.fetch w m.eng_ m.data m.source 0 m.len with
              | (bs, none) => bs.all (fun y => !y.2)
              | _ => false)) && (s.cbGroup? m.domain m.handle).isSome == decide (x.1 ≠ 0) &&
          (s.cbGroup? m.domain m.handle).all (fun g => (tget g.tokens m.token).isSome == decide (x.2.1 = 0) && m.tag == g.tag &&
            (tget g.tokens m.token).all (fun t => decide (t.st < 3) && ((entryExperts t.entry.toNat).find? (fun y => y.2 == m.expert)).isSome &&
              !t.arrived.getLsbD 0 && !t.subst.getLsbD 0 && ({ t with arrived := 1 } : Token).arrived.getLsbD 0))) &&
        stepsOn (.cbMoveComplete 5) s) &&
      [0, 9].all (fun n =>
        let s0 := opened (ready .nop id)
        let s : State := { s0 with groups := s0.groups.map (fun e => (e.1, { e.2 with deadline := some n })) }
        (tget s.groups 0).any (fun g => g.deadline == some n && decide (n ≤ s.colClk g.column) == decide (n = 0)) &&
        stepsOn (.cbDeadline 0) s)) = true := by decide +kernel

/-- Gang 1 of the issuing wave's unit with arrivals of that wave and a second one, complete or not, having waited. -/
def latched (complete : Bool) (waited : Nat) (s : State) : State :=
  let s1 := grouped (fun g => { g with
    gangs := [(1, { members := [(0, 0), (0, 1)], latch := [{ other 0 with wave := 99 }, { other 0 with member := 0, wave := s.cur, tile := 3 }],
                    complete := complete, reuse := [], retired := false, waited := waited })] }) s
  let two := s1.waves ++ s1.waves.map (fun e => (99, { e.2 with uid := 99, idx := 1 }))
  { s1 with waves := two.map (fun e => (e.1, { e.2 with wait := .gang 1 })) }

theorem witness_gang_steps :
    ([(true, 0), (false, 0), (false, 1048576)].all (fun x =>
        let s := latched x.1 x.2 (ready .nop id)
        s.grps.all (fun e => (tget e.2.gangs 1).any (fun gg => gg.complete == x.1 && gg.waited == x.2 && !gg.latch.isEmpty &&
            gg.latch.all (fun a => (s.wave? a.wave).any (fun w => w.wait == .gang 1 && !w.mode)) && decide (e.2.status < 2) && decide (gg.latch.map (fun a => a.wave)).Nodup &&
            decide ((s.resvOn e.2.cluster).length < 32)) &&
          stepsOn (.jointOpReserve e.1 1) s && stepsOn (.gangWatchdog e.1 1) s))) = true := by decide +kernel

/-- The issuing wave's table entry 5. -/
def reserved (kind : ResvKind) (granted : Bool) (s : State) : State :=
  match s.ctx? with
  | some c => { s with resv := [(5, { accEntry c 3 false kind with id := 5, granted := granted, readyAt := some 0 })] }
  | none => s

theorem witness_arbiter :
    ([(false, 0), (true, 0), (false, 65536)].all (fun x =>
        let s := (reserved (.accz 3 0xA000) x.1 (ready .nop id)).modColumn 0 (fun c => { c with clk := x.2 })
        (tget s.resv 5).any (fun r => !s.barredWave r.wave && (s.resvOn r.cluster).any (fun y => y.granted) == x.1 &&
          (x.1 || s.arbiterPick r.cluster == some r) && decide (s.readySince r + 65536 ≤ s.colClk (r.cluster / 4)) == decide (x.2 ≠ 0)) &&
        stepsOn (.matrixGrant 5) s && stepsOn (.matrixEntryRaise 5) s) &&
      (let s0 := meeting [] (withRing { twoSlots 3 0 with sizeLog := 11 } (granting 4096 (ready .nop id)))
       let s1 := match s0.ctx? with
         | some c => s0.modGrp c.grp (fun g => { g with streams := [(1, { openStream with team := c.w.team })] })
         | none => s0
       let s := reserved (.joint ((s1.grps.map (fun e => e.1)).headD 0) 1 1 0 [other 0] 0) false s1
       (tget s.resv 5).any (fun r => s.arbiterPick r.cluster == some r) && stepsOn (.matrixGrant 5) s)) = true := by decide +kernel

theorem witness_passes :
    ([ResvKind.accz 3 0xA000, .accld 3 20 0 0xA000, .accst 3 0, .accrd 3 0 0xA000 false false [(0, [2, 3, 4, 5, 6, 7, 8, 9])]].all (fun k =>
        let s := granting 32768 (reserved k true (ready .nop id))
        (tget s.resv 5).any (fun r => r.granted && !s.barredWave r.wave && r.kind == k && (s.team? r.team).any (fun t => decide (0 + 32768 ≤ t.granted)) &&
          (s.wave? r.wave).any (fun w => w.uid == r.wave && w.isLive 0))) &&
      (let s := reserved (.accz 3 0xA000) true (ready .nop id)
       stepsOn (.accOpComplete 5) s) &&
      (let s0 := ready .nop id
       let a := { other 0 with team := (s0.teams.map (fun e => e.1)).headD 0 }
       let s := reserved (.joint 0 1 1 0 [a, a] 0) true s0
       (tget s.resv 5).any (fun r => r.granted) && !s.barredWave a.wave && (s.team? a.team).any (fun t => (s.launch? t.launch).isSome))) = true := by decide +kernel


/-- Whether a bulk operation of n bytes has moved none of them, at a machine whose memory is as every run has it, and whose team has scratchpad. -/
def freshCopy (n : Nat) (s : State) (b : Bulk) (w : Wave) : Bool :=
  b.data == Taken.ofLength n && b.unput == rangeOf 0 n && !b.carried && Memory.wf s.mem && s.versions.isEmpty &&
    (s.team? w.team).any (fun t => t.uid == w.team && decide (n ≤ t.granted) && decide (t.granted ≤ 0x1000000))

/-- What completing bulk operation 5 leaves. -/
def completed {α : Type} (i : Instr) (kind : BulkKind) (reads writes : Nat) (f : State → State) (p : State → Wave → α) : Option α :=
  let s := f (copying kind reads writes (ready .nop id))
  match exec i s with
  | .next t => (t.wave? s.cur).map (p t)
  | _ => none

/-- Twelve bytes at 0x100 and team scratchpad. -/
def lettered (s : State) : State := granting 1024 (withBytes (storageKey 0 0x100) [1, 2, 3, 4, 5, 6, 7, 8, 9, 10, 11, 12] s)

/-- The bytes 21 to 28 in the issuing wave's scratchpad. -/
def padded (s : State) : State :=
  match s.ctx? with
  | some c => (granting 1024 s).scratchWrite c.w 0 ((List.range 8).map (fun i => (BitVec.ofNat 8 (21 + i), false)))
  | none => s

theorem witness_copy_bytes :
    (engineMeets (.copyEngineComplete 5) (.copyIn 0x100 0 8) 8 8 lettered (fun s b w => freshCopy 8 s b w) &&
      engineMeets (.copyEngineComplete 5) (.gather [(0x108, 0), (0x100, 4)] 4) 8 8 lettered (fun s b w => freshCopy 8 s b w &&
        [0x108, 0x100].all (fun a => match s.engRead (s.bulkEng b w (s.dropsTag b.tag)) a 4 with
          | (bs, none) => bs.all (fun x => !x.2)
          | _ => false)) &&
      engineMeets (.copyEngineComplete 5) (.scatter [(0x208, 0), (0x200, 4)] 4) 8 8 padded (fun s b w => freshCopy 8 s b w &&
        (s.scratchRange w 0 8).all (fun x => !x.2)) &&
      engineMeets (.copyEngineComplete 5) (.kvLoad 5 0 0 8) 8 8 (fun s => ((stored (granting 1024 s)).kvAlloc 0 5 0).1) (fun s b w =>
        freshCopy 8 s b w && s.kvInOrder w b.before b.id) &&
      engineMeets (.copyEngineComplete 5) (.kvStore 5 2 0 8) 8 0 (fun s => ((stored (padded s)).kvAlloc 0 5 0).1) (fun s b w =>
        b.data == Taken.ofLength 8 && s.kvInOrder w b.before b.id && decide s.kvNames.Nodup && (match s.kvFind 0 5 0 with
          | .ok (n, k) => s.kvRefs n.block == 1 && k.owner == b.tag && decide (n.block < s.nextId)
          | .error _ => false) && decide (10 ≤ s.kvBlockSize))) = true := by decide +kernel

/-- R277, R278 and R289: where the bytes of each copy go. -/
theorem test_copy_values :
    completed (.copyEngineComplete 5) (.gather [(0x108, 0), (0x100, 4)] 4) 8 8 lettered (fun t w => t.scratchBytes w 0 8) = some [9, 10, 11, 12, 1, 2, 3, 4] ∧
    completed (.copyEngineComplete 5) (.scatter [(0x208, 0), (0x200, 4)] 4) 8 8 padded (fun t _ => (t.readBytes 0 false (storageKey 0 0x200) 12)) =
      some [25, 26, 27, 28, 0, 0, 0, 0, 21, 22, 23, 24] ∧
    completed (.copyEngineComplete 5) (.kvStore 5 2 0 8) 8 0 (fun s => ((stored (padded s)).kvAlloc 0 5 0).1) (fun t _ => match t.kvFind 0 5 0 with
      | .ok (_, b) => (List.range 11).map (fun i => tgetD b.bytes i 0)
      | .error _ => []) = some [0, 0, 21, 22, 23, 24, 25, 26, 27, 28, 0] := by decide +kernel

/-- The same entry in two parts, of four words, with a block of an index of the head and of the tail. -/
def partedDoing (i : Nat → Instr) (op head tail : Nat) : Bool :=
  let a := cell 32 [6, 7, 2, 3, 4] (if op = 0 then [1, 2, 3, 4] else [4, 0])
  performs i (.queueOp op [a]) (withBytes (storageKey 0 0x100) (wideBlock 0x878 4 head tail))
    (fun s x => x.tag == 0 && x.isLive 0 && !s.isWaiting 2 s.cur && s.versions.isEmpty && !s.anyPoison 0 false a.key 32 &&
      (let b := QBlock.of (s.readNat 0 a.ver a.key 32)
       let at_ := if op = 0 then b.entry b.tail else b.entry b.head
       b.ok && (entryLens at_ 4).length == 2 && (entryParts at_ 4).all (fun p => match s.xlateFor 2 s.cur 0 p .atomic with
         | .ok y => !s.anyPoison 0 y.ver y.key 4 && decide (a.key + 32 ≤ y.key ∧ y.key + 16 ≤ 2 ^ 56)
         | .error _ => false)))

theorem witness_queue_entries_in_parts :
    ([(0, 0, 0), (1, 0, 1), (2, 0, 1)].all (fun x => partedDoing (fun w => .queueOpPerform w 7) x.1 x.2.1 x.2.2)) = true := by decide +kernel

/-- R370: an entry that crosses a line is written and read in both. -/
theorem test_queue_entry_values :
    performed (fun w => .queueOpPerform w 7) (.queueOp 0 [cell 32 [6] [1, 2, 3, 4]]) (withBytes (storageKey 0 0x100)
      (wideBlock 0x878 4 0 0)) (fun t w => (t.readNat 0 false (storageKey 0 0x878) 16, t.readNat 0 false (storageKey 0 0x114) 4,
        w.elem 6 0)) = some (1 + 2 * 2 ^ 32 + 3 * 2 ^ 64 + 4 * 2 ^ 96, 1, queueStatus 0 1) ∧
    performed (fun w => .queueOpPerform w 7) (.queueOp 1 [cell 32 [6, 2, 3, 4, 5] [4, 0]]) (fun s => withBytes (storageKey 0 0x878)
      (toBytes 16 (1 + 2 * 2 ^ 32 + 3 * 2 ^ 64 + 4 * 2 ^ 96)) (withBytes (storageKey 0 0x100) (wideBlock 0x878 4 0 1) s))
      (fun t w => (t.readNat 0 false (storageKey 0 0x110) 4, w.elem 6 0, w.elem 2 0, w.elem 5 0)) =
      some (1, queueStatus 0 0, 1, 4) := by decide +kernel

/-- An acquire at the team's scope that operation 7 of the wave is to make. -/
def acquiring (w : Wave) : Wave :=
  { w with
    pend := [{ id := 7, kind := .load [cell 4 [6] []], flag := none, serial := 0, offset := 4, dests := [], acquire := true,
               release := false, scope := 1 }]
    nextPend := 8 }

theorem witness_tile_loads :
    [true, false].all (fun may =>
      let s := granting 32768 (reserved (.accld 3 20 0 0xA000) false (ready .nop (if may then id else acquiring)))
      (tget s.resv 5).any (fun r => !(s.resvOn r.cluster).any (fun y => y.granted) && s.arbiterPick r.cluster == some r &&
        !s.barredWave r.wave && (s.team? r.team).isSome && (s.wave? r.wave).any (fun w =>
          s.mayRead w w.nextPend s.nextId (s.scratchPlaces w 8 0 32768) == may)) && stepsOn (.matrixGrant 5) s) = true := by
  decide +kernel
/-! ### Faults, checks, accesses from outside, heads, power and registers -/

/-- A domain 1 of one page at 0, mapped by five levels of tables from 0x1000 on (R242 to R244). -/
def mapped : State :=
  [0x1000, 0x2000, 0x3000, 0x4000].foldl (fun s a => withBytes (storageKey 0 a) (toBytes 8 (a + 0x1000 + 1)) s)
    (withBytes (storageKey 0 0x5000) (toBytes 8 (0x6000 + 0x1F)) (withBytes (storageKey 0 (0x800 + 8)) (toBytes 8 (2 ^ 63 + 0x1000))
      { base with regs := { base.regs with domtbase := 0x800 } }))

theorem witness_page_walks :
    ((mapped.tlbHit? 1 0).isNone && (match mapped.walk 1 0 with
        | .ok _ => true
        | .error _ => false) && stepsOn (.pageWalk 1 0) mapped && (match mapped.walk 2 0 with
        | .ok _ => false
        | .error _ => true) && stepsOn (.pageWalk 2 0) mapped && (base.tlbHit? 0 0).isSome && stepsOn (.pageWalk 0 0) base) = true := by
  decide +kernel

/-- A record of the host fault queue. -/
def record (posted : Bool) : FaultRec :=
  { id := 4, domain := 0, page := 0x800, va := 0x800123, access := 1, level := 5, launch := 0, lcore := 0, posted := posted, ext := 4 }

theorem witness_fault_queue :
    ([0, 128].all (fun n =>
        let s : State := { base with faults := [record false], regs := { base.regs with faultIdx := BitVec.ofNat 64 n } }
        (s.faults.find? (fun y => y.id == 4 && !y.posted)).isSome && s.versions.isEmpty &&
        decide ((s.regs.faultIdx.toNat % 2 ^ 32 + 2 ^ 32 - s.regs.faultIdx.toNat / 2 ^ 32) % 2 ^ 32 < 2 ^ (s.regs.faultq.toNat % 16 + 7)) ==
          decide (n = 0) && stepsOn (.faultRecordPost 4) s) &&
      [true, false].all (fun p =>
        let s : State := { base with faults := [record p] }
        (s.faults.find? (fun y => y.id == 4 && y.posted)).isSome == p && s.devWrites.isEmpty && s.waiters.isEmpty &&
        stepsOn (.faultReplay 4) s && stepsOn (.faultCancel 4) s &&
        [some 4, some 5, none].all (fun r =>
          let u : State := { s with devWrites := [{ waitingWrite with waits := r }] }
          (u.faults.find? (fun y => y.ext == 4 && y.posted)).isSome == p && u.waves.isEmpty && u.bulk.isEmpty && u.rays.isEmpty &&
          u.moves.isEmpty && u.groups.isEmpty && u.packetCopies.isEmpty && u.waiters.isEmpty && stepsOn (.faultReplay 4) u &&
          stepsOn (.faultCancel 4) u))) = true := by decide +kernel

/-- A machine where every identifier of the host fault queue is held. -/
def crowdedFaults : State :=
  { base with faults := record false :: (List.range (2 ^ 16)).map (fun i => { record true with id := 5 + i, ext := i }) }

theorem witness_no_fault_id :
    crowdedFaults.faults.find? (fun y => y.id == 4 && !y.posted) = some (record false) ∧
    ∀ i, i < 2 ^ 16 → ∃ y ∈ crowdedFaults.faults, y.posted = true ∧ y.ext = i := by
  refine ⟨rfl, fun i hi => ⟨{ record true with id := 5 + i, ext := i }, ?_, rfl, rfl⟩⟩
  exact List.mem_cons_of_mem _ (List.mem_map.2 ⟨i, List.mem_range.2 hi, rfl⟩)

theorem witness_tlb_invalidation :
    (let busy (s : State) : State := { s with regs := { s.regs with tlbinvCtl := BitVec.ofNat 64 (2 ^ 63 + 2) } }
     decide (base.regs.tlbinvCtl.toNat < 2 ^ 63) && stepsOn (.tlbinvRange 1) base && stepsOn .tlbinvDone base &&
     decide (2 ^ 63 ≤ (busy base).regs.tlbinvCtl.toNat) && (busy base).waves.isEmpty && stepsOn .tlbinvDone (busy base) &&
     (let s := busy (ready .nop (doing (.load [cell 4 [6] []])))
      (tvals s.waves).any (fun w => w.pend.any (fun p => p.kind.memAccs.any (fun a => decide (a.addr / 4096 < 2))))) ) = true := by
  decide +kernel

theorem witness_line_moves :
    (homeSlice (2 * 128) != 99 && stepsOn (.lineMove 2 99) base && stepsOn (.lineMove 2 (homeSlice (2 * 128))) base &&
      stepsOn (.lineMove 2 128) base && base.versions.isEmpty && !base.detLaunch && base.queues.isEmpty &&
      stepsOn (.lineMove 2 99) { base with versions := [version2] }) = true := by decide +kernel

theorem witness_error_records :
    (decide (2 ^ (base.regs.errq.toNat % 16 + 6) ≤ 64) && base.versions.isEmpty &&
      ((base.errorRecord 3 0 0 Who.none []).regs.errIdx == 1) &&
      (({ base with regs := { base.regs with errIdx := 64 } } : State).errorRecord 3 0 0 Who.none []).regs.errLost == 1) = true := by
  decide +kernel

theorem witness_check_retries :
    (let s := ready .nop id
     (s.wave? s.cur).any (fun w => w.uid == s.cur && decide (0 < w.width) && decide (5 < w.allot)) &&
     stepsOn (.checkRetry ⟨1, 0⟩ s.cur 5 0 true) s && stepsOn (.checkRetry ⟨1, 0⟩ s.cur 5 0 false) s && stepsOn (.checkRetry ⟨1, 0⟩ s.cur 2050 0 false) s &&
     stepsOn (.checkRetry ⟨1, 0⟩ s.cur 4096 0 false) s && stepsOn (.checkRetry ⟨1, 0⟩ s.cur 5151 0 false) s &&
     [s.cur, s.cur + 99].all (fun n => (s.wave? n).isSome == (n == s.cur) && [4, 5, 6, 9, 8, 10].all (fun k =>
       stepsOn (.checkRetry ⟨k, n⟩ 64 0 0 true) s && stepsOn (.checkRetry ⟨k, n⟩ 64 0 0 false) s && stepsOn (.checkRetry ⟨k, n⟩ 64 5 1 false) s)) &&
     s.teams.all (fun e => decide (8 < e.2.granted) && decide (3 < e.2.accTiles) && stepsOn (.checkRetry ⟨2, 0⟩ e.1 8 0 true) s &&
       stepsOn (.checkRetry ⟨2, 0⟩ e.1 8 0 false) s && stepsOn (.checkRetry ⟨12, 0⟩ e.1 3 5 false) s) &&
     stepsOn (.checkRetry ⟨3, 0⟩ 64 0 0 true) s && stepsOn (.checkRetry ⟨3, 0⟩ 64 0 0 false) s &&
     s.busServes 2 3 && ((s.retireBus 2 3).busServes 2 3 == false) && stepsOn (.checkRetry ⟨7, 0⟩ 2 3 0 false) s &&
     (s.column 2).remap.length == 8 && !((s.retireBus 3 3).retireBus 6 3).busServes 3 3 &&
     stepsOn (.checkRetry ⟨7, 0⟩ 2 3 5 false) s && stepsOn (.checkRetry ⟨7, 0⟩ 2 3 0 true) s &&
     [0, 2 ^ 48 + 2 * 2 ^ 31 + 3 * 2 ^ 10].all (fun z => decide (z / 2 ^ 48 = 1 ∧ z % 2 ^ 48 / 2 ^ 31 = 2 ∧ z / 2 ^ 10 % 8 = 3) == (z != 0) &&
       stepsOn (.checkRetry ⟨7, 0⟩ 2 3 (z + 1) false) s) &&
     ((pooled 1 s).pool.find? (fun e => e.id == 1)).any (fun k => ((pooled 1 s).launch? k.launch).isSome) &&
     stepsOn (.checkRetry ⟨11, 0⟩ 1 0 0 false) (pooled 1 s) && stepsOn (.checkRetry ⟨14, 0⟩ 2 3 0 false) s && stepsOn (.checkRetry ⟨14, 0⟩ 2 3 1 false) s &&
     stepsOn (.checkRetry ⟨14, 0⟩ 2 3 2 false) s && stepsOn (.checkRetry ⟨15, 0⟩ 0 0 0 true) s &&
     (let t : State := { s with heldTasks := s.launches.map (fun e => { source := 3, place := s.cur, task := task 0 e.1 0 }) }
      (t.heldTasks[0]?).any (fun k => (t.launch? k.task.launch).isSome) && stepsOn (.checkRetry ⟨11, 0⟩ 0 1 0 false) t) &&
     (let t : State := { s with rays := [(5, ray none 5 s)] }
      (tget t.bulk 5).isNone && (tget t.moves 5).isNone && (tget t.rays 5).isSome && stepsOn (.checkRetry ⟨13, 0⟩ 5 0 0 false) t) &&
     (let q := queueing .fence [fencePacket 5] base
      (match q.packetSlots 0 (q.queue 0) (List.range ((moreOf (fencePacket 5)).getD 0 + 1)) with
        | .ok x => x == [fencePacket 5]
        | .error _ => false) && decide (0 < fencePacket 5 / 2 ^ 64 % 16) && stepsOn (.checkRetry ⟨0, 0⟩ 0 1 0 false) q) &&
     (let q := queueing .parse [0] base
      (q.queue 0).st == .parse && (q.queue 0).pending != 0 && stepsOn (.checkRetry ⟨0, 0⟩ 0 0 0 false) q)) = true := by decide +kernel

/-- The device with 64 KiB of GDDR 7 that the host may read. -/
def outside : State := { base with regs := { base.regs with memcap0 := 0x10000 } }

theorem witness_outside :
    (outside.dev == .d0 && decide (0x100 + 8 ≤ outside.regs.memcap0.toNat) && outside.versions.isEmpty &&
      stepsOn (.hostMemRead 0 0x100 8) outside && stepsOn (.hostMemWrite 0 0x100 [1, 2]) outside &&
      stepsOn (.hostMemWrite 1 0x100 [1, 2]) outside && stepsOn (.hostMemRead 0 0xFFFC 8) outside &&
      stepsOn (.peerAccess 0 0 0x100 [0, 0]) outside && stepsOn (.peerAccess 1 0 0x100 [1, 2]) outside &&
      !outside.noData (storageOf 0 0x100) && (stored outside).noData (storageOf 0 0x100) == false &&
      (List.range 15).all (fun k => stepsOn (.peerAccess (2 + k) 0 0x100 (if k = 11 then toBytes 8 5 else toBytes 4 5)) outside)) = true := by
  decide +kernel

/-- Head 0 before it is enabled, with the mode of the head that scans out. -/
def modeSet (ctl : Nat) : State :=
  base.setHead 0 { base.head 0 with ctl := BitVec.ofNat 64 (ctl + 1080 * 2 ^ 32), mode := BitVec.ofNat 64 (6000 + 1100 * 2 ^ 16) }

theorem witness_heads :
    (decide (((modeSet 0).head 0).ctl.toNat % 2 = 0) && stepsOn (.headEnable 0) (modeSet 0) && stepsOn (.headEnable 0) base &&
      decide ((base.head 0).mode.toNat % 2 ^ 16 = 0) && decide (((modeSet 1).head 0).ctl.toNat % 2 = 1) &&
      stepsOn (.headDisable 0) (modeSet 1) && stepsOn (.headConfigWrite 0 1 5) (modeSet 1) && stepsOn (.headConfigWrite 0 1 5) base &&
      [0, 1, 2].all (fun t =>
        let s0 := scanningOut { base with tagStates := [(1, .live)], ns := 20000000 }
        let s := s0.setHead 0 { s0.head 0 with flips := List.replicate (min t 1) { surface := 0, doneAddr := 0x800, tag := if t = 2 then 1 else 0 } }
        (s.head 0).scanning && decide ((s.head 0).blankAt (s.head 0).frames ≤ s.ns) && s.sets.isEmpty && (match s.translate (s.head 0).domain 0x800 .write with
          | .ok _ => true
          | .error _ => false) && stepsOn (.vblank 0) s) &&
      stepsOn (.vblank 0) base) = true := by decide +kernel

/-- The machine that still boots. -/
def booting : State := State.reset

theorem witness_power :
    (booting.dev == .boot && booting.regs.bootstat == 0 && base.dev == .d0 &&
      decide (([5, 5] ++ List.replicate 14 0).foldl (fun a b => a + b) 0 ≤ Nat.min (base.regs.power.toNat % 2 ^ 16)
        (base.regs.power.toNat / 2 ^ 16 % 2 ^ 16 - 100)) &&
      decide (Nat.min (base.regs.power.toNat % 2 ^ 16) (base.regs.power.toNat / 2 ^ 16 % 2 ^ 16 - 100) <
        (List.replicate 16 99).foldl (fun a b => a + b) 0) &&
      stepsOn (.powerArbiterTick 100 ([5, 5] ++ List.replicate 14 0) (List.replicate 16 3)) base &&
      stepsOn (.powerArbiterTick 100 (List.replicate 16 99) (List.replicate 16 3)) base && stepsOn (.powerLimitWrite 7) base &&
      stepsOn (.inletPowerReport 7) base) = true := by decide +kernel

theorem witness_columns :
    ([(ColPower.active, 0, 0), (.active, 64, 0), (.idle, 0, 0), (.idle, 0, 1000000), (.off, 0, 0)].all (fun x =>
        let s := ({ base with ns := x.2.2 } : State).modColumn 2 (fun c => { c with power := x.1, clk := x.2.1 })
        !(s.column 2).closed && !s.columnBusy 2 && (tvals s.grps).isEmpty && (s.column 2).idleSince == 0 &&
        stepsOn (.columnIdle 2) s && stepsOn (.columnOff 2) s && stepsOn (.columnWake 2) s && stepsOn (.columnOverheat 2) s &&
        stepsOn (.columnCool 2) s) &&
      (let s := ready .nop id
       s.columnBusy 0 && ((tvals s.grps).filter (fun g => g.cluster / 4 == 0 && g.status == 0)).length == 1 &&
       stepsOn (.columnOverheat 0) s && stepsOn (.columnWake 0) (s.modColumn 0 (fun c => { c with power := .off })))) = true := by
  decide +kernel

theorem witness_rest_states :
    (stepsOn .deviceReset base && stepsOn .d3cold base && ([3, 11, 127] : List Nat).all (fun x => decide (x < 128)) &&
      stepsOn .deviceReset { base with fuses := [3, 11, 127] } &&
      (tvals base.queues).all (fun q => q.st == .disabled) && base.grps.isEmpty && base.bulk.isEmpty && base.rays.isEmpty &&
      base.moves.isEmpty && base.packetCopies.isEmpty && base.resv.isEmpty && base.launches.isEmpty && stepsOn .d3hotEntry base &&
      [QState.idle, .error, .parse, .held].all (fun st => stepsOn .d3hotEntry (queueing st [0] base)) &&
      stepsOn .d3hotEntry booting && stepsOn .d0Return { base with dev := .d3hot } && stepsOn .d0Return base) = true := by decide +kernel

theorem witness_security :
    (decide (base.regs.extctl.toNat < 2 ^ 63) && decide (base.regs.attctl.toNat < 2 ^ 63) && stepsOn (.measurementExtend 5) base &&
      stepsOn (.measurementExtend 2) base && stepsOn (.attestationRequest 0) base && stepsOn .extendDone base &&
      stepsOn .attestationDone base &&
      (let s : State := { base with regs := { base.regs with extctl := BitVec.ofNat 64 (2 ^ 63 + 5) } }
       decide (2 ^ 63 ≤ s.regs.extctl.toNat) && stepsOn (.measurementExtend 5) s && stepsOn .extendDone s) &&
      (let s : State := { base with regs := { base.regs with attctl := BitVec.ofNat 64 (2 ^ 63) } }
       decide (2 ^ 63 ≤ s.regs.attctl.toNat) && s.versions.isEmpty)) = true := by decide +kernel

theorem witness_registers :
    ((tvals base.queues).all (fun q => q.st == .disabled) && decide (base.regs.sramcfg.toNat / 2 ^ 8 % 2 = 0) &&
      decide ((stored base).regs.sramcfg.toNat / 2 ^ 8 % 2 = 1) && (tvals (queueing .idle [] base).queues).any (fun q => q.st != .disabled) &&
      stepsOn (.qtbaseWrite 0x1003) base && stepsOn (.partcfgWrite 3) base && stepsOn (.registerWrite 0x3A8 7) base) = true := by
  decide +kernel

/-- The head that scans out, at its blank, with flips of tags and done addresses. -/
def flipping (l : List (BitVec 4 × Nat)) : State :=
  let s := scanningOut { base with tagStates := [(1, .squashed), (2, .live)], ns := 20000000 }
  s.setHead 0 { s.head 0 with flips := l.map (fun e => { surface := 0, doneAddr := e.2, tag := e.1 }) }

/-- The words at 0x800 and 0x900 and the flips left after a step. -/
def flipped (i : Instr) (s : State) : Option (Nat × Nat × Nat) :=
  match exec i s with
  | .next t => some (t.readNat 0 false (storageKey 0 0x800) 4, t.readNat 0 false (storageKey 0 0x900) 4, (t.head 0).flips.length)
  | _ => none

theorem witness_done_words :
    ([[], [(0, 0x800)], [(1, 0x800)], [(1, 0), (0, 0x800)], [(2, 0x800)]].all (fun l =>
        let s := flipping l
        (s.head 0).scanning && decide ((s.head 0).blankAt (s.head 0).frames ≤ s.ns) && s.versions.isEmpty &&
        (match s.translate (s.head 0).domain 0x800 .write with
          | .ok y => !y.ver && !isOwnedKey y.key
          | .error _ => false)) &&
      decide (((flipping []).head 0).ctl.toNat % 2 = 1)) = true := by decide +kernel

/-- R437 and R446: the done words of flips shown, discarded and dropped with their head. -/
theorem test_done_words :
    flipped (.vblank 0) (flipping [(0, 0x800), (0, 0x900)]) = some (1, 0, 1) ∧ flipped (.vblank 0) (flipping [(1, 0x900), (0, 0x800)]) = some (1, 2, 0) ∧
    flipped (.vblank 0) (flipping [(2, 0x800)]) = some (0, 0, 1) ∧ flipped (.headDisable 0) (flipping [(0, 0x800), (2, 0x900)]) = some (2, 2, 0) := by
  decide +kernel

theorem witness_waking_columns :
    [(ColPower.idle, true), (.off, true), (.off, false)].all (fun x =>
      let s := base.modColumn 2 (fun c => { c with power := x.1, waking := x.2 })
      (s.column 2).power != .active && (s.column 2).waking == x.2 && !s.columnBusy 2 && (match exec (.columnWake 2) s with
        | .next t => decide ((t.column 2).power = .active) == x.2 && !(t.column 2).waking
        | _ => false) && stepsOn (.columnOff 2) s) = true := by decide +kernel

theorem witness_boot :
    (booting.dev == .boot && booting.regs.bootstat == 0 && base.dev != .boot &&
      stepsOn (.bootVerify true 1 0 [] [] []) base) = true := by decide +kernel

theorem witness_preempted_units :
    [0, 1, 2, 3].all (fun st =>
      let s := suspending st 0 (ready .nop id)
      s.dev == .d0 && !s.regs.preempt.getLsbD 63 && s.grps.all (fun e => e.1 == e.2.uid && e.2.status == st && (s.launch? e.2.launch).isSome) &&
      stepsOn (.preemptSuspend 0) s && stepsOn (.preemptResume 0) s) = true := by decide +kernel

theorem witness_head_answers :
    [1, 2].all (fun pg =>
      let s : State := { base with faults := [record true]
                                   waiters := [{ cls := 4, num := 0, domain := 0, page := pg, record := 4, cancelled := false }] }
      (s.faults.find? (fun y => y.ext == 4 && y.posted)).isSome && (s.head 0).domain == 0 && s.waves.isEmpty && s.bulk.isEmpty &&
      s.rays.isEmpty && s.moves.isEmpty && s.groups.isEmpty && s.packetCopies.isEmpty && s.devWrites.isEmpty &&
      stepsOn (.faultReplay 4) s && stepsOn (.faultCancel 4) s) = true := by decide +kernel

theorem witness_transfers :
    (let s0 := (stored (ready .nop id)).kvAlloc 0 5 0
     let s : State := { s0.1 with
       kvBlocks := s0.1.kvBlocks.map (fun e => (e.1, { e.2 with column := 2 }))
       packetCopies := [(5, flight false)] }
     [0, 1, 2].all (fun z => [8, 10].all (fun site => [0, 256, 512].all (fun y => stepsOn (.checkRetry ⟨site, s.cur⟩ 64 y z false) s)) &&
       stepsOn (.checkRetry ⟨8, s.cur⟩ 64 0 z true) s) &&
     s.kvBlocks.all (fun e => [1, 2].all (fun c => s.busServes c 1 && stepsOn (.checkRetry ⟨7, 0⟩ c 1 (2 ^ 100 + e.1 * 2 ^ 32 + 70) false) s)) &&
     (let k := 2 ^ 48 + 2 * 2 ^ 31 + 3 * 2 ^ 10
      let t := s.retireBus 2 3
      !t.busServes 2 3 && t.busServes 3 3 && stepsOn (.checkRetry ⟨7, 0⟩ 3 3 (k + 1) false) t) &&
     (tget s.bulk 5).isNone && (tget s.moves 5).isNone && (tget s.rays 5).isNone && (tget s.packetCopies 5).any (fun c => c.lost.isEmpty) &&
     stepsOn (.checkRetry ⟨13, 0⟩ 5 8 0 false) s && stepsOn (.checkRetry ⟨0, 0⟩ 0 2 0 false) (queueing .parse [launchPacket] base)) = true := by
  decide +kernel

/-! ### The machine -/

theorem witness_canonical_memory : Memory.wf (ready .nop id).mem = true ∧ goesOn (step (ready .nop id)) = true := by decide +kernel

theorem witness_encodings :
    ((Instr.add 1 2 3 1).hasWord && (Instr.add 1 2 3 1).wellFormed && (match decode 0x0430A190#32 with
        | .ok i => i == .add 6 10 12 1
        | .error _ => false) &&
      [(0x00000000#32, Reason.reservedMajor), (0x7C000000#32, .reservedMajor), (0x0400000F#32, .reservedFn), (0xF8000083#32, .reservedField),
        (encode (.bara 1 0 3), .reservedField), (encode (.add 1 2 64 1), .outOfRange)].all (fun x => match decode x.1 with
          | .ok _ => false
          | .error r => r == x.2)) = true := by decide +kernel

theorem witness_step_runs_decoded :
    (let s := ready .nop id
     s.inputs.isEmpty && (s.wave? s.cur).any (fun w => w.trap.isNone && w.faultWait.isNone && w.fpPending.isEmpty &&
       (s.launch? w.launch).any (fun l => match s.translateFor w.cancelled l.domain (l.record.toNat % 2 ^ 64 + 0x40 + w.pc) .fetch with
         | .ok x => !s.anyPoison w.tag x.ver x.key 4 && !s.badCopy (256 + w.pcore) x.key 4 && (match decode (BitVec.ofNat 32 (s.readNat w.tag x.ver x.key 4)) with
           | .ok i => i == .nop
           | .error _ => false) && w.run.any (fun r => !({ s := s, w := w, r := r } : Ctx).mustWait 0)
         | .error _ => false))) = true := by decide +kernel

theorem witness_step_runs_headers :
    (let s := between id
     s.inputs.isEmpty && (s.wave? s.cur).any (fun w => w.run.isNone && (s.launch? w.launch).any (fun l => match w.issueAddr? with
       | some a => (w.resumeAt? a).isNone && decide (a + 4 ≤ l.codeBytes) &&
         (match s.translateFor w.cancelled l.domain (l.record.toNat % 2 ^ 64 + 0x40 + a) .fetch with
           | .ok x => (match decode (BitVec.ofNat 32 (s.readNat w.tag x.ver x.key 4)) with
             | .ok i => i == .runHeader 1 0 2 3 1
             | .error _ => false)
           | .error _ => false)
       | none => false)) && (goesOn (step s)) && !(Instr.vblank 0).hasWord) = true := by decide +kernel

theorem witness_illegal_word :
    (let s := State.reset.withFetchWord 32 0x7C000000
     (s.wave? s.cur).any (fun w => w.run.isSome && (s.launch? w.launch).any (fun l =>
       match s.translateFor w.cancelled l.domain (l.record.toNat % 2 ^ 64 + 0x40 + w.pc) .fetch with
         | .ok x => !s.anyPoison w.tag x.ver x.key 4 && !s.badCopy (256 + w.pcore) x.key 4 && (match decode (BitVec.ofNat 32 (s.readNat w.tag x.ver x.key 4)) with
           | .error e => e == .reservedMajor
           | .ok _ => false)
         | .error _ => false)) && goesOn (step s)) = true := by decide +kernel

theorem witness_memory :
    base.versions.isEmpty = true ∧ base.tagState 1 ≠ .squashed ∧ 0x100 + 4 ≤ 2 ^ 56 ∧ (0x100 / 32 * 32 = 0x100) ∧ (0x100 % 128 + 4 ≤ 128) ∧
      (base.writeBytes 0x100 [1, 2, 3, 4] false).readByte 0 false 0x102 = 3 := by decide +kernel

/-! ### Single steps, with the values that the rules give -/

/-- What a step leaves in the wave that issued an instruction. -/
def after {α : Type} (i : Instr) (f : Wave → Wave) (p : Wave → α) : Option α :=
  let s := ready i f
  match step s with
  | .next t => (t.wave? s.cur).map p
  | _ => none

/-- What a step of a state leaves in its current wave. -/
def stepped {α : Type} (s : State) (p : State → Wave → α) : Option α :=
  match step s with
  | .next t => (t.wave? s.cur).map (p t)
  | _ => none

/-- Lane 0's element of register 1 after a step, registers 2, 3 and 4 holding x, y and z in one format. -/
def result (fmt : Nat) (x y : Word) (i : Instr) : Option Word := after i (holding fmt [(2, x), (3, y)]) (fun w => w.reg 0 1)

/-- R217: sums wrap, MULH takes the high half of the signed product, the saturating forms stay at the ends, AVG rounds up. -/
theorem test_integer_values :
    result 2 0xFFFFFFFF 1 (.add 1 2 3 0) = some 0 ∧ result 2 0 1 (.sub 1 2 3 0) = some 0xFFFFFFFF ∧
    result 2 0xFFFFFFFF 3 (.mulh 1 2 3 0) = some 0xFFFFFFFF ∧ result 2 0xFFFFFFFF 3 (.mulhu 1 2 3 0) = some 2 ∧
    result 2 0x80000000 1 (.min 1 2 3 0) = some 0x80000000 ∧ result 2 0x80000000 1 (.minu 1 2 3 0) = some 1 ∧
    result 2 0x7FFFFFFF 1 (.adds 1 2 3 0) = some 0x7FFFFFFF ∧ result 3 0xFFFFFFFF 1 (.adds 1 2 3 0) = some 0xFFFFFFFF ∧
    result 2 0x80000000 1 (.subs 1 2 3 0) = some 0x80000000 ∧ result 2 3 4 (.avg 1 2 3 0) = some 4 ∧
    result 2 5 0xFFFFFFFE (.absd 1 2 3 0) = some 7 := by decide +kernel

/-- R218: a shift by 32 or more gives 0 or the sign, a rotation takes its count modulo 32. -/
theorem test_bit_values :
    result 0 1 32 (.shl 1 2 3 0) = some 0 ∧ result 0 0x80000000 40 (.sar 1 2 3 0) = some 0xFFFFFFFF ∧
    result 0 0x80000001 33 (.rotl 1 2 3 0) = some 3 ∧ result 0 0 0 (.clz 1 2) = some 32 ∧ result 0 1 0 (.brev 1 2) = some 0x80000000 ∧
    result 0 0xF0F0 0 (.popc 1 2) = some 8 ∧ result 0 0xFF 0x0F (.andn 1 2 3 0) = some 0xF0 := by decide +kernel

/-- R219, R220 and R222: signed and unsigned conditions, fields, and the select. -/
theorem test_compare_and_field_values :
    result 2 0xFFFFFFFF 1 (.cmpLt 1 2 3 0) = some 1 ∧ result 2 0xFFFFFFFF 1 (.cmpLtu 1 2 3 0) = some 0 ∧
    result 2 0xFFFFFFFF 0 (.cmpi 1 2 2 0) = some 1 ∧ result 2 0x12345678 0 (.bfx 1 2 8 8) = some 0x56 ∧
    result 2 0xAB 0 (.bfi 1 2 8 8) = some 0xAB00 ∧ result 2 0 0 (.movi 1 0x7FFFF) = some 0xFFFFFFFF ∧
    result 2 7 9 (.sel 1 2 3 0) = some 9 := by decide +kernel

/-- R221: the carry goes into the odd register. -/
theorem test_wide_values :
    after (.add64 2 4 6 0) (holding 19 [(4, 0xFFFFFFFF), (6, 1)]) (fun w => (w.reg 0 2, w.reg 0 3)) = some (0, 1) ∧
    after (.sext 2 4) (holding 2 [(4, 0x80000000)]) (fun w => (w.reg 0 2, w.reg 0 3)) = some (0x80000000, 0xFFFFFFFF) ∧
    after (.lea8 2 4 6 0) (fun w => { holding 19 [(4, 0x10)] w with rows := [
        (4, { tag := mkTag 19 0, elems := [(0, 0x10)], poison := 0, seen := 0 }), (6, { tag := mkTag 2 0, elems := [(0, 3)], poison := 0, seen := 0 })] })
      (fun w => w.reg 0 2) = some 0x28 := by decide +kernel

/-- R226, R227 and R230: exact sums and products, an unordered comparison, and the two halves of a packed sum. -/
theorem test_float_values :
    result 1 0x3F800000 0x3F800000 (.fadd 1 2 3 0) = some 0x40000000 ∧ result 1 0x7F800000 0xFF800000 (.fadd 1 2 3 0) = some 0x7FC00000 ∧
    result 1 0x40400000 0xC0000000 (.fmul 1 2 3 0) = some 0xC0C00000 ∧ result 1 0x7FC00000 0 (.fcmpUnord 1 2 3 0) = some 1 ∧
    result 1 0x80000000 0 (.fcmpEq 1 2 3 0) = some 1 ∧ result 1 0xBF800000 0 (.fabs 1 2) = some 0x3F800000 ∧
    result 4 0x3C004000 0x3C003C00 (.hadd2 1 2 3 0) = some 0x40004200 ∧
    after (.fadd 1 2 3 0) (holding 1 [(2, 0x7F800000), (3, 0xFF800000)]) (fun w => w.fpflags) = some 1 := by decide +kernel

/-- R223 and R46 on k registers. -/
theorem test_uniform_values :
    after (.kaddi 1 2 (-1)) (fun w => { w with k := [(2, 0)] }) (fun w => w.kreg 1) = some 0xFFFFFFFFFFFFFFFF ∧
    after (.kmovhi 1 5) (fun w => { w with k := [(1, 3)] }) (fun w => w.kreg 1) = some 0x180005 ∧
    after (.kcmplt 1 2 3) (fun w => { w with k := [(2, -1), (3, 0)] }) (fun w => w.kreg 1) = some 1 ∧
    after (.kcmpltu 1 2 3) (fun w => { w with k := [(2, -1), (3, 0)] }) (fun w => w.kreg 1) = some 0 := by decide +kernel

/-- R234: RETAG and SCALESET change the tag and not the element. -/
theorem test_tag_values :
    after (.retag 1 3) (filled 2 (fun _ => 9)) (fun w => ((w.row 1).tag, w.reg 0 1)) = some (0x1800, 9) ∧
    after (.scaleset 1 (-2)) (filled 8 (fun _ => 9)) (fun w => (w.row 1).tag) = some 0x40FE ∧
    after (.add 1 2 3 0) (filled 3 (fun _ => 9)) (fun w => (w.row 1).tag) = some 0x1800 := by decide +kernel

/-- R47, R181, R206, R210 to R213: where branches, loops, calls and returns send lane 0. -/
theorem test_control_values :
    after (.br 2) (filled 2 (fun _ => 0)) (fun w => w.vpcOf 0) = some 128 ∧
    after (.brz 2 2) (filled 2 (fun _ => 1)) (fun w => w.vpcOf 0) = some 8 ∧
    after (.loopi 0 5 3) (filled 2 (fun _ => 0)) (fun w => (w.lc, w.loops.map (fun e => (e.2.start, e.2.stop)))) = some ([(0, 5)], [(8, 20)]) ∧
    after (.call 4 1) roomy (fun w => (w.vpcOf 0, tgetD w.wbase 0 0, w.elem 3 0)) = some (64, 4, 0x08000008) ∧
    after (.jmpv 2) (filled 2 (fun _ => 64)) (fun w => w.vpcOf 0) = some 64 ∧
    after .exit (filled 2 (fun _ => 0)) (fun w => w.live) = some [] := by decide +kernel

/-- R393 and R398: TRAP 1 with a handler at 0x200 enters it, with cause 33. -/
theorem test_trap_values :
    stepped (withHandlers 0x200 (ready (.trap 1) id)) (fun _ w => (w.mode, w.vpcOf 5, w.trapcause, w.traplanes, w.trapinfo, w.fpctl)) =
      some (true, 0x200, 33, 0xFFFF, 1, 0) := by decide +kernel

/-- R53: the illegal word 0 traps with cause 0, the word and reason 0 in the record. -/
theorem test_illegal_word :
    stepped (withHandlers 0x200 (State.reset.withFetchWord 32 0)) (fun _ w => (w.mode, w.trapcause, w.trapinfo)) =
      some (true, 0, 0) := by decide +kernel

/-- R264 to R266: what STS writes stands in the scratchpad, low byte first. -/
theorem test_scratch_values :
    stepped (ready (.sts 4 2 2 0 0) (holding 2 [(2, 8), (4, 0x11223344)])) (fun t w => t.scratchBytes w 8 4) =
      some [0x44, 0x33, 0x22, 0x11] := by decide +kernel

/-- R362: an atomic add returns the old word and leaves the sum. -/
theorem test_atomic_values :
    (let s := withBytes (storageKey 0 0x100) (toBytes 4 7) (ready .nop (doing (.atomic 0 [2] [cell 4 [6] [5]] true)))
     (s.pending? s.cur 7).bind (fun x => let t := s.performAtomic x.1 x.2
       (t.wave? s.cur).map (fun w => (w.elem 6 0, t.readNat 0 false (storageKey 0 0x100) 4)))) = some (7, 12) := by decide +kernel

/-- R182: the inner loop's count falls to 0, and the outer loop goes round; at its last round both fall through. -/
theorem test_loops_that_end_together :
    after .nop (twoLoops 1 2) (fun w => (tgetD w.lc 1 0, tgetD w.lc 2 0, w.vpcOf 0)) = some (1, 0, 64) ∧
    after .nop (twoLoops 2 2) (fun w => (tgetD w.lc 1 0, tgetD w.lc 2 0, w.vpcOf 0)) = some (2, 1, 128) ∧
    after .nop (twoLoops 1 1) (fun w => (tgetD w.lc 1 0, tgetD w.lc 2 0, w.vpcOf 0)) = some (0, 0, 8) := by decide +kernel

/-- R77: the numbers of F32 in I32 and UI32, by the mode, with the ends of the range. -/
theorem test_conversion_values :
    result 1 0x40200000 0 (.cvt 1 2 2 0 0 0) = some 2 ∧ result 1 0xC0200000 0 (.cvt 1 2 2 2 0 0) = some 0xFFFFFFFE ∧
    result 1 0x7F800000 0 (.cvt 1 2 2 0 0 0) = some 0x7FFFFFFF ∧ result 1 0xBF800000 0 (.cvt 1 2 3 0 0 0) = some 0 ∧
    result 1 0x4F7FFFFF 0 (.cvt 1 2 3 0 0 0) = some 0xFFFFFF00 ∧ result 1 0x7FC00000 0 (.cvt 1 2 2 0 0 0) = some 0 := by decide +kernel

end Sys2Proof.Tests
end

/-!
Reads of memory after writes (R3, R135, R136, R149, R414). Where no COMMITTED version waits for its conversion, the committed
content is `State.mem` alone, and a branch's view of a line differs from it by the branch's own version alone.
-/

namespace Sys2Proof.Machine

/-! ### States with no version to convert -/

/-- No version of a COMMITTED tag is left to convert (R149). -/
def State.Converted (s : State) : Prop := ∀ v ∈ s.versions, s.tagState v.tag.toNat ≠ .committed

theorem State.Converted.committedVersion?_eq_none {s : State} (h : s.Converted) (line : Nat) :
    s.committedVersion? line = none :=
  List.find?_eq_none.mpr fun v hv => by simp [h v hv]

theorem State.Converted.convert_eq {s : State} (h : s.Converted) (line : Nat) : s.convert line = s := by
  simp [State.convert, h.committedVersion?_eq_none]

theorem State.Converted.converts_eq {s : State} (h : s.Converted) (lines : List Nat) :
    lines.foldl State.convert s = s := by
  induction lines with
  | nil => rfl
  | cons l t ih => rw [List.foldl_cons, h.convert_eq, ih]

/-- Converted states are recognised by their versions and tag states alone. -/
theorem State.Converted.congr {s t : State} (h : s.Converted) (hv : t.versions = s.versions)
    (ht : t.tagStates = s.tagStates) : t.Converted := by
  intro v hv'
  rw [hv] at hv'
  simpa [State.tagState, ht] using h v hv'

/-- An access without a tag, or to a page that is not versioned, sees the committed content. -/
theorem State.Converted.seen?_untagged {s : State} (h : s.Converted) (line : Nat) : s.seen? 0 false line = none :=
  h.committedVersion?_eq_none line

theorem isOwnedKey_of_lt {k : Nat} (h : k < 2 ^ 56) : isOwnedKey k = false := by
  simp only [isOwnedKey, decide_eq_false (Nat.not_le.mpr h), Bool.false_and]

theorem State.Converted.readByte_untagged {s : State} (h : s.Converted) (k : Nat) :
    s.readByte 0 false k = if isOwnedKey k then Config.areaByte k (s.nextId + s.ns) else mget s.mem k := by
  simp only [State.readByte, h.seen?_untagged]

theorem State.Converted.poisonedAt_untagged {s : State} (h : s.Converted) (k : Nat) :
    s.poisonedAt 0 false k = s.poison.contains (k / 32) := by
  simp only [State.poisonedAt, h.seen?_untagged]

/-! ### Poison of sectors -/

theorem contains_setPoison (l : List Nat) (x n : Nat) (on : Bool) :
    (setPoison l x on).contains n = if n = x then on else l.contains n := by
  cases on with
  | false => by_cases hn : n = x <;> simp [setPoison, hn]
  | true =>
    by_cases hx : x ∈ l
    · by_cases hn : n = x <;> simp [setPoison, hx, hn]
    · by_cases hn : n = x <;> simp [setPoison, hx, hn]

/-- What a write does to the poison of one sector that it touches (R414): the fold of `State.writeBytes`. -/
def markSector (pois : Bool) (p : List Nat) (x : Nat × Bool) : List Nat :=
  if pois then setPoison p x.1 true else if x.2 then setPoison p x.1 false else p

theorem contains_markSector_ne (pois : Bool) (p : List Nat) (x : Nat × Bool) {n : Nat} (h : x.1 ≠ n) :
    (markSector pois p x).contains n = p.contains n := by
  unfold markSector
  split
  · rw [contains_setPoison, if_neg h.symm]
  · split
    · rw [contains_setPoison, if_neg h.symm]
    · rfl

theorem contains_markSector_whole (pois : Bool) (p : List Nat) (n : Nat) :
    (markSector pois p (n, true)).contains n = pois := by
  cases pois <;> simp only [markSector, if_true, Bool.false_eq_true, if_false, contains_setPoison]

theorem contains_markSectors_ne (pois : Bool) (xs : List (Nat × Bool)) (p : List Nat) {n : Nat}
    (h : ∀ x ∈ xs, x.1 ≠ n) : (xs.foldl (markSector pois) p).contains n = p.contains n := by
  induction xs generalizing p with
  | nil => rfl
  | cons x t ih =>
    rw [List.foldl_cons, ih _ fun y hy => h y (List.mem_cons_of_mem x hy),
      contains_markSector_ne pois p x (h x List.mem_cons_self)]

theorem sectorsOf_aligned {key : Nat} (h : key / 32 * 32 = key) : sectorsOf key 32 = [(key / 32, true)] := by
  have hcount : (key + 32 - 1) / 32 - key / 32 + 1 = 1 := by omega
  simp only [sectorsOf, hcount]
  simp [h]

theorem sectorsOf_bounds {key n : Nat} {x : Nat × Bool} (h : x ∈ sectorsOf key n) :
    key / 32 ≤ x.1 ∧ x.1 ≤ (key + n - 1) / 32 := by
  unfold sectorsOf at h
  split at h
  · cases h
  · obtain ⟨i, hi, rfl⟩ := List.mem_map.mp h
    have := List.mem_range.mp hi
    show key / 32 ≤ key / 32 + i ∧ key / 32 + i ≤ _
    omega

/-! ### Writes to the committed content -/

section WriteBytes

variable {s : State} (key : Nat) (bytes : List Byte) (pois : Bool)

/-- What a write to the committed content leaves, of what a read depends on. -/
theorem State.Converted.writeBytes_frame (h : s.Converted) :
    let t := s.writeBytes key bytes pois
    t.versions = s.versions ∧ t.tagStates = s.tagStates ∧ t.nextId = s.nextId ∧ t.ns = s.ns := by
  unfold State.writeBytes
  split
  · simp
  · simp [h.converts_eq]

theorem State.Converted.writeBytes_converted (h : s.Converted) : (s.writeBytes key bytes pois).Converted := by
  obtain ⟨hversions, htags, -, -⟩ := h.writeBytes_frame key bytes pois
  exact h.congr hversions htags

/-- A write below the owned backing areas either writes no byte, or reaches memory. -/
theorem writeBytes_skips_iff {key : Nat} {bytes : List Byte} (hfit : key + bytes.length ≤ 2 ^ 56) :
    (bytes.isEmpty || isOwnedKey key) = true ↔ bytes = [] := by
  cases bytes with
  | nil => simp
  | cons b t => simp [isOwnedKey_of_lt (show key < 2 ^ 56 by simp only [List.length_cons] at hfit; omega)]

theorem State.Converted.mget_writeBytes (h : s.Converted) (hfit : key + bytes.length ≤ 2 ^ 56) (k : Nat) :
    mget (s.writeBytes key bytes pois).mem k =
      if key ≤ k ∧ k < key + bytes.length then (bytes[k - key]?).getD 0 else mget s.mem k := by
  unfold State.writeBytes
  split
  next hskip =>
    rw [(writeBytes_skips_iff hfit).mp hskip, List.length_nil, if_neg (by omega)]
  next => simp only [h.converts_eq, mget_mputs]

theorem State.Converted.writeBytes_poison (h : s.Converted) (hfit : key + bytes.length ≤ 2 ^ 56) :
    (s.writeBytes key bytes pois).poison = (sectorsOf key bytes.length).foldl (markSector pois) s.poison := by
  unfold State.writeBytes
  split
  next hskip => rw [(writeBytes_skips_iff hfit).mp hskip]; rfl
  next => simp only [h.converts_eq]; rfl

theorem State.Converted.readByte_writeBytes_inside (h : s.Converted) (hfit : key + bytes.length ≤ 2 ^ 56) {j : Nat} {b : Byte}
    (hj : bytes[j]? = some b) : (s.writeBytes key bytes pois).readByte 0 false (key + j) = b := by
  have hlt : j < bytes.length := (List.getElem?_eq_some_iff.mp hj).1
  rw [(h.writeBytes_converted key bytes pois).readByte_untagged, isOwnedKey_of_lt (by omega), if_neg Bool.false_ne_true,
    h.mget_writeBytes key bytes pois hfit, if_pos (by omega), Nat.add_sub_cancel_left, hj, Option.getD_some]

theorem State.Converted.readByte_writeBytes_outside (h : s.Converted) (hfit : key + bytes.length ≤ 2 ^ 56) {k : Nat}
    (hk : k < key ∨ key + bytes.length ≤ k) :
    (s.writeBytes key bytes pois).readByte 0 false k = s.readByte 0 false k := by
  obtain ⟨-, -, hnext, hns⟩ := h.writeBytes_frame key bytes pois
  rw [(h.writeBytes_converted key bytes pois).readByte_untagged, h.readByte_untagged, hnext, hns,
    h.mget_writeBytes key bytes pois hfit, if_neg (show ¬(key ≤ k ∧ k < key + bytes.length) by omega)]

theorem State.Converted.poisonedAt_writeBytes_whole (h : s.Converted) (hfit : key + bytes.length ≤ 2 ^ 56) {k : Nat}
    (haligned : key / 32 * 32 = key) (hwhole : bytes.length = 32) (hk : key / 32 = k / 32) :
    (s.writeBytes key bytes pois).poisonedAt 0 false k = pois := by
  rw [(h.writeBytes_converted key bytes pois).poisonedAt_untagged, h.writeBytes_poison key bytes pois hfit, hwhole,
    sectorsOf_aligned haligned, ← hk]
  exact contains_markSector_whole pois s.poison (key / 32)

theorem State.Converted.poisonedAt_writeBytes_outside (h : s.Converted) (hfit : key + bytes.length ≤ 2 ^ 56) {k : Nat}
    (hk : k < key / 32 * 32 ∨ key + bytes.length + 31 < k) :
    (s.writeBytes key bytes pois).poisonedAt 0 false k = s.poisonedAt 0 false k := by
  rw [(h.writeBytes_converted key bytes pois).poisonedAt_untagged, h.poisonedAt_untagged, h.writeBytes_poison key bytes pois hfit]
  refine contains_markSectors_ne pois _ _ fun x hx => ?_
  have := sectorsOf_bounds hx
  omega

end WriteBytes

/-! ### Versions, apart from where they are kept -/

/-- A version apart from whether a backing area keeps it (R140), which no read depends on. -/
def Version.unplaced (v : Version) : Version := { v with backed := false }

theorem Version.tag_eq_of_unplaced_eq {v w : Version} (h : v.unplaced = w.unplaced) : v.tag = w.tag := by
  obtain ⟨-, htag, -⟩ := Version.mk.inj h
  exact htag

theorem Version.bytes_eq_of_unplaced_eq {v w : Version} (h : v.unplaced = w.unplaced) : v.bytes = w.bytes := by
  obtain ⟨-, -, hbytes, -⟩ := Version.mk.inj h
  exact hbytes

/-- The test by which `State.version?` finds a tag's version of a line. -/
def Version.isOf (line : Nat) (tag : BitVec 4) (v : Version) : Bool := v.line == line && v.tag == tag

theorem Version.isOf_iff {line : Nat} {tag : BitVec 4} {v : Version} :
    v.isOf line tag = true ↔ v.line = line ∧ v.tag = tag := by
  simp [Version.isOf]

@[simp] theorem Version.isOf_unplaced (line : Nat) (tag : BitVec 4) :
    Version.isOf line tag ∘ Version.unplaced = Version.isOf line tag :=
  rfl

theorem version?_unplaced (s : State) (line : Nat) (tag : BitVec 4) :
    (s.version? line tag).map Version.unplaced = (s.versions.map Version.unplaced).find? (Version.isOf line tag) := by
  rw [List.find?_map, Version.isOf_unplaced]
  rfl

/-- The versions other than a tag's of a line, apart from where they are kept. -/
def State.otherVersions (s : State) (line : Nat) (tag : BitVec 4) : List Version :=
  (s.versions.filter fun w => !w.isOf line tag).map Version.unplaced

theorem otherVersions_eq (s : State) (line : Nat) (tag : BitVec 4) :
    s.otherVersions line tag = (s.versions.map Version.unplaced).filter fun w => !w.isOf line tag := by
  rw [List.filter_map]
  rfl

theorem find?_otherVersions (s : State) {line line' : Nat} {tag tag' : BitVec 4} (h : line' ≠ line ∨ tag' ≠ tag) :
    (s.otherVersions line tag).find? (Version.isOf line' tag') = (s.version? line' tag').map Version.unplaced := by
  have himp : ∀ v : Version, ((!v.isOf line tag) = true ∧ v.isOf line' tag' = true) ↔ v.isOf line' tag' = true := by
    intro v
    refine and_iff_right_of_imp fun hv => ?_
    obtain ⟨rfl, rfl⟩ := Version.isOf_iff.mp hv
    rw [Bool.not_eq_true', ← Bool.not_eq_true, Version.isOf_iff]
    rintro ⟨hline, htag⟩
    exact h.elim (fun hn => hn hline) (fun hn => hn htag)
  rw [State.otherVersions, List.find?_map, Version.isOf_unplaced, List.find?_filter]
  simp only [himp, Bool.decide_eq_true]
  rfl

/-! ### Room for a version, and its creation -/

/-- One state is another, but that versions may have gone to backing areas (R140). -/
structure Rehoused (s t : State) : Prop where
  frame : t = { s with versions := t.versions }
  versions : t.versions.map Version.unplaced = s.versions.map Version.unplaced

namespace Rehoused

variable {s t : State}

theorem refl (s : State) : Rehoused s s := ⟨rfl, rfl⟩

theorem mem (h : Rehoused s t) : t.mem = s.mem := by rw [h.frame]
theorem nextId (h : Rehoused s t) : t.nextId = s.nextId := by rw [h.frame]
theorem ns (h : Rehoused s t) : t.ns = s.ns := by rw [h.frame]
theorem tagStates (h : Rehoused s t) : t.tagStates = s.tagStates := by rw [h.frame]

theorem converted (h : Rehoused s t) (hs : s.Converted) : t.Converted := by
  intro v hv
  have hmem : v.unplaced ∈ s.versions.map Version.unplaced := h.versions ▸ List.mem_map_of_mem hv
  obtain ⟨w, hw, heq⟩ := List.mem_map.mp hmem
  simpa [State.tagState, h.tagStates, Version.tag_eq_of_unplaced_eq heq] using hs w hw

theorem otherVersions (h : Rehoused s t) (line : Nat) (tag : BitVec 4) :
    t.otherVersions line tag = s.otherVersions line tag := by
  simp only [otherVersions_eq, h.versions]

theorem readByte_untagged (h : Rehoused s t) (hs : s.Converted) (k : Nat) :
    t.readByte 0 false k = s.readByte 0 false k := by
  rw [(h.converted hs).readByte_untagged, hs.readByte_untagged, h.mem, h.nextId, h.ns]

end Rehoused

/-- Making room for a version moves at most one older version to a backing area (R140). -/
theorem makeRoom_rehoused {s : State} {line : Nat} {tag : BitVec 4} {r : State × Bool} (h : s.makeRoom line tag = some r) :
    Rehoused s r.1 := by
  unfold State.makeRoom at h
  split at h
  next =>
    cases h
    exact .refl s
  next =>
    split at h
    next =>
      split at h
      next =>
        cases h
        exact .refl s
      next => cases h
    next =>
      cases h
      refine ⟨rfl, ?_⟩
      rw [List.map_map]
      refine List.map_congr_left fun x _ => ?_
      rw [Function.comp_apply]
      split <;> rfl

/-- A tag's version of a line is found, or it is created (R136) and, where there is room for it (R140), listed. -/
theorem openVersion_cases (s : State) (line : Nat) (tag : BitVec 4) :
    (∃ v, s.version? line tag = some v ∧ s.openVersion line tag = (s, v)) ∨
    s.version? line tag = none ∧ ∃ t backed, Rehoused s t ∧
      let v := t.newVersion line tag backed
      (s.openVersion line tag = (t, v) ∨ s.openVersion line tag = ({ t with versions := v :: t.versions }, v)) := by
  unfold State.openVersion State.placeVersion
  cases hv : s.version? line tag with
  | some v => exact .inl ⟨v, rfl, rfl⟩
  | none =>
    refine .inr ⟨rfl, ?_⟩
    cases hr : s.makeRoom line tag with
    | none => exact ⟨s, true, .refl s, .inl rfl⟩
    | some r => exact ⟨r.1, r.2, makeRoom_rehoused hr, .inr rfl⟩

theorem openVersion_frame (s : State) (line : Nat) (tag : BitVec 4) :
    (s.openVersion line tag).1 = { s with versions := (s.openVersion line tag).1.versions } := by
  obtain ⟨v, -, heq⟩ | ⟨-, t, backed, ht, heq | heq⟩ := openVersion_cases s line tag
  · rw [heq]
  · rw [heq]
    exact ht.frame
  · rw [heq]
    exact congrArg (fun x : State => { x with versions := t.newVersion line tag backed :: t.versions }) ht.frame

theorem openVersion_otherVersions (s : State) (line : Nat) (tag : BitVec 4) :
    (s.openVersion line tag).1.otherVersions line tag = s.otherVersions line tag := by
  obtain ⟨v, -, heq⟩ | ⟨-, t, backed, ht, heq | heq⟩ := openVersion_cases s line tag
  · rw [heq]
  · rw [heq]
    exact ht.otherVersions line tag
  · rw [heq, ← ht.otherVersions line tag]
    simp [State.otherVersions, Version.isOf, State.newVersion]

theorem openVersion_isOf (s : State) (line : Nat) (tag : BitVec 4) :
    (s.openVersion line tag).2.isOf line tag = true := by
  obtain ⟨v, hv, heq⟩ | ⟨-, t, backed, -, heq | heq⟩ := openVersion_cases s line tag
  · rw [heq]
    exact List.find?_some hv
  · simp [heq, Version.isOf, State.newVersion]
  · simp [heq, Version.isOf, State.newVersion]

theorem tget_map_key {α : Type} (f : Nat → α) (keys : List Nat) {i : Nat} (hi : i ∈ keys) :
    tget (keys.map fun k => (k, f k)) i = some (f i) := by
  induction keys with
  | nil => cases hi
  | cons k t ih =>
    rw [List.map_cons, tget]
    split
    next h => rw [h]
    next h => exact ih ((List.mem_cons.mp hi).resolve_left (Ne.symm h))

/-- A new version holds the committed line as it stands (R136). -/
theorem newVersion_byte (s : State) (tag : BitVec 4) (backed : Bool) (k : Nat) :
    tgetD (s.newVersion (lineOf k) tag backed).bytes (k % 128) 0 = s.readByte 0 false k := by
  have hk : lineOf k * 128 + k % 128 = k := Nat.div_add_mod' k 128
  have hbyte : k % 128 ∈ List.range 128 := List.mem_range.mpr (Nat.mod_lt k (by decide))
  rw [tgetD, State.newVersion, tget_map_key _ _ hbyte, Option.getD_some, hk]

/-! ### Reads through a branch's tag -/

theorem readByte_owned (s : State) (tag : BitVec 4) (ver : Bool) {k : Nat} (h : isOwnedKey k = true) :
    s.readByte tag ver k = Config.areaByte k (s.nextId + s.ns) := if_pos h

/-- A live branch's own version is what it reads on a versioned page (R135). -/
theorem readByte_of_version? {s : State} {tag : BitVec 4} {k : Nat} {v : Version} (htag : tag ≠ 0)
    (hlive : s.tagState tag.toNat ≠ .squashed) (hk : isOwnedKey k = false) (hv : s.version? (lineOf k) tag = some v) :
    s.readByte tag true k = tgetD v.bytes (k % 128) 0 := by
  have hseen : s.seen? tag true (lineOf k) = some v := by
    simp only [State.seen?, State.dropsTag, bne_iff_ne.mpr htag, beq_eq_false_iff_ne.mpr hlive, hv]
    rfl
  simp only [State.readByte, hk, hseen, Bool.false_eq_true, if_false]

/-- What an access sees of a line whose committed content is memory's. -/
theorem seen?_of_committedVersion?_none {s : State} {line : Nat} (h : s.committedVersion? line = none)
    (tag : BitVec 4) (ver : Bool) :
    s.seen? tag ver line = if ver && tag != 0 && !s.dropsTag tag then s.version? line tag else none := by
  unfold State.seen?
  split
  · cases s.version? line tag with
    | some v => rfl
    | none => exact h
  · exact h

/-- Without a version of its own, a branch reads the committed content (R135). -/
theorem State.Converted.readByte_of_no_version {s : State} (h : s.Converted) {tag : BitVec 4} {k : Nat}
    (hv : s.version? (lineOf k) tag = none) (ver : Bool) : s.readByte tag ver k = s.readByte 0 false k := by
  have hseen : s.seen? tag ver (lineOf k) = none := by
    simp [seen?_of_committedVersion?_none (h.committedVersion?_eq_none _), hv]
  simp only [State.readByte, hseen, h.seen?_untagged]

theorem State.Converted.openVersion_byte {s : State} (h : s.Converted) {tag : BitVec 4} {k : Nat} (htag : tag ≠ 0)
    (hlive : s.tagState tag.toNat ≠ .squashed) (hk : isOwnedKey k = false) :
    tgetD (s.openVersion (lineOf k) tag).2.bytes (k % 128) 0 = s.readByte tag true k := by
  obtain ⟨v, hv, heq⟩ | ⟨hv, t, backed, ht, heq | heq⟩ := openVersion_cases s (lineOf k) tag
  · rw [heq, readByte_of_version? htag hlive hk hv]
  · rw [heq, newVersion_byte, ht.readByte_untagged h, h.readByte_of_no_version hv]
  · rw [heq, newVersion_byte, ht.readByte_untagged h, h.readByte_of_no_version hv]

theorem tgetD_putVersionBytes (t : Tbl Byte) (off : Nat) (bs : List Byte) (j : Nat) (d : Byte) :
    tgetD (putVersionBytes t off bs) j d = if off ≤ j ∧ j < off + bs.length then (bs[j - off]?).getD d else tgetD t j d := by
  induction bs generalizing t off with
  | nil => rw [putVersionBytes, List.length_nil, if_neg (by omega)]
  | cons b r ih =>
    rw [putVersionBytes, ih, List.length_cons]
    obtain hlt | rfl | hgt := Nat.lt_trichotomy j off
    · rw [if_neg (by omega), if_neg (by omega), tgetD_tset_ne _ _ _ (by omega)]
    · rw [if_neg (by omega), if_pos (by omega), tgetD_tset_same, Nat.sub_self, List.getElem?_cons_zero, Option.getD_some]
    · obtain ⟨n, rfl⟩ : ∃ n, j = off + 1 + n := ⟨j - (off + 1), by omega⟩
      rw [tgetD_tset_ne _ _ _ (by omega), Nat.add_sub_cancel_left, show off + 1 + n - off = n + 1 by omega,
        List.getElem?_cons_succ]
      simp only [show (off + 1 ≤ off + 1 + n ∧ off + 1 + n < off + 1 + r.length) ↔
        (off ≤ off + 1 + n ∧ off + 1 + n < off + (r.length + 1)) by omega]

/-- A read depends on memory, on the bytes of the version that it sees, and for an owned backing area on the moment. -/
theorem readByte_congr {s t : State} {tag : BitVec 4} {ver : Bool} {k : Nat} (hmem : t.mem = s.mem)
    (hnext : t.nextId = s.nextId) (hns : t.ns = s.ns)
    (hseen : (t.seen? tag ver (lineOf k)).map Version.unplaced = (s.seen? tag ver (lineOf k)).map Version.unplaced) :
    t.readByte tag ver k = s.readByte tag ver k := by
  unfold State.readByte
  rw [hmem, hnext, hns]
  generalize t.seen? tag ver (lineOf k) = x, s.seen? tag ver (lineOf k) = y at hseen
  cases x <;> cases y
  case none.none => rfl
  case none.some => cases hseen
  case some.none => cases hseen
  case some.some v w => simp only [Version.bytes_eq_of_unplaced_eq (Option.some.inj hseen)]

theorem writeAs_tagged (s : State) {tag : BitVec 4} (htag : tag ≠ 0) (key : Nat) (bytes : List Byte) (pois : Bool) :
    s.writeAs tag true key bytes pois = s.writeVersion tag key bytes pois :=
  if_pos (by rw [Bool.true_and]; exact bne_iff_ne.mpr htag)

/-! ### Writes to a branch's version -/

section WriteVersion

variable {s : State} {tag : BitVec 4} (key : Nat) (bytes : List Byte) (pois : Bool)

/-- What a write to a version leaves, of what a read depends on. -/
theorem State.Converted.writeVersion_frame (h : s.Converted) :
    let u := s.writeVersion tag key bytes pois
    u.mem = s.mem ∧ u.tagStates = s.tagStates ∧ u.nextId = s.nextId ∧ u.ns = s.ns := by
  have hopen := openVersion_frame s (lineOf key) tag
  simp only [State.writeVersion, State.recall, h.convert_eq]
  generalize s.openVersion (lineOf key) tag = r at hopen
  rw [hopen]
  simp

/-- The version written stands first, before the others that opening it left. -/
theorem State.Converted.writeVersion_versions (h : s.Converted) : ∃ poison,
    (s.writeVersion tag key bytes pois).versions =
      { (s.openVersion (lineOf key) tag).2 with
        bytes := putVersionBytes (s.openVersion (lineOf key) tag).2.bytes (key % 128) bytes
        poison := poison } ::
      (s.openVersion (lineOf key) tag).1.versions.filter fun w => !w.isOf (lineOf key) tag := by
  simp only [State.writeVersion, State.recall, h.convert_eq]
  exact ⟨_, rfl⟩

/-- The tag's version of the line holds the bytes written, over those that it had. -/
theorem State.Converted.version?_writeVersion_same (h : s.Converted) : ∃ v,
    (s.writeVersion tag key bytes pois).version? (lineOf key) tag = some v ∧
      v.bytes = putVersionBytes (s.openVersion (lineOf key) tag).2.bytes (key % 128) bytes := by
  obtain ⟨poison, heq⟩ := h.writeVersion_versions (tag := tag) key bytes pois
  refine ⟨{ (s.openVersion (lineOf key) tag).2 with bytes := _, poison := poison }, ?_, rfl⟩
  rw [State.version?, heq]
  exact List.find?_cons_of_pos (openVersion_isOf s (lineOf key) tag)

/-- Every version that a write leaves is the tag's own of the line, or is like one from before. -/
theorem State.Converted.mem_writeVersion (h : s.Converted) {v : Version}
    (hv : v ∈ (s.writeVersion tag key bytes pois).versions) :
    v.isOf (lineOf key) tag = true ∨ ∃ w ∈ s.versions, w.unplaced = v.unplaced := by
  obtain ⟨poison, heq⟩ := h.writeVersion_versions (tag := tag) key bytes pois
  rw [heq] at hv
  obtain rfl | hv := List.mem_cons.mp hv
  · exact .inl (openVersion_isOf s (lineOf key) tag)
  · have hother : v.unplaced ∈ (s.openVersion (lineOf key) tag).1.otherVersions (lineOf key) tag := List.mem_map_of_mem hv
    rw [openVersion_otherVersions] at hother
    obtain ⟨w, hw, hwv⟩ := List.mem_map.mp hother
    exact .inr ⟨w, (List.mem_filter.mp hw).1, hwv⟩

/-- The other versions stay, whatever backing area keeps them. -/
theorem State.Converted.version?_writeVersion_other (h : s.Converted) {line : Nat} {other : BitVec 4}
    (hne : line ≠ lineOf key ∨ other ≠ tag) :
    ((s.writeVersion tag key bytes pois).version? line other).map Version.unplaced =
      (s.version? line other).map Version.unplaced := by
  obtain ⟨poison, heq⟩ := h.writeVersion_versions (tag := tag) key bytes pois
  obtain ⟨hline, htag⟩ := Version.isOf_iff.mp (openVersion_isOf s (lineOf key) tag)
  rw [version?_unplaced, heq, List.map_cons, List.find?_cons_of_neg, ← find?_otherVersions s hne,
    ← openVersion_otherVersions]
  · rfl
  · rw [Version.isOf_iff]
    show ¬((s.openVersion (lineOf key) tag).2.line = line ∧ (s.openVersion (lineOf key) tag).2.tag = other)
    rw [hline, htag]
    rintro ⟨rfl, rfl⟩
    exact hne.elim (fun hn => hn rfl) (fun hn => hn rfl)

/-- The version written becomes a line's committed content only where its own tag is COMMITTED. -/
theorem State.Converted.committedVersion?_writeVersion (h : s.Converted) {line : Nat}
    (hne : line ≠ lineOf key ∨ s.tagState tag.toNat ≠ .committed) :
    (s.writeVersion tag key bytes pois).committedVersion? line = none := by
  obtain ⟨-, htags, -, -⟩ := h.writeVersion_frame (tag := tag) key bytes pois
  refine List.find?_eq_none.mpr fun v hv => ?_
  simp only [State.tagState, htags, Bool.and_eq_true, beq_iff_eq, not_and]
  rintro rfl
  obtain hown | ⟨w, hw, hwv⟩ := h.mem_writeVersion key bytes pois hv
  · obtain ⟨hline, rfl⟩ := Version.isOf_iff.mp hown
    exact hne.resolve_left fun hn => hn hline
  · rw [← Version.tag_eq_of_unplaced_eq hwv]
    exact h w hw

/-- Of the line written, the tag reads the bytes written over those that it read before (R136). -/
theorem State.Converted.readByte_writeVersion_line (h : s.Converted) (htag : tag ≠ 0)
    (hlive : s.tagState tag.toNat ≠ .squashed) {k : Nat} (hline : lineOf k = lineOf key) (hk : isOwnedKey k = false) :
    (s.writeVersion tag key bytes pois).readByte tag true k =
      if key % 128 ≤ k % 128 ∧ k % 128 < key % 128 + bytes.length then (bytes[k % 128 - key % 128]?).getD 0
      else s.readByte tag true k := by
  obtain ⟨-, htags, -, -⟩ := h.writeVersion_frame (tag := tag) key bytes pois
  obtain ⟨v, hv, hbytes⟩ := h.version?_writeVersion_same (tag := tag) key bytes pois
  have hlive' : (s.writeVersion tag key bytes pois).tagState tag.toNat ≠ .squashed := by
    simpa [State.tagState, htags] using hlive
  rw [readByte_of_version? htag hlive' hk (hline ▸ hv), hbytes, tgetD_putVersionBytes, ← hline,
    h.openVersion_byte htag hlive hk]

/-- An access that does not see the version written reads what it read before. -/
theorem State.Converted.readByte_writeVersion_other (h : s.Converted) {other : BitVec 4} {ver : Bool} {k : Nat}
    (hsees : lineOf k ≠ lineOf key ∨ (other ≠ tag ∨ ver = false) ∧ s.tagState tag.toNat ≠ .committed) :
    (s.writeVersion tag key bytes pois).readByte other ver k = s.readByte other ver k := by
  obtain ⟨hmem, htags, hnext, hns⟩ := h.writeVersion_frame (tag := tag) key bytes pois
  have hseen : ((s.writeVersion tag key bytes pois).seen? other ver (lineOf k)).map Version.unplaced =
      (s.seen? other ver (lineOf k)).map Version.unplaced := by
    rw [seen?_of_committedVersion?_none (h.committedVersion?_writeVersion key bytes pois (hsees.imp_right And.right)),
      seen?_of_committedVersion?_none (h.committedVersion?_eq_none _)]
    have hdrops : (s.writeVersion tag key bytes pois).dropsTag other = s.dropsTag other := by
      simp only [State.dropsTag, State.tagState, htags]
    rw [hdrops]
    by_cases huse : (ver && other != 0 && !s.dropsTag other) = true
    · have hver : ver ≠ false := by
        rintro rfl
        cases huse
      rw [if_pos huse, if_pos huse]
      exact h.version?_writeVersion_other key bytes pois (hsees.imp_right fun hs => hs.1.resolve_right hver)
    · rw [if_neg huse, if_neg huse]
  exact readByte_congr hmem hnext hns hseen

theorem State.Converted.readByte_writeVersion_inside (h : s.Converted) (htag : tag ≠ 0)
    (hlive : s.tagState tag.toNat ≠ .squashed) (hfit : key + bytes.length ≤ 2 ^ 56)
    (hline : key % 128 + bytes.length ≤ 128) {j : Nat} {b : Byte} (hj : bytes[j]? = some b) :
    (s.writeVersion tag key bytes pois).readByte tag true (key + j) = b := by
  have hlt : j < bytes.length := (List.getElem?_eq_some_iff.mp hj).1
  have hmod : (key + j) % 128 = key % 128 + j := by omega
  have hsame : lineOf (key + j) = lineOf key := by
    unfold lineOf
    omega
  rw [h.readByte_writeVersion_line key bytes pois htag hlive hsame (isOwnedKey_of_lt (by omega)), hmod, if_pos (by omega),
    Nat.add_sub_cancel_left, hj, Option.getD_some]

theorem State.Converted.readByte_writeVersion_outside (h : s.Converted) (htag : tag ≠ 0)
    (hlive : s.tagState tag.toNat ≠ .squashed) {k : Nat} (hk : k < key ∨ key + bytes.length ≤ k) :
    (s.writeVersion tag key bytes pois).readByte tag true k = s.readByte tag true k := by
  obtain ⟨-, -, hnext, hns⟩ := h.writeVersion_frame (tag := tag) key bytes pois
  by_cases hsame : lineOf k = lineOf key
  · cases howned : isOwnedKey k with
    | true => rw [readByte_owned _ _ _ howned, readByte_owned _ _ _ howned, hnext, hns]
    | false =>
      have hdiv : k / 128 = key / 128 := hsame
      rw [h.readByte_writeVersion_line key bytes pois htag hlive hsame howned, if_neg (by omega)]
  · exact h.readByte_writeVersion_other key bytes pois (.inl hsame)

end WriteVersion

/-- Settles O59: a write to the committed content replaces memory's bytes and no others, and a write by a branch replaces its own
version of the line and no other. -/
theorem memoryReadsBack : Obligations.MemoryReadsBack := by
  unfold Obligations.MemoryReadsBack
  intro s key bytes pois hs hfit t
  have h : s.Converted := hs
  obtain ⟨hversions, -, -, -⟩ := h.writeBytes_frame key bytes pois
  have houter := outer_writeBytes s key bytes pois
  obtain ⟨-, hwaves, -⟩ := houter.rest
  refine ⟨fun j b => h.readByte_writeBytes_inside key bytes pois hfit,
    fun k => h.readByte_writeBytes_outside key bytes pois hfit,
    fun k => h.poisonedAt_writeBytes_whole key bytes pois hfit,
    fun k => h.poisonedAt_writeBytes_outside key bytes pois hfit,
    hversions, hwaves, houter.queues, fun tag htag hlive hline => ?_⟩
  rw [writeAs_tagged s htag]
  obtain ⟨hmem, -, -, -⟩ := h.writeVersion_frame (tag := tag) key bytes pois
  exact ⟨hmem,
    fun j b => h.readByte_writeVersion_inside key bytes pois htag hlive hfit hline,
    fun k => h.readByte_writeVersion_outside key bytes pois htag hlive,
    fun other ver k hother hopen => h.readByte_writeVersion_other key bytes pois (.inr ⟨hother, hopen⟩)⟩

end Sys2Proof.Machine
